-- ==== Sys2Proof/Word.lean ====
section
/-! DEFINITION. The word types of the CX960M (spec 00 R5) and the operand types of its instruction words:
the names Tables 1-3, 4-3, 5-1, 6-1, 6-3, 6-7, 7-1, 8-1 and 9-2 give to the values of a field. Their bit codes
stand in Decode.lean. -/

namespace Sys2Proof

abbrev Byte := BitVec 8
abbrev Word := BitVec 32
abbrev DWord := BitVec 64

/-- An operand byte (R21): 0x00–0xDF a lane register, 0xE0–0xFF a block constant. -/
abbrev Reg := BitVec 8

/-- The operand an entry marks I (R109): a register, or imm24 sign-extended. -/
inductive Src where
  | reg (r : Reg)
  | imm (v : BitVec 24)
deriving DecidableEq, Repr

/-- SHFL's B (Table 6-7): a register, or imm24 [4:0]. -/
inductive ShSrc where
  | reg (r : Reg)
  | imm (v : BitVec 5)
deriving DecidableEq, Repr

/-- An instruction's guard (Table 2-2, R25). -/
structure Guard where
  n0 : Bool
  g0 : BitVec 3
  n1 : Bool
  g1 : BitVec 3
  orComb : Bool
deriving DecidableEq, Repr

/-- The guard field of an instruction with no guard (R58). -/
def Guard.always : Guard := ⟨false, 7, false, 7, false⟩

/-- What every thread-code word carries: guard, stall count, yield bit. -/
structure Pre where
  g : Guard
  stall : BitVec 4
  yld : Bool
deriving DecidableEq, Repr

/-- Rounding modes (Table 4-3). -/
inductive Rm where
  | rn | rz | ru | rd | rna
deriving DecidableEq, Repr

/-- Cache hints (Table 7-1). -/
inductive Hint where
  | dflt | evf | keep | byl1 | byl2
deriving DecidableEq, Repr

/-- The seven scopes (Table 1-3). -/
inductive Scope where
  | th | cr | qd | rw | pt | dv | sy
deriving DecidableEq, Repr

/-- Semantics of scoped accesses (Table 7-1). -/
inductive Sem where
  | rlx | acq | rel | ar
deriving DecidableEq, Repr

/-- Integer comparisons (Table 5-1). -/
inductive Cmp where
  | eq | ne | lt | le | gt | ge
deriving DecidableEq, Repr

/-- Floating comparisons (Table 6-1). -/
inductive FCmp where
  | eq | ne | lt | le | gt | ge | num | nan
deriving DecidableEq, Repr

/-- Engine-counter classes (R30, R124). -/
inductive EngClass where
  | cp | ga | mx | co | sl | tr | rp
deriving DecidableEq, Repr

/-- Saturation of packed arithmetic (R141, R142). -/
inductive SatMode where
  | wrap | satS | satN
deriving DecidableEq, Repr

/-- PLOG's operation (R145). -/
inductive PlogOp where
  | and | or | xor
deriving DecidableEq, Repr

/-- VOTE's modes (R165). -/
inductive VoteMode where
  | all | any | ballot | eq
deriving DecidableEq, Repr

/-- Integer reductions: RED.32, REDUX.i, SCAN.i (R166, R176). -/
inductive RedOp where
  | add | minS | minN | maxS | maxN | and | or | xor
deriving DecidableEq, Repr

/-- f32 reductions: REDUX.f32, SCAN.f32 (R166). -/
inductive FRedOp where
  | add | min | max
deriving DecidableEq, Repr

/-- Cache-control operations (R182). -/
inductive CctlOp where
  | wb | inv | wball | invall
deriving DecidableEq, Repr

/-- MX element formats in the order of TSTOREQ's field (R204). -/
inductive MxFmt where
  | e4m3 | e5m2 | e2m3 | e3m2 | e2m1
deriving DecidableEq, Repr

/-- SLREAD's selectors (Table 8-12). -/
inductive SlSel where
  | cur | cnt | tok | val | st
deriving DecidableEq, Repr

/-- CRED's operations and types (R228). -/
inductive CredOp where
  | add | min | max | and | or | xor
deriving DecidableEq, Repr

inductive CredTy where
  | s32 | n32 | s64 | f32 | f64 | bf16
deriving DecidableEq, Repr

/-- Kinds of a drained plane (R240). -/
inductive MKind where
  | f32 | i32 | f64
deriving DecidableEq, Repr

/-- The drain chain's formats (R240). -/
inductive ChainFmt where
  | bf16 | fp16 | e4m3 | e5m2 | i8
deriving DecidableEq, Repr

/-- Stage bits of a drain (R245): bias, activation, requantise. -/
structure Stages where
  b : Bool
  a : Bool
  q : Bool
deriving DecidableEq, Repr

/-- A request of a Virnus Link peer to this device (R372). `op` 0 load, 1 store, else an atomic of Table 7-3: 2 add, 3 exchange,
4 compare-and-swap (`data` is the comparand, then the new value), 5 and, 6 or, 7 xor, 8 min.s, 9 max.s, 10 min.n, 11 max.n,
12 a float add, 13 an add of bf16 pairs, both under `rm`. -/
structure PeerReq where
  src : Nat
  addr : DWord
  op : Nat
  len : Nat
  data : List Byte
  rm : Rm := .rn
deriving DecidableEq, Repr

/-- A firmware update over PLDM type 5 (R375): image, key modulus and exponent as sent, signature. -/
structure FwUpdate where
  image : List Byte
  modulus : Nat
  exponent : Nat
  signature : Nat
deriving DecidableEq, Repr

/-- SPDM requests (R376, R377). -/
inductive SpdmReq where
  | capabilities
  | algorithms
  | certificate (slot : Nat)
  | challenge (nonce : List Byte)
  | measurements (index : Nat) (nonce : List Byte)
deriving DecidableEq, Repr

/-- Management requests over MCTP (R375): PLDM sensors (type 2) and everything else by type. -/
inductive MgmtReq where
  | islandPower (island : Nat)
  | islandTemperature (island : Nat)
  | modulePower
  | softErrors (unit : Nat) (uncorrected : Bool)
  | control (pldmType : Nat)
deriving DecidableEq, Repr

/-- Where a double-bit error lies that costs no data (R281): a line of L1, L2 or an instruction cache, by its entries' key. -/
inductive SoftPlace where
  | l1 (key : Nat)
  | l2 (key : Nat)
  | icache (key : Nat)
deriving DecidableEq, Repr
/-- A corrected error: the unit of Table 7-12, and the line that is dropped to correct it, if any. -/
structure SoftError where
  unit : Nat
  line : Option SoftPlace
deriving DecidableEq, Repr

/-- Where a launch request comes from (R374): the Ethernet port it came in at; the MAC address, the IPv6 or IPv4 address and
the UDP port that it is sent to; and who sent it. -/
structure ReachFrom where
  port : Nat
  mac : Nat
  v6 : Bool
  dst : Nat
  udp : Nat
  addr : Nat
deriving DecidableEq, Repr

/-- An uncorrectable error (R282): the unit of Table 7-12, and where the bad data lies. -/
inductive ErrorPlace where
  | block (bid : Nat)                     -- register, pallet or vault byte of a block
  | dirtyL1 (key : Nat)                   -- dirty line of an L1, by the key of an entry of it
  | dirtyL2 (key : Nat)                   -- dirty line of an L2
  | readBy (lid key : Nat)                -- HBM4E or second-tier data read for a launch
  | scrubbed (vf key : Nat)               -- found by scrubbing, function that owns the frame
deriving DecidableEq, Repr

structure MachineCheck where
  unit : Nat
  place : ErrorPlace
  addr : DWord
deriving DecidableEq, Repr

/-- Sign extension and zero extension to the width a computation needs. -/
def sx {m : Nat} (n : Nat) (v : BitVec m) : BitVec n := v.signExtend n
def zx {m : Nat} (n : Nat) (v : BitVec m) : BitVec n := v.setWidth n

/-- Bits `[lo + w - 1 : lo]` of a number. -/
def bitsN (x lo w : Nat) : Nat := (x >>> lo) % 2 ^ w

/-- The low register of a pair holds bits [31:0] (Table 0-2). -/
def pairLo (v : DWord) : Word := v.setWidth 32
def pairHi (v : DWord) : Word := (v >>> 32).setWidth 32
def mkPair (lo hi : Word) : DWord := hi ++ lo

def boolBit (b : Bool) : Nat := if b then 1 else 0

end Sys2Proof
end

