-- ==== Sys2Proof/Config.lean ====
section
/-! DEFINITION. What the manual leaves open. Each constant is OPAQUE: nothing in Lean can evaluate it or prove a value
of it, so a statement holds whatever it is. -/

namespace Sys2Proof.Config

/-- Every choice of order or time the manual leaves open (12 R284, 11 R269, 02 R69, 14 R316 and the engine entries):
a fresh draw for each number (log 4). -/
opaque choose : Nat → Nat

/-- Within how many clocks a slot is formed from pallets that may go on, while a place is free (01 R46 gives no number;
log 4). -/
opaque formBound : Nat

/-- A choice among `n` alternatives. -/
def pick (k n : Nat) : Nat := choose k % n

/-- A word the manual gives no value (log 17): fresh for each number. -/
opaque freeWord : Nat → BitVec 32

/-- Which of the results within Table 4-8's bound an approximate operation delivers: a fixed function of the operation,
the operand's bits, the rounding mode and .ftz (R106, R107; log 13). -/
opaque approxPick : Nat → Nat → Nat → Bool → Nat

/-- Fused into the part (21 R375–R377): the hash of the update key, the identity chain, the digest of the boot ROM, the
digest of the Ranoux image shipped in slot A, and the device's key, RSA-3072: the modulus and the private exponent. -/
opaque fusedKeyHash : List Byte
opaque identityChain : List Byte
opaque bootRomDigest : List Byte
opaque shippedImageDigest : List Byte
opaque deviceModulus : Nat
opaque devicePrivate : Nat

/-- Physical readings of the sensors of R375, fresh for each read. -/
opaque sensorReading : Nat → Nat

end Sys2Proof.Config
end

