-- ==== Sys2Proof/Syntax.lean ====
section
/-! DEFINITION. The instructions of the CX960M: one constructor for each row of spec/opcode_table.json. The first 296
are instruction words (Table 3-2, in opcode order); the last 82 are the machine events that the table lists beside
them, steps of the device that no instruction word encodes (spec 95). A thread-code constructor begins with `p`, its
guard, stall count and yield bit; a memory operand is its base pair `a` and the signed offset `off`. -/

namespace Sys2Proof

/-- One row of the opcode table each. -/
inductive Instr where
  | nop (p : Pre)
  | bra (p : Pre) (off : BitVec 24)
  | brx (p : Pre) (a : Reg)
  | call (p : Pre) (off : BitVec 24)
  | callx (p : Pre) (a : Reg)
  | ret (p : Pre)
  | exit (p : Pre)
  | spawn (p : Pre) (b : Reg) (off : BitVec 24)
  | spawnq (p : Pre) (d a : Reg) (off : BitVec 24) (q : BitVec 4)
  | waitc (p : Pre) (cls : EngClass) (n : BitVec 6)
  | barArr (p : Pre) (d : Reg) (b : BitVec 4) (c : BitVec 11)
  | barWait (p : Pre) (a : Reg) (b : BitVec 4)
  | barSync (p : Pre) (b : BitVec 4) (c : BitVec 11)
  | yield (p : Pre) (sc : Scope)
  | trap (p : Pre) (code : BitVec 8)
  | bkpt (p : Pre)
  | gsync (p : Pre)
  | sleep (p : Pre) (n : BitVec 24)
  | udf (hi : BitVec 55) (lo : BitVec 64)
  | brt (p : Pre) (a b : Reg) (n : BitVec 24) (h : Hint)
  | iadd32 (p : Pre) (d a : Reg) (b : Src)
  | iadd64 (p : Pre) (d a : Reg) (b : Src)
  | isub32 (p : Pre) (d a : Reg) (b : Src)
  | isub64 (p : Pre) (d a : Reg) (b : Src)
  | iaddc (p : Pre) (d a : Reg) (b : Src) (pd ps : BitVec 3) (nps : Bool)
  | imulLo (p : Pre) (d a : Reg) (b : Src)
  | imulhS (p : Pre) (d a : Reg) (b : Src)
  | imulhN (p : Pre) (d a : Reg) (b : Src)
  | imulwS (p : Pre) (d a : Reg) (b : Src)
  | imulwN (p : Pre) (d a : Reg) (b : Src)
  | imadLo (p : Pre) (d a : Reg) (b : Src) (c : Reg)
  | imadwS (p : Pre) (d a : Reg) (b : Src) (c : Reg)
  | imadwN (p : Pre) (d a : Reg) (b : Src) (c : Reg)
  | imad64 (p : Pre) (d a : Reg) (b : Src) (c : Reg)
  | idivS (p : Pre) (d a : Reg) (b : Src)
  | idivN (p : Pre) (d a : Reg) (b : Src)
  | iremS (p : Pre) (d a : Reg) (b : Src)
  | iremN (p : Pre) (d a : Reg) (b : Src)
  | iminS (p : Pre) (d a : Reg) (b : Src)
  | iminN (p : Pre) (d a : Reg) (b : Src)
  | imaxS (p : Pre) (d a : Reg) (b : Src)
  | imaxN (p : Pre) (d a : Reg) (b : Src)
  | iabs (p : Pre) (d a : Reg)
  | ineg (p : Pre) (d a : Reg)
  | andB (p : Pre) (d a : Reg) (b : Src)
  | orB (p : Pre) (d a : Reg) (b : Src)
  | xorB (p : Pre) (d a : Reg) (b : Src)
  | notB (p : Pre) (d a : Reg)
  | lut3 (p : Pre) (d a b c : Reg) (tbl : BitVec 8)
  | shl (p : Pre) (d a : Reg) (b : Src)
  | shr (p : Pre) (d a : Reg) (b : Src)
  | sar (p : Pre) (d a : Reg) (b : Src)
  | rot (p : Pre) (d a : Reg) (b : Src)
  | fshfL (p : Pre) (d a b : Reg) (c : Src)
  | fshfR (p : Pre) (d a b : Reg) (c : Src)
  | popc (p : Pre) (d a : Reg)
  | clz (p : Pre) (d a : Reg)
  | brev (p : Pre) (d a : Reg)
  | bfeS (p : Pre) (d a : Reg) (b : Src)
  | bfeN (p : Pre) (d a : Reg) (b : Src)
  | bfi (p : Pre) (d a : Reg) (b : Src) (c : Reg)
  | icmpS32 (p : Pre) (cmp : Cmp) (pd : BitVec 3) (a : Reg) (b : Src)
  | icmpN32 (p : Pre) (cmp : Cmp) (pd : BitVec 3) (a : Reg) (b : Src)
  | icmpS64 (p : Pre) (cmp : Cmp) (pd : BitVec 3) (a : Reg) (b : Src)
  | icmpN64 (p : Pre) (cmp : Cmp) (pd : BitVec 3) (a : Reg) (b : Src)
  | ipick (p : Pre) (d a : Reg) (b : Src) (ps : BitVec 3) (nps : Bool)
  | idp4S (p : Pre) (d a b c : Reg)
  | idp4N (p : Pre) (d a b c : Reg)
  | padd16 (p : Pre) (d a : Reg) (b : Src) (m : SatMode)
  | padd8 (p : Pre) (d a : Reg) (b : Src) (m : SatMode)
  | psub16 (p : Pre) (d a : Reg) (b : Src) (m : SatMode)
  | psub8 (p : Pre) (d a : Reg) (b : Src) (m : SatMode)
  | pmaxS16 (p : Pre) (d a : Reg) (b : Src)
  | pmaxN16 (p : Pre) (d a : Reg) (b : Src)
  | pminS16 (p : Pre) (d a : Reg) (b : Src)
  | pminN16 (p : Pre) (d a : Reg) (b : Src)
  | pcmp16 (p : Pre) (d a : Reg) (b : Src) (cmp : Cmp) (uns : Bool)
  | pcmp8 (p : Pre) (d a : Reg) (b : Src) (cmp : Cmp) (uns : Bool)
  | psel (p : Pre) (d a b c : Reg)
  | pacs (p : Pre) (d a b c e : Reg) (m : SatMode) (pd : BitVec 3)
  | perm (p : Pre) (d a b : Reg) (c : Src)
  | mov (p : Pre) (d a : Reg) (w64 : Bool)
  | movi (p : Pre) (d : Reg) (w64 : Bool) (imm : BitVec 48)
  | lea (p : Pre) (d a : Reg) (pcrel : Bool) (imm : BitVec 48)
  | plog (p : Pre) (pd pa : BitVec 3) (na : Bool) (pb : BitVec 3) (nb : Bool) (op : PlogOp)
  | pget (p : Pre) (d : Reg)
  | pput (p : Pre) (a : Reg) (mask : BitVec 7)
  | shl64 (p : Pre) (d a : Reg) (b : Src)
  | shr64 (p : Pre) (d a : Reg) (b : Src)
  | sar64 (p : Pre) (d a : Reg) (b : Src)
  | faddF64 (p : Pre) (d a b : Reg) (rm : Rm)
  | faddF32 (p : Pre) (d a b : Reg) (rm : Rm) (ftz : Bool)
  | faddF16x2 (p : Pre) (d a b : Reg) (rm : Rm) (ftz : Bool)
  | faddBf16x2 (p : Pre) (d a b : Reg) (rm : Rm)
  | fsubF64 (p : Pre) (d a b : Reg) (rm : Rm)
  | fsubF32 (p : Pre) (d a b : Reg) (rm : Rm) (ftz : Bool)
  | fsubF16x2 (p : Pre) (d a b : Reg) (rm : Rm) (ftz : Bool)
  | fsubBf16x2 (p : Pre) (d a b : Reg) (rm : Rm)
  | fmulF64 (p : Pre) (d a b : Reg) (rm : Rm)
  | fmulF32 (p : Pre) (d a b : Reg) (rm : Rm) (ftz : Bool)
  | fmulF16x2 (p : Pre) (d a b : Reg) (rm : Rm) (ftz : Bool)
  | fmulBf16x2 (p : Pre) (d a b : Reg) (rm : Rm)
  | ffmaF64 (p : Pre) (d a b c : Reg) (rm : Rm)
  | ffmaF32 (p : Pre) (d a b c : Reg) (rm : Rm) (ftz : Bool)
  | ffmaF16x2 (p : Pre) (d a b c : Reg) (rm : Rm) (ftz : Bool)
  | ffmaBf16x2 (p : Pre) (d a b c : Reg) (rm : Rm)
  | fminF64 (p : Pre) (d a b : Reg)
  | fminF32 (p : Pre) (d a b : Reg) (ftz : Bool)
  | fminF16x2 (p : Pre) (d a b : Reg) (ftz : Bool)
  | fminBf16x2 (p : Pre) (d a b : Reg)
  | fmaxF64 (p : Pre) (d a b : Reg)
  | fmaxF32 (p : Pre) (d a b : Reg) (ftz : Bool)
  | fmaxF16x2 (p : Pre) (d a b : Reg) (ftz : Bool)
  | fmaxBf16x2 (p : Pre) (d a b : Reg)
  | fcmpF64 (p : Pre) (cmp : FCmp) (pd : BitVec 3) (a b : Reg) (sig : Bool)
  | fcmpF32 (p : Pre) (cmp : FCmp) (pd : BitVec 3) (a b : Reg) (sig ftz : Bool)
  | fcmpF16x2 (p : Pre) (cmp : FCmp) (pd : BitVec 3) (a b : Reg) (sig ftz : Bool)
  | fcmpBf16x2 (p : Pre) (cmp : FCmp) (pd : BitVec 3) (a b : Reg) (sig : Bool)
  | fdivF64 (p : Pre) (d a b : Reg) (rm : Rm)
  | fdivF32 (p : Pre) (d a b : Reg) (rm : Rm) (ftz : Bool)
  | fsqrtF64 (p : Pre) (d a : Reg) (rm : Rm)
  | fsqrtF32 (p : Pre) (d a : Reg) (rm : Rm) (ftz : Bool)
  | frcpF64 (p : Pre) (d a : Reg) (rm : Rm)
  | frcpF32 (p : Pre) (d a : Reg) (rm : Rm) (ftz : Bool)
  | frsqF64 (p : Pre) (d a : Reg) (rm : Rm)
  | frsqF32 (p : Pre) (d a : Reg) (rm : Rm) (ftz : Bool)
  | fexp2F32 (p : Pre) (d a : Reg) (rm : Rm) (ftz : Bool)
  | flog2F32 (p : Pre) (d a : Reg) (rm : Rm) (ftz : Bool)
  | fsinF32 (p : Pre) (d a : Reg) (rm : Rm) (ftz : Bool)
  | fcosF32 (p : Pre) (d a : Reg) (rm : Rm) (ftz : Bool)
  | ftanhF32 (p : Pre) (d a : Reg) (rm : Rm) (ftz : Bool)
  | fexp2F64 (p : Pre) (d a : Reg) (rm : Rm)
  | flog2F64 (p : Pre) (d a : Reg) (rm : Rm)
  | fsinF64 (p : Pre) (d a : Reg) (rm : Rm)
  | fcosF64 (p : Pre) (d a : Reg) (rm : Rm)
  | fscaleF64 (p : Pre) (d a b : Reg) (rm : Rm)
  | fscaleF32 (p : Pre) (d a b : Reg) (rm : Rm) (ftz : Bool)
  | frndF64 (p : Pre) (d a : Reg) (rm : Rm)
  | frndF32 (p : Pre) (d a : Reg) (rm : Rm) (ftz : Bool)
  | fclassF64 (p : Pre) (d a : Reg)
  | fclassF32 (p : Pre) (d a : Reg)
  | fcvtF64F32 (p : Pre) (d a : Reg) (rm : Rm)
  | fcvtF32F64 (p : Pre) (d a : Reg) (rm : Rm)
  | fcvtF16x2F32 (p : Pre) (d a b : Reg) (rm : Rm) (ftz : Bool)
  | fcvtBf16x2F32 (p : Pre) (d a b : Reg) (rm : Rm)
  | fcvtF32F16x2 (p : Pre) (d a : Reg) (rm : Rm) (ftz : Bool)
  | fcvtF32Bf16x2 (p : Pre) (d a : Reg) (rm : Rm)
  | fcvtF32S32 (p : Pre) (d a : Reg) (rm : Rm) (ftz : Bool)
  | fcvtF32N32 (p : Pre) (d a : Reg) (rm : Rm) (ftz : Bool)
  | fcvtF64S64 (p : Pre) (d a : Reg) (rm : Rm)
  | fcvtF64S32 (p : Pre) (d a : Reg) (rm : Rm)
  | fcvtS32F32 (p : Pre) (d a : Reg) (rm : Rm) (ftz : Bool)
  | fcvtN32F32 (p : Pre) (d a : Reg) (rm : Rm) (ftz : Bool)
  | fcvtS64F64 (p : Pre) (d a : Reg) (rm : Rm)
  | fcvtS32F64 (p : Pre) (d a : Reg) (rm : Rm)
  | mxdqE4m3 (p : Pre) (d a b : Reg) (j : BitVec 4) (s : BitVec 2) (rm : Rm) (ftz : Bool)
  | mxdqE5m2 (p : Pre) (d a b : Reg) (j : BitVec 4) (s : BitVec 2) (rm : Rm) (ftz : Bool)
  | mxdqE2m3 (p : Pre) (d a b : Reg) (j : BitVec 4) (s : BitVec 2) (rm : Rm) (ftz : Bool)
  | mxdqE3m2 (p : Pre) (d a b : Reg) (j : BitVec 4) (s : BitVec 2) (rm : Rm) (ftz : Bool)
  | mxdqE2m1 (p : Pre) (d a b : Reg) (j : BitVec 4) (s : BitVec 2) (rm : Rm) (ftz : Bool)
  | mxqE4m3 (p : Pre) (d a : Reg) (cw : BitVec 2)
  | mxqE2m1 (p : Pre) (d a : Reg) (cw : BitVec 2)
  | shflIdx (p : Pre) (d a : Reg) (b : ShSrc) (lg : BitVec 3) (cw : BitVec 2) (pd : BitVec 3)
  | shflUp (p : Pre) (d a : Reg) (b : ShSrc) (lg : BitVec 3) (cw : BitVec 2) (pd : BitVec 3)
  | shflDown (p : Pre) (d a : Reg) (b : ShSrc) (lg : BitVec 3) (cw : BitVec 2) (pd : BitVec 3)
  | shflXor (p : Pre) (d a : Reg) (b : ShSrc) (lg : BitVec 3) (cw : BitVec 2) (pd : BitVec 3)
  | vote (p : Pre) (m : VoteMode) (d : Reg) (pd pa : BitVec 3) (na : Bool) (cw : BitVec 2)
  | reduxI (p : Pre) (d a : Reg) (op : RedOp) (cw : BitVec 2)
  | reduxF32 (p : Pre) (d a : Reg) (op : FRedOp) (rm : Rm) (ftz : Bool) (cw : BitVec 2)
  | scanI (p : Pre) (d a : Reg) (op : RedOp) (exc : Bool) (cw : BitVec 2)
  | scanF32 (p : Pre) (d a : Reg) (op : FRedOp) (exc : Bool) (rm : Rm) (ftz : Bool) (cw : BitVec 2)
  | matchAny (p : Pre) (d a : Reg) (w64 : Bool) (cw : BitVec 2) (pd : BitVec 3)
  | ldS8 (p : Pre) (d a : Reg) (off : BitVec 24) (h : Hint)
  | ldN8 (p : Pre) (d a : Reg) (off : BitVec 24) (h : Hint)
  | ldS16 (p : Pre) (d a : Reg) (off : BitVec 24) (h : Hint)
  | ldN16 (p : Pre) (d a : Reg) (off : BitVec 24) (h : Hint)
  | ld32 (p : Pre) (d a : Reg) (off : BitVec 24) (h : Hint)
  | ld64 (p : Pre) (d a : Reg) (off : BitVec 24) (h : Hint)
  | ld128 (p : Pre) (d a : Reg) (off : BitVec 24) (h : Hint)
  | st8 (p : Pre) (a : Reg) (off : BitVec 24) (b : Reg) (h : Hint)
  | st16 (p : Pre) (a : Reg) (off : BitVec 24) (b : Reg) (h : Hint)
  | st32 (p : Pre) (a : Reg) (off : BitVec 24) (b : Reg) (h : Hint)
  | st64 (p : Pre) (a : Reg) (off : BitVec 24) (b : Reg) (h : Hint)
  | st128 (p : Pre) (a : Reg) (off : BitVec 24) (b : Reg) (h : Hint)
  | lda32 (p : Pre) (d a : Reg) (off : BitVec 24) (sem : Sem) (sc : Scope)
  | lda64 (p : Pre) (d a : Reg) (off : BitVec 24) (sem : Sem) (sc : Scope)
  | str32 (p : Pre) (a : Reg) (off : BitVec 24) (b : Reg) (sem : Sem) (sc : Scope)
  | str64 (p : Pre) (a : Reg) (off : BitVec 24) (b : Reg) (sem : Sem) (sc : Scope)
  | atom32Add (p : Pre) (d a : Reg) (off : BitVec 24) (b : Reg) (sem : Sem) (sc : Scope)
  | atom32MinS (p : Pre) (d a : Reg) (off : BitVec 24) (b : Reg) (sem : Sem) (sc : Scope)
  | atom32MinN (p : Pre) (d a : Reg) (off : BitVec 24) (b : Reg) (sem : Sem) (sc : Scope)
  | atom32MaxS (p : Pre) (d a : Reg) (off : BitVec 24) (b : Reg) (sem : Sem) (sc : Scope)
  | atom32MaxN (p : Pre) (d a : Reg) (off : BitVec 24) (b : Reg) (sem : Sem) (sc : Scope)
  | atom32And (p : Pre) (d a : Reg) (off : BitVec 24) (b : Reg) (sem : Sem) (sc : Scope)
  | atom32Or (p : Pre) (d a : Reg) (off : BitVec 24) (b : Reg) (sem : Sem) (sc : Scope)
  | atom32Xor (p : Pre) (d a : Reg) (off : BitVec 24) (b : Reg) (sem : Sem) (sc : Scope)
  | atom32Exch (p : Pre) (d a : Reg) (off : BitVec 24) (b : Reg) (sem : Sem) (sc : Scope)
  | atom32Cas (p : Pre) (d a : Reg) (off : BitVec 24) (b c : Reg) (sem : Sem) (sc : Scope)
  | atom64Add (p : Pre) (d a : Reg) (off : BitVec 24) (b : Reg) (sem : Sem) (sc : Scope)
  | atom64Exch (p : Pre) (d a : Reg) (off : BitVec 24) (b : Reg) (sem : Sem) (sc : Scope)
  | atom64Cas (p : Pre) (d a : Reg) (off : BitVec 24) (b c : Reg) (sem : Sem) (sc : Scope)
  | atom64MaxN (p : Pre) (d a : Reg) (off : BitVec 24) (b : Reg) (sem : Sem) (sc : Scope)
  | atomF32Add (p : Pre) (d a : Reg) (off : BitVec 24) (b : Reg) (rm : Rm) (sem : Sem) (sc : Scope)
  | atomF64Add (p : Pre) (d a : Reg) (off : BitVec 24) (b : Reg) (rm : Rm) (sem : Sem) (sc : Scope)
  | atomBf16x2Add (p : Pre) (d a : Reg) (off : BitVec 24) (b : Reg) (rm : Rm) (sem : Sem) (sc : Scope)
  | red32 (p : Pre) (a : Reg) (off : BitVec 24) (b : Reg) (op : RedOp) (sem : Sem) (sc : Scope)
  | redF32Add (p : Pre) (a : Reg) (off : BitVec 24) (b : Reg) (rm : Rm) (sem : Sem) (sc : Scope)
  | fence (p : Pre) (sem : Sem) (sc : Scope)
  | pref (p : Pre) (a : Reg) (off : BitVec 24) (h : Hint)
  | cctl (p : Pre) (op : CctlOp) (lvl2 : Bool) (a : Reg) (off : BitVec 24)
  | ldl32 (p : Pre) (d : Reg) (idx : Bool) (a : Reg) (off : BitVec 24) (h : Hint)
  | ldl64 (p : Pre) (d : Reg) (idx : Bool) (a : Reg) (off : BitVec 24) (h : Hint)
  | ldl128 (p : Pre) (d : Reg) (idx : Bool) (a : Reg) (off : BitVec 24) (h : Hint)
  | stl32 (p : Pre) (idx : Bool) (a : Reg) (off : BitVec 24) (b : Reg) (h : Hint)
  | stl64 (p : Pre) (idx : Bool) (a : Reg) (off : BitVec 24) (b : Reg) (h : Hint)
  | stl128 (p : Pre) (idx : Bool) (a : Reg) (off : BitVec 24) (b : Reg) (h : Hint)
  | atomCas128 (p : Pre) (d a : Reg) (off : BitVec 24) (b c : Reg) (sem : Sem) (sc : Scope)
  | ldnf (p : Pre) (d : Reg) (w : BitVec 2) (a : Reg) (off : BitVec 24) (pd : BitVec 3) (h : Hint)
  | addrq (p : Pre) (d a : Reg) (off : BitVec 24)
  | zline (p : Pre) (a : Reg) (off : BitVec 24) (h : Hint)
  | sreg (p : Pre) (d : Reg) (w64 : Bool) (idx : BitVec 24)
  | sset (p : Pre) (idx : BitVec 24) (a : Reg)
  | rng (p : Pre) (d : Reg) (w : BitVec 2) (u01 : Bool)
  | clock (p : Pre) (d : Reg)
  | pmcfg (p : Pre) (c : BitVec 2) (a : Reg)
  | pmrd (p : Pre) (d : Reg) (c : BitVec 2)
  | rply (p : Pre) (d a : Reg) (off : BitVec 24)
  | topen (p : Pre) (d a : Reg) (off : BitVec 24)
  | tscore (p : Pre) (add : Bool) (a : Reg)
  | tbar (p : Pre)
  | tstat (p : Pre) (d a : Reg) (off : BitVec 24) (b : Reg)
  | tkill (p : Pre) (a : Reg) (off : BitVec 24) (b : Reg)
  | svc (p : Pre) (a : Reg) (n : BitVec 16)
  | errq (p : Pre) (d a : Reg) (off : BitVec 24)
  | tbind (p : Pre) (d : Reg) (h : BitVec 6) (a : Reg) (off : BitVec 24) (x : Bool)
  | tfree (p : Pre) (h : BitVec 6) (unbind : Bool)
  | tload (p : Pre) (h : BitVec 6) (at_ : Bool) (b c : Reg)
  | tstore (p : Pre) (h : BitVec 6) (at_ : Bool) (b c : Reg)
  | tstoreq (p : Pre) (h : BitVec 6) (at_ : Bool) (b c : Reg) (fmt : MxFmt)
  | tfill (p : Pre) (h : BitVec 6)
  | tstate (p : Pre) (d : Reg) (h : BitVec 6)
  | gathI32 (p : Pre) (a : Reg) (off : BitVec 24) (x : Bool)
  | gathI64 (p : Pre) (a : Reg) (off : BitVec 24) (x : Bool)
  | scatI32 (p : Pre) (a : Reg) (off : BitVec 24) (x : Bool)
  | scatI64 (p : Pre) (a : Reg) (off : BitVec 24) (x : Bool)
  | scatcI32 (p : Pre) (a : Reg) (off : BitVec 24) (op : BitVec 2) (x : Bool)
  | scatcI64 (p : Pre) (a : Reg) (off : BitVec 24) (op : BitVec 2) (x : Bool)
  | greplay (p : Pre) (a : Reg) (off : BitVec 24)
  | slbind (p : Pre) (d a : Reg) (off : BitVec 24) (free : Bool)
  | slpost (p : Pre) (a : Reg) (off : BitVec 24) (b c e : Reg)
  | slpass (p : Pre) (a : Reg) (off : BitVec 24) (x : Bool) (b : Reg)
  | slread (p : Pre) (d a : Reg) (off : BitVec 24) (sel : SlSel) (b : Reg)
  | sltrunc (p : Pre) (d a : Reg) (off : BitVec 24) (b : Reg)
  | sropen (p : Pre) (d a : Reg) (off : BitVec 24)
  | srpost (p : Pre) (a : Reg) (off : BitVec 24) (b c e : Reg)
  | srend (p : Pre) (a : Reg) (off : BitVec 24) (b : Reg)
  | cred (p : Pre) (a : Reg) (off : BitVec 24) (op : CredOp) (ty : CredTy) (sy x : Bool)
  | cgath (p : Pre) (a : Reg) (off : BitVec 24) (sy x : Bool)
  | cbcast (p : Pre) (a : Reg) (off : BitVec 24) (sy x : Bool)
  | cscat (p : Pre) (a : Reg) (off : BitVec 24) (sy x : Bool)
  | csend (p : Pre) (a : Reg) (off : BitVec 24) (sy x : Bool)
  | crecv (p : Pre) (a : Reg) (off : BitVec 24) (sy x : Bool)
  | mrecv (p : Pre) (d : Reg) (cw : BitVec 2) (pd : BitVec 3)
  | mpost (p : Pre) (a : Reg) (n : BitVec 4)
  | mldwBf16 (a c e : BitVec 8) (r j : BitVec 2) (rel : Bool)
  | mldwFp16 (a c e : BitVec 8) (r j : BitVec 2) (rel : Bool)
  | mldwE4m3 (a c e : BitVec 8) (r j : BitVec 2) (rel : Bool)
  | mldwE5m2 (a c e : BitVec 8) (r j : BitVec 2) (rel : Bool)
  | mldwE2m3 (a c e : BitVec 8) (r j : BitVec 2) (rel : Bool)
  | mldwE3m2 (a c e : BitVec 8) (r j : BitVec 2) (rel : Bool)
  | mldwE2m1 (a c e : BitVec 8) (r j : BitVec 2) (rel : Bool)
  | mldwI8 (a c e : BitVec 8) (r j : BitVec 2) (rel : Bool)
  | mldwT2 (a c e : BitVec 8) (r j : BitVec 2) (rel : Bool)
  | mldwF64 (a c e : BitVec 8) (r j : BitVec 2) (rel : Bool)
  | mstrmBf16 (d a c e : BitVec 8) (r j : BitVec 2) (rel : Bool) (m0 : BitVec 8)
  | mstrmFp16 (d a c e : BitVec 8) (r j : BitVec 2) (rel : Bool) (m0 : BitVec 8)
  | mstrmE4m3 (d a c e : BitVec 8) (r j : BitVec 2) (rel : Bool) (m0 : BitVec 8)
  | mstrmE5m2 (d a c e : BitVec 8) (r j : BitVec 2) (rel : Bool) (m0 : BitVec 8)
  | mstrmE2m3 (d a c e : BitVec 8) (r j : BitVec 2) (rel : Bool) (m0 : BitVec 8)
  | mstrmE3m2 (d a c e : BitVec 8) (r j : BitVec 2) (rel : Bool) (m0 : BitVec 8)
  | mstrmE2m1 (d a c e : BitVec 8) (r j : BitVec 2) (rel : Bool) (m0 : BitVec 8)
  | mstrmI8 (d a c e : BitVec 8) (r j : BitVec 2) (rel : Bool) (m0 : BitVec 8)
  | mstrmF64 (d a c e : BitVec 8) (r j : BitVec 2) (rel : Bool) (m0 : BitVec 8) (rm : Rm)
  | mswap
  | mzero (d m0 rows : BitVec 8)
  | mdrain (d a : BitVec 8) (st : Stages) (z : Bool) (kind : MKind) (m0 : BitVec 8) (r j : BitVec 2)
  | mdrainl (d : BitVec 8) (g : BitVec 5) (st : Stages) (z : Bool) (kind : MKind) (m0 rows : BitVec 8) (beats : BitVec 3)
  | mchain (a b : BitVec 8) (fmt : ChainFmt) (bias table : Bool)
  | mgrp (d a b c : BitVec 8) (st : Stages) (g : BitVec 4) (s : BitVec 8)
  | asave (d : BitVec 8) (j : BitVec 2) (lc q : Bool) (off : BitVec 24)
  | aload (d : BitVec 8) (j : BitVec 2) (lc q : Bool) (off : BitVec 24)
  | mbara (b : BitVec 4) (c : BitVec 11)
  | mbarw (b : BitVec 4) (c : BitVec 11)
  | mloop (q : Bool) (n : BitVec 24)
  | mnext
  | mend
  -- machine events
  | pickerIssue (core : Nat)
  | fixedLatencyWriteLand (uid : Nat)
  | variableResultLand (uid id : Nat)
  | slotSwap (core : Nat)
  | courseForm (core : Nat)
  | threadRaise (uid : Nat)
  | mergeHoldExpire (bid hdr : Nat)
  | crosslaneExpire (bid inst : Nat)
  | sleepExpire (uid : Nat)
  | spawnPackClose (bid entry : Nat)
  | spawnGangReady (bid gang : Nat)
  | threadRecordFree (uid : Nat)
  | tileFillComplete (op : Nat)
  | tileStoreStart (op : Nat)
  | tileStoreComplete (op : Nat)
  | gatherFamilyComplete (op : Nat)
  | slpostMerge (op : Nat)
  | slpassApply (op : Nat)
  | slpassComplete (op : Nat)
  | sltruncApply (op : Nat)
  | slreadAnswer (op : Nat)
  | streamRingPost (post : Nat)
  | streamRingHeadPoll (post : Nat)
  | collectiveInstanceComplete (inst : Nat)
  | sequencerStart (bid : Nat)
  | matrixOperationPerform (bid : Nat)
  | drainBeatEnqueue (bid : Nat)
  | weightContextSwitch (quad : Nat)
  | weightRequestRaise (bid : Nat)
  | pageWalkComplete (walk : Nat)
  | faultRingHeadPoll
  | responseRingRead
  | responseMapped (vf page : Nat)
  | responseTerminateLaunch (vf page : Nat) (code : BitVec 8)
  | responseDeliverTrap (vf page : Nat)
  | responseShootDown (vf page len : Nat)
  | responseDeclareAlias (vf page canon : Nat)
  | responseRemoveAlias (vf page : Nat)
  | shootDownComplete (id : Nat)
  | queueTailWrite (vf q : Nat) (tail : BitVec 32)
  | queueRecordAdmit (vf q : Nat)
  | queueEnable (vf q : Nat)
  | queueDisable (vf q : Nat)
  | groupPlace (lid : Nat)
  | deficitVisit
  | deficitStarvation (vf : Nat)
  | blockPreempt (bid : Nat)
  | preemptSave (bid : Nat)
  | blockResume (bid : Nat)
  | reachLaunchRequest (src : ReachFrom) (datagram : List Byte)
  | functionSuspend (vf : Nat)
  | functionResume (vf : Nat)
  | suspendTransitionComplete (vf : Nat)
  | functionLevelReset (vf : Nat)
  | serviceStart
  | serviceEntryCall
  | replayPassStart (rid : Nat)
  | replayPassEnd (rid : Nat)
  | roundEnd (scope : Nat)
  | tournamentHandover (scope : Nat)
  | deviceStart (failStage : Option Nat)
  | startStageTimeout (stage : Nat)
  | bootRestart
  | islandCommand (island : Nat) (code : Byte)
  | islandStateChangeDone (island : Nat)
  | powerAlarmAssert (island : Option Nat)
  | powerAlarmClear (island : Nat)
  | alarmFallbackExpire (island : Nat)
  | pcieLinkUp (link : Nat)
  | pcieLinkDown (link : Nat)
  | fabricPortStateChange (port : Nat) (up : Bool)
  | inboundWindowAccess (req : PeerReq)
  | peerTimeout (peer : Nat)
  | firmwareUpdate (upd : FwUpdate)
  | spdmRequest (req : SpdmReq)
  | pldmMctpRequest (req : MgmtReq)
  | softErrorCorrected (e : SoftError)
  | machineCheck (mc : MachineCheck)
  | memoryScrub (vaults : Bool)
  | registerWrite (vf off : Nat) (val : DWord)
  | matrixOperationComplete (bid : Nat)
  | msixVectorUnmask (vf vec : Nat)
deriving DecidableEq, Repr

end Sys2Proof
end

