-- ==== Sys2Proof/WellFormed.lean ====
section
/-! DEFINITION. The operand rules of the entries that the types of Syntax.lean do not already carry. A word that breaks
one holds an illegal field value (R9): illegal instruction in thread code, stop cause 0x01 in a stream. -/

namespace Sys2Proof

/-- LDA takes .acq and .rlx, STR and RED .rel and .rlx, FENCE all but .rlx (R175, R176, R180). -/
def Sem.okLoad : Sem → Bool
  | .rlx => true | .acq => true | _ => false
def Sem.okStore : Sem → Bool
  | .rlx => true | .rel => true | _ => false
def Sem.okFence : Sem → Bool
  | .rlx => false | _ => true

def CredOp.bitwise : CredOp → Bool
  | .and => true | .or => true | .xor => true | _ => false
def CredTy.floating : CredTy → Bool
  | .f32 => true | .f64 => true | .bf16 => true | _ => false
def CctlOp.whole : CctlOp → Bool
  | .wball => true | .invall => true | _ => false
def SlSel.takesSlot : SlSel → Bool
  | .tok => true | .val => true | _ => false

def pdEven (pd : BitVec 3) : Bool := pd.toNat % 2 == 0

/-- The entry's own limits on an instruction's fields. -/
def Instr.wf : Instr → Bool
  | .brt _ _ _ n _ => decide (0 < n.toNat) && decide (n.toNat < 2 ^ 23)
  | .barArr _ _ _ c => decide (c.toNat ≤ 1024)
  | .barSync _ _ c => decide (c.toNat ≤ 1024)
  | .sleep _ n => decide (n.toNat < 2 ^ 23)
  | .trap _ code => decide (0x80 ≤ code.toNat)
  | .pacs _ _ _ _ _ _ _ pd => pdEven pd
  | .lea _ _ a pcrel _ => !pcrel || a == 0
  | .fcmpF16x2 _ _ pd _ _ _ _ => pdEven pd
  | .fcmpBf16x2 _ _ pd _ _ _ => pdEven pd
  | .shflIdx _ _ _ _ lg _ _ => decide (lg.toNat ≤ 5)
  | .shflUp _ _ _ _ lg _ _ => decide (lg.toNat ≤ 5)
  | .shflDown _ _ _ _ lg _ _ => decide (lg.toNat ≤ 5)
  | .shflXor _ _ _ _ lg _ _ => decide (lg.toNat ≤ 5)
  | .vote _ m d pd _ _ _ => if m = .ballot then pd == 7 else d == 0
  | .lda32 _ _ _ _ sem _ => sem.okLoad
  | .lda64 _ _ _ _ sem _ => sem.okLoad
  | .str32 _ _ _ _ sem _ => sem.okStore
  | .str64 _ _ _ _ sem _ => sem.okStore
  | .red32 _ _ _ _ _ sem _ => sem.okStore
  | .redF32Add _ _ _ _ _ sem _ => sem.okStore
  | .fence _ sem _ => sem.okFence
  | .cctl _ op _ a off => !op.whole || (a == 0 && off == 0)
  | .ldl32 _ _ idx a _ _ => idx || a == 0
  | .ldl64 _ _ idx a _ _ => idx || a == 0
  | .ldl128 _ _ idx a _ _ => idx || a == 0
  | .stl32 _ idx a _ _ _ => idx || a == 0
  | .stl64 _ idx a _ _ _ => idx || a == 0
  | .stl128 _ idx a _ _ _ => idx || a == 0
  | .ldnf _ _ w _ _ _ _ => w != 3
  | .rng _ _ w _ => w != 3
  | .tload _ _ at_ b c => at_ || (b == 0 && c == 0)
  | .tstore _ _ at_ b c => at_ || (b == 0 && c == 0)
  | .tstoreq _ _ at_ b c _ => at_ || (b == 0 && c == 0)
  | .slpass _ _ _ x b => x || b == 0
  | .slread _ _ _ _ sel b => sel.takesSlot || b == 0
  | .cred _ _ _ op ty _ _ => !(op.bitwise && ty.floating)
  | .mpost _ _ n => decide (1 ≤ n.toNat) && decide (n.toNat ≤ 8)
  | .asave _ _ _ q off => !q || off == 0
  | .aload _ _ _ q off => !q || off == 0
  | .mbara _ c => decide (1 ≤ c.toNat) && decide (c.toNat ≤ 1024)
  | .mbarw _ c => decide (1 ≤ c.toNat) && decide (c.toNat ≤ 1024)
  | .mloop q n => if q then n == 0 else decide (n.toNat < 2 ^ 23)
  | _ => true

end Sys2Proof
end

