-- ==== Sys2Proof/Decode.lean ====
section
/-! DEFINITION. The 128-bit instruction word and the 64-bit header word (02 R51, R52, R56), the opcode map (03 R83), the
encoder and the decoder. Decoding reads an instruction's fields by its opcode, checks the entry's own limits
(Instr.wf), and accepts the word only when it is exactly the encoding of what was read: so every field, modifier bit,
rm, hint and ext bit that the entry does not use must be zero (R9, R57). -/

namespace Sys2Proof

/-! ### Codes of the field values -/

def Rm.code : Rm → BitVec 3
  | .rn => 0 | .rz => 1 | .ru => 2 | .rd => 3 | .rna => 4
def Rm.of? (v : BitVec 3) : Option Rm :=
  match v.toNat with
  | 0 => some .rn | 1 => some .rz | 2 => some .ru | 3 => some .rd | 4 => some .rna | _ => none
def Hint.code : Hint → BitVec 3
  | .dflt => 0 | .evf => 1 | .keep => 2 | .byl1 => 3 | .byl2 => 4
def Hint.of? (v : BitVec 3) : Option Hint :=
  match v.toNat with
  | 0 => some .dflt | 1 => some .evf | 2 => some .keep | 3 => some .byl1 | 4 => some .byl2 | _ => none
def Scope.code : Scope → BitVec 3
  | .th => 0 | .cr => 1 | .qd => 2 | .rw => 3 | .pt => 4 | .dv => 5 | .sy => 6
def Scope.of? (v : BitVec 3) : Option Scope :=
  match v.toNat with
  | 0 => some .th | 1 => some .cr | 2 => some .qd | 3 => some .rw | 4 => some .pt | 5 => some .dv | 6 => some .sy | _ => none
def Sem.code : Sem → BitVec 2
  | .rlx => 0 | .acq => 1 | .rel => 2 | .ar => 3
def Sem.of (v : BitVec 2) : Sem :=
  match v.toNat with
  | 0 => .rlx | 1 => .acq | 2 => .rel | _ => .ar
def Cmp.code : Cmp → BitVec 3
  | .eq => 0 | .ne => 1 | .lt => 2 | .le => 3 | .gt => 4 | .ge => 5
def Cmp.of? (v : BitVec 3) : Option Cmp :=
  match v.toNat with
  | 0 => some .eq | 1 => some .ne | 2 => some .lt | 3 => some .le | 4 => some .gt | 5 => some .ge | _ => none
def FCmp.code : FCmp → BitVec 3
  | .eq => 0 | .ne => 1 | .lt => 2 | .le => 3 | .gt => 4 | .ge => 5 | .num => 6 | .nan => 7
def FCmp.of (v : BitVec 3) : FCmp :=
  match v.toNat with
  | 0 => .eq | 1 => .ne | 2 => .lt | 3 => .le | 4 => .gt | 5 => .ge | 6 => .num | _ => .nan
def EngClass.code : EngClass → BitVec 3
  | .cp => 0 | .ga => 1 | .mx => 2 | .co => 3 | .sl => 4 | .tr => 5 | .rp => 6
def EngClass.of? (v : BitVec 3) : Option EngClass :=
  match v.toNat with
  | 0 => some .cp | 1 => some .ga | 2 => some .mx | 3 => some .co | 4 => some .sl | 5 => some .tr | 6 => some .rp | _ => none
def SatMode.code : SatMode → BitVec 2
  | .wrap => 0 | .satS => 1 | .satN => 2
def SatMode.of? (v : BitVec 2) : Option SatMode :=
  match v.toNat with
  | 0 => some .wrap | 1 => some .satS | 2 => some .satN | _ => none
def PlogOp.code : PlogOp → BitVec 2
  | .and => 0 | .or => 1 | .xor => 2
def PlogOp.of? (v : BitVec 2) : Option PlogOp :=
  match v.toNat with
  | 0 => some .and | 1 => some .or | 2 => some .xor | _ => none
def VoteMode.code : VoteMode → BitVec 2
  | .all => 0 | .any => 1 | .ballot => 2 | .eq => 3
def VoteMode.of (v : BitVec 2) : VoteMode :=
  match v.toNat with
  | 0 => .all | 1 => .any | 2 => .ballot | _ => .eq
def RedOp.code : RedOp → BitVec 3
  | .add => 0 | .minS => 1 | .minN => 2 | .maxS => 3 | .maxN => 4 | .and => 5 | .or => 6 | .xor => 7
def RedOp.of (v : BitVec 3) : RedOp :=
  match v.toNat with
  | 0 => .add | 1 => .minS | 2 => .minN | 3 => .maxS | 4 => .maxN | 5 => .and | 6 => .or | _ => .xor
def FRedOp.code : FRedOp → BitVec 2
  | .add => 0 | .min => 1 | .max => 2
def FRedOp.of? (v : BitVec 2) : Option FRedOp :=
  match v.toNat with
  | 0 => some .add | 1 => some .min | 2 => some .max | _ => none
def CctlOp.code : CctlOp → BitVec 3
  | .wb => 0 | .inv => 1 | .wball => 2 | .invall => 3
def CctlOp.of? (v : BitVec 3) : Option CctlOp :=
  match v.toNat with
  | 0 => some .wb | 1 => some .inv | 2 => some .wball | 3 => some .invall | _ => none
def MxFmt.code : MxFmt → BitVec 3
  | .e4m3 => 0 | .e5m2 => 1 | .e2m3 => 2 | .e3m2 => 3 | .e2m1 => 4
def MxFmt.of? (v : BitVec 3) : Option MxFmt :=
  match v.toNat with
  | 0 => some .e4m3 | 1 => some .e5m2 | 2 => some .e2m3 | 3 => some .e3m2 | 4 => some .e2m1 | _ => none
def SlSel.code : SlSel → BitVec 3
  | .cur => 0 | .cnt => 1 | .tok => 2 | .val => 3 | .st => 4
def SlSel.of? (v : BitVec 3) : Option SlSel :=
  match v.toNat with
  | 0 => some .cur | 1 => some .cnt | 2 => some .tok | 3 => some .val | 4 => some .st | _ => none
def CredOp.code : CredOp → BitVec 3
  | .add => 0 | .min => 1 | .max => 2 | .and => 3 | .or => 4 | .xor => 5
def CredOp.of? (v : BitVec 3) : Option CredOp :=
  match v.toNat with
  | 0 => some .add | 1 => some .min | 2 => some .max | 3 => some .and | 4 => some .or | 5 => some .xor | _ => none
def CredTy.code : CredTy → BitVec 3
  | .s32 => 0 | .n32 => 1 | .s64 => 2 | .f32 => 3 | .f64 => 4 | .bf16 => 5
def CredTy.of? (v : BitVec 3) : Option CredTy :=
  match v.toNat with
  | 0 => some .s32 | 1 => some .n32 | 2 => some .s64 | 3 => some .f32 | 4 => some .f64 | 5 => some .bf16 | _ => none
def MKind.code : MKind → BitVec 2
  | .f32 => 0 | .i32 => 1 | .f64 => 2
def MKind.of? (v : BitVec 2) : Option MKind :=
  match v.toNat with
  | 0 => some .f32 | 1 => some .i32 | 2 => some .f64 | _ => none
def ChainFmt.code : ChainFmt → BitVec 3
  | .bf16 => 0 | .fp16 => 1 | .e4m3 => 2 | .e5m2 => 3 | .i8 => 4
def ChainFmt.of? (v : BitVec 3) : Option ChainFmt :=
  match v.toNat with
  | 0 => some .bf16 | 1 => some .fp16 | 2 => some .e4m3 | 3 => some .e5m2 | 4 => some .i8 | _ => none

def bit1 (b : Bool) : BitVec 1 := if b then 1 else 0

/-! ### The instruction word (Tables 2-2 and 2-3) -/

/-- The fields of an instruction word. The defaults are those of a word with no guard and every other field zero. -/
structure Fields where
  op : BitVec 9
  d : BitVec 8 := 0
  a : BitVec 8 := 0
  b : BitVec 8 := 0
  c : BitVec 8 := 0
  e : BitVec 8 := 0
  g : Guard := Guard.always
  mod0 : BitVec 6 := 0
  imm : BitVec 24 := 0
  rm : BitVec 3 := 0
  mod1 : BitVec 5 := 0
  hint : BitVec 3 := 0
  stall : BitVec 4 := 0
  yld : Bool := false
  ext : BitVec 24 := 0
deriving DecidableEq, Repr

def Fields.dword0 (f : Fields) : DWord :=
  f.op ++ f.d ++ f.a ++ f.b ++ f.c ++ f.e ++ bit1 f.g.n0 ++ f.g.g0 ++ bit1 f.g.n1 ++ f.g.g1 ++ bit1 f.g.orComb ++ f.mod0

def Fields.dword1 (f : Fields) : DWord :=
  f.imm ++ f.rm ++ f.mod1 ++ f.hint ++ f.stall ++ bit1 f.yld ++ f.ext

/-- The word with dword0 at the lower address: bit 0 of the number is bit 0 of dword0. -/
def Fields.pack (f : Fields) : BitVec 128 := f.dword1 ++ f.dword0

def Fields.unpack (w : BitVec 128) : Fields where
  op := w.extractLsb' 55 9
  d := w.extractLsb' 47 8
  a := w.extractLsb' 39 8
  b := w.extractLsb' 31 8
  c := w.extractLsb' 23 8
  e := w.extractLsb' 15 8
  g := ⟨w.getLsbD 14, w.extractLsb' 11 3, w.getLsbD 10, w.extractLsb' 7 3, w.getLsbD 6⟩
  mod0 := w.extractLsb' 0 6
  imm := w.extractLsb' 104 24
  rm := w.extractLsb' 101 3
  mod1 := w.extractLsb' 96 5
  hint := w.extractLsb' 93 3
  stall := w.extractLsb' 89 4
  yld := w.getLsbD 88
  ext := w.extractLsb' 64 24


/-! ### The shapes of the entries: encoding and the reading of the fields back -/

def enP (op : BitVec 9) (p : Pre) : Fields := { op := op, g := p.g, stall := p.stall, yld := p.yld }
def enX (op : BitVec 9) : Fields := { op := op }
def enOff (op : BitVec 9) (p : Pre) (off : BitVec 24) : Fields := { enP op p with imm := off }
def enA (op : BitVec 9) (p : Pre) (a : Reg) : Fields := { enP op p with a := a }
def enBrt (op : BitVec 9) (p : Pre) (a b : Reg) (n : BitVec 24) (h : Hint) : Fields :=
  { enP op p with a := a, b := b, imm := n, hint := h.code }
def enSpawn (op : BitVec 9) (p : Pre) (b : Reg) (off : BitVec 24) : Fields := { enP op p with b := b, imm := off }
def enSpawnQ (op : BitVec 9) (p : Pre) (d a : Reg) (off : BitVec 24) (q : BitVec 4) : Fields :=
  { enP op p with d := d, a := a, imm := off, mod0 := 0#2 ++ q }
def enWaitC (op : BitVec 9) (p : Pre) (cls : EngClass) (n : BitVec 6) : Fields :=
  { enP op p with mod0 := 0#3 ++ cls.code, imm := 0#18 ++ n }
def enBarArr (op : BitVec 9) (p : Pre) (d : Reg) (b : BitVec 4) (c : BitVec 11) : Fields :=
  { enP op p with d := d, imm := 0#9 ++ (c ++ b) }
def enBarWait (op : BitVec 9) (p : Pre) (a : Reg) (b : BitVec 4) : Fields := { enP op p with a := a, imm := 0#20 ++ b }
def enBarSync (op : BitVec 9) (p : Pre) (b : BitVec 4) (c : BitVec 11) : Fields :=
  { enP op p with imm := 0#9 ++ (c ++ b) }
def enYield (op : BitVec 9) (p : Pre) (sc : Scope) : Fields := { enP op p with mod0 := 0#3 ++ sc.code }
def enSleep (op : BitVec 9) (p : Pre) (n : BitVec 24) : Fields := { enP op p with imm := n }
def enTrap (op : BitVec 9) (p : Pre) (code : BitVec 8) : Fields := { enP op p with imm := 0#16 ++ code }
/-- A register goes in B; an immediate in imm24 with the imm bit set (R109). `extra` is mod1 [3:0]. -/
def withSrcB (f : Fields) (b : Src) (extra : BitVec 4) : Fields :=
  match b with
  | .reg r => { f with b := r, mod1 := 0#1 ++ extra }
  | .imm v => { f with imm := v, mod1 := 1#1 ++ extra }
def enRRI (op : BitVec 9) (p : Pre) (d a : Reg) (b : Src) : Fields := withSrcB { enP op p with d := d, a := a } b 0
def enAddc (op : BitVec 9) (p : Pre) (d a : Reg) (b : Src) (pd ps : BitVec 3) (nps : Bool) : Fields :=
  withSrcB { enP op p with d := d, a := a, mod0 := 0#3 ++ pd } b (bit1 nps ++ ps)
def enRRIR (op : BitVec 9) (p : Pre) (d a : Reg) (b : Src) (c : Reg) : Fields :=
  withSrcB { enP op p with d := d, a := a, c := c } b 0
def enRRRI (op : BitVec 9) (p : Pre) (d a b : Reg) (c : Src) : Fields :=
  match c with
  | .reg r => { enP op p with d := d, a := a, b := b, c := r }
  | .imm v => { enP op p with d := d, a := a, b := b, imm := v, mod1 := 0b10000#5 }
def enRRRR (op : BitVec 9) (p : Pre) (d a b c : Reg) : Fields := { enP op p with d := d, a := a, b := b, c := c }
def enLut (op : BitVec 9) (p : Pre) (d a b c : Reg) (tbl : BitVec 8) : Fields :=
  { enRRRR op p d a b c with imm := 0#16 ++ tbl }
def enRR (op : BitVec 9) (p : Pre) (d a : Reg) : Fields := { enP op p with d := d, a := a }
def enIcmp (op : BitVec 9) (p : Pre) (cmp : Cmp) (pd : BitVec 3) (a : Reg) (b : Src) : Fields :=
  withSrcB { enP op p with a := a, mod0 := cmp.code ++ pd } b 0
def enIpick (op : BitVec 9) (p : Pre) (d a : Reg) (b : Src) (ps : BitVec 3) (nps : Bool) : Fields :=
  withSrcB { enP op p with d := d, a := a } b (bit1 nps ++ ps)
def enPadd (op : BitVec 9) (p : Pre) (d a : Reg) (b : Src) (m : SatMode) : Fields :=
  withSrcB { enP op p with d := d, a := a, mod0 := 0#4 ++ m.code } b 0
def enPcmp (op : BitVec 9) (p : Pre) (d a : Reg) (b : Src) (cmp : Cmp) (uns : Bool) : Fields :=
  withSrcB { enP op p with d := d, a := a, mod0 := cmp.code ++ (0#2 ++ bit1 uns) } b 0
def enPacs (op : BitVec 9) (p : Pre) (d a b c e : Reg) (m : SatMode) (pd : BitVec 3) : Fields :=
  { enP op p with d := d, a := a, b := b, c := c, e := e, mod0 := 0#1 ++ (m.code ++ pd) }
def enMov (op : BitVec 9) (p : Pre) (d a : Reg) (w64 : Bool) : Fields :=
  { enP op p with d := d, a := a, mod0 := 0#5 ++ bit1 w64 }
def enMovi (op : BitVec 9) (p : Pre) (d : Reg) (w64 : Bool) (imm : BitVec 48) : Fields :=
  { enP op p with d := d, mod0 := 0#5 ++ bit1 w64, imm := imm.setWidth 24, ext := (imm >>> 24).setWidth 24 }
def enLea (op : BitVec 9) (p : Pre) (d a : Reg) (pcrel : Bool) (imm : BitVec 48) : Fields :=
  { enMovi op p d pcrel imm with a := a }
def enPlog (op : BitVec 9) (p : Pre) (pd pa : BitVec 3) (na : Bool) (pb : BitVec 3) (nb : Bool) (o : PlogOp) : Fields :=
  { enP op p with a := 0#4 ++ (bit1 na ++ pa), b := 0#4 ++ (bit1 nb ++ pb), mod0 := 0#1 ++ (o.code ++ pd) }
def enD (op : BitVec 9) (p : Pre) (d : Reg) : Fields := { enP op p with d := d }
def enPput (op : BitVec 9) (p : Pre) (a : Reg) (mask : BitVec 7) : Fields := { enP op p with a := a, imm := 0#17 ++ mask }
def enFRRz (op : BitVec 9) (p : Pre) (d a b : Reg) (rm : Rm) (ftz : Bool) : Fields :=
  { enP op p with d := d, a := a, b := b, rm := rm.code, mod1 := bit1 ftz ++ 0#4 }
def enFRR (op : BitVec 9) (p : Pre) (d a b : Reg) (rm : Rm) : Fields := enFRRz op p d a b rm false
def enFRRRz (op : BitVec 9) (p : Pre) (d a b c : Reg) (rm : Rm) (ftz : Bool) : Fields :=
  { enFRRz op p d a b rm ftz with c := c }
def enFRRR (op : BitVec 9) (p : Pre) (d a b c : Reg) (rm : Rm) : Fields := enFRRRz op p d a b c rm false
def enMMz (op : BitVec 9) (p : Pre) (d a b : Reg) (ftz : Bool) : Fields := enFRRz op p d a b .rn ftz
def enMM (op : BitVec 9) (p : Pre) (d a b : Reg) : Fields := enFRRz op p d a b .rn false
def enFCz (op : BitVec 9) (p : Pre) (cmp : FCmp) (pd : BitVec 3) (a b : Reg) (sig ftz : Bool) : Fields :=
  { enP op p with a := a, b := b, mod0 := cmp.code ++ pd, mod1 := bit1 ftz ++ (bit1 sig ++ 0#3) }
def enFC (op : BitVec 9) (p : Pre) (cmp : FCmp) (pd : BitVec 3) (a b : Reg) (sig : Bool) : Fields :=
  enFCz op p cmp pd a b sig false
def enFUz (op : BitVec 9) (p : Pre) (d a : Reg) (rm : Rm) (ftz : Bool) : Fields := enFRRz op p d a 0 rm ftz
def enFU (op : BitVec 9) (p : Pre) (d a : Reg) (rm : Rm) : Fields := enFRRz op p d a 0 rm false
def enMxdq (op : BitVec 9) (p : Pre) (d a b : Reg) (j : BitVec 4) (s : BitVec 2) (rm : Rm) (ftz : Bool) : Fields :=
  { enFRRz op p d a b rm ftz with imm := 0#18 ++ (s ++ j) }
/-- MXQ's dword1 [34:32] is zero (06 R146, R163), not the 7 that Table 6-7 gives a cross-lane instruction which writes no
predicate: its entry names no pd (DESIGN CHOICE, log 83). -/
def enMxq (op : BitVec 9) (p : Pre) (d a : Reg) (cw : BitVec 2) : Fields := { enRR op p d a with mod0 := cw ++ 0#4 }
def enShfl (op : BitVec 9) (p : Pre) (d a : Reg) (b : ShSrc) (lg : BitVec 3) (cw : BitVec 2) (pd : BitVec 3) : Fields :=
  let f := { enRR op p d a with mod0 := cw ++ (0#1 ++ lg) }
  match b with
  | .reg r => { f with b := r, mod1 := 0#2 ++ pd }
  | .imm v => { f with imm := 0#19 ++ v, mod1 := 0b10#2 ++ pd }
def enVote (op : BitVec 9) (p : Pre) (m : VoteMode) (d : Reg) (pd pa : BitVec 3) (na : Bool) (cw : BitVec 2) : Fields :=
  { enP op p with d := d, a := 0#4 ++ (bit1 na ++ pa), mod0 := cw ++ (0#2 ++ m.code), mod1 := 0#2 ++ pd }
def enRedI (op : BitVec 9) (p : Pre) (d a : Reg) (o : RedOp) (cw : BitVec 2) : Fields :=
  { enRR op p d a with mod0 := cw ++ (0#1 ++ o.code), mod1 := 0b00111#5 }
def enRedF (op : BitVec 9) (p : Pre) (d a : Reg) (o : FRedOp) (rm : Rm) (ftz : Bool) (cw : BitVec 2) : Fields :=
  { enRR op p d a with mod0 := cw ++ (0#2 ++ o.code), mod1 := bit1 ftz ++ 0b0111#4, rm := rm.code }
def enScanI (op : BitVec 9) (p : Pre) (d a : Reg) (o : RedOp) (exc : Bool) (cw : BitVec 2) : Fields :=
  { enRR op p d a with mod0 := cw ++ (bit1 exc ++ o.code), mod1 := 0b00111#5 }
def enScanF (op : BitVec 9) (p : Pre) (d a : Reg) (o : FRedOp) (exc : Bool) (rm : Rm) (ftz : Bool) (cw : BitVec 2) : Fields :=
  { enRR op p d a with mod0 := cw ++ (bit1 exc ++ (0#1 ++ o.code)), mod1 := bit1 ftz ++ 0b0111#4, rm := rm.code }
def enMatch (op : BitVec 9) (p : Pre) (d a : Reg) (w64 : Bool) (cw : BitVec 2) (pd : BitVec 3) : Fields :=
  { enRR op p d a with mod0 := cw ++ (0#3 ++ bit1 w64), mod1 := 0#2 ++ pd }
def enAmem (op : BitVec 9) (p : Pre) (a : Reg) (off : BitVec 24) : Fields := { enP op p with a := a, imm := off }
def enAH (op : BitVec 9) (p : Pre) (a : Reg) (off : BitVec 24) (h : Hint) : Fields := { enAmem op p a off with hint := h.code }
def enLd (op : BitVec 9) (p : Pre) (d a : Reg) (off : BitVec 24) (h : Hint) : Fields := { enAH op p a off h with d := d }
def enSt (op : BitVec 9) (p : Pre) (a : Reg) (off : BitVec 24) (b : Reg) (h : Hint) : Fields := { enAH op p a off h with b := b }
/-- Semantics and scope in mod0 (Table 7-1). -/
def semScope (sem : Sem) (sc : Scope) : BitVec 6 := sem.code ++ (0#1 ++ sc.code)
def enLda (op : BitVec 9) (p : Pre) (d a : Reg) (off : BitVec 24) (sem : Sem) (sc : Scope) : Fields :=
  { enAmem op p a off with d := d, mod0 := semScope sem sc }
def enStr (op : BitVec 9) (p : Pre) (a : Reg) (off : BitVec 24) (b : Reg) (sem : Sem) (sc : Scope) : Fields :=
  { enAmem op p a off with b := b, mod0 := semScope sem sc }
def enAtom (op : BitVec 9) (p : Pre) (d a : Reg) (off : BitVec 24) (b : Reg) (sem : Sem) (sc : Scope) : Fields :=
  { enStr op p a off b sem sc with d := d }
def enCas (op : BitVec 9) (p : Pre) (d a : Reg) (off : BitVec 24) (b c : Reg) (sem : Sem) (sc : Scope) : Fields :=
  { enAtom op p d a off b sem sc with c := c }
def enAtomF (op : BitVec 9) (p : Pre) (d a : Reg) (off : BitVec 24) (b : Reg) (rm : Rm) (sem : Sem) (sc : Scope) : Fields :=
  { enAtom op p d a off b sem sc with rm := rm.code }
def enRed (op : BitVec 9) (p : Pre) (a : Reg) (off : BitVec 24) (b : Reg) (o : RedOp) (sem : Sem) (sc : Scope) : Fields :=
  { enStr op p a off b sem sc with mod1 := 0#2 ++ o.code }
def enRedA (op : BitVec 9) (p : Pre) (a : Reg) (off : BitVec 24) (b : Reg) (rm : Rm) (sem : Sem) (sc : Scope) : Fields :=
  { enStr op p a off b sem sc with rm := rm.code }
def enFence (op : BitVec 9) (p : Pre) (sem : Sem) (sc : Scope) : Fields := { enP op p with mod0 := semScope sem sc }
def enCctl (op : BitVec 9) (p : Pre) (o : CctlOp) (lvl2 : Bool) (a : Reg) (off : BitVec 24) : Fields :=
  { enAmem op p a off with mod0 := 0#2 ++ (bit1 lvl2 ++ o.code) }
def enLdl (op : BitVec 9) (p : Pre) (d : Reg) (idx : Bool) (a : Reg) (off : BitVec 24) (h : Hint) : Fields :=
  { enLd op p d a off h with mod0 := 0#5 ++ bit1 idx }
def enStl (op : BitVec 9) (p : Pre) (idx : Bool) (a : Reg) (off : BitVec 24) (b : Reg) (h : Hint) : Fields :=
  { enSt op p a off b h with mod0 := 0#5 ++ bit1 idx }
def enLdnf (op : BitVec 9) (p : Pre) (d : Reg) (w : BitVec 2) (a : Reg) (off : BitVec 24) (pd : BitVec 3) (h : Hint) : Fields :=
  { enLd op p d a off h with mod0 := 0#4 ++ w, mod1 := 0#2 ++ pd }
def enDA (op : BitVec 9) (p : Pre) (d a : Reg) (off : BitVec 24) : Fields := { enAmem op p a off with d := d }
def enSreg (op : BitVec 9) (p : Pre) (d : Reg) (w64 : Bool) (idx : BitVec 24) : Fields :=
  { enP op p with d := d, mod0 := 0#5 ++ bit1 w64, imm := idx }
def enSset (op : BitVec 9) (p : Pre) (idx : BitVec 24) (a : Reg) : Fields := { enP op p with a := a, imm := idx }
def enRng (op : BitVec 9) (p : Pre) (d : Reg) (w : BitVec 2) (u01 : Bool) : Fields :=
  { enP op p with d := d, mod0 := 0#3 ++ (bit1 u01 ++ w) }
def enPmcfg (op : BitVec 9) (p : Pre) (c : BitVec 2) (a : Reg) : Fields := { enP op p with a := a, imm := 0#22 ++ c }
def enPmrd (op : BitVec 9) (p : Pre) (d : Reg) (c : BitVec 2) : Fields := { enP op p with d := d, imm := 0#22 ++ c }
def enTscore (op : BitVec 9) (p : Pre) (add : Bool) (a : Reg) : Fields := { enP op p with a := a, mod0 := 0#5 ++ bit1 add }
def enDAB (op : BitVec 9) (p : Pre) (d a : Reg) (off : BitVec 24) (b : Reg) : Fields := { enDA op p d a off with b := b }
def enAB (op : BitVec 9) (p : Pre) (a : Reg) (off : BitVec 24) (b : Reg) : Fields := { enAmem op p a off with b := b }
def enSvc (op : BitVec 9) (p : Pre) (a : Reg) (n : BitVec 16) : Fields := { enP op p with a := a, imm := 0#8 ++ n }
def enTbind (op : BitVec 9) (p : Pre) (d : Reg) (h : BitVec 6) (a : Reg) (off : BitVec 24) (x : Bool) : Fields :=
  { enDA op p d a off with mod0 := h, mod1 := bit1 x ++ 0#4 }
def enTfree (op : BitVec 9) (p : Pre) (h : BitVec 6) (unbind : Bool) : Fields :=
  { enP op p with mod0 := h, mod1 := 0#4 ++ bit1 unbind }
def enTq' (op : BitVec 9) (p : Pre) (h : BitVec 6) (at_ : Bool) (b c : Reg) (fmt : BitVec 3) : Fields :=
  { enP op p with mod0 := h, b := b, c := c, mod1 := 0#1 ++ (bit1 at_ ++ fmt) }
def enTat (op : BitVec 9) (p : Pre) (h : BitVec 6) (at_ : Bool) (b c : Reg) : Fields := enTq' op p h at_ b c 0
def enTq (op : BitVec 9) (p : Pre) (h : BitVec 6) (at_ : Bool) (b c : Reg) (fmt : MxFmt) : Fields := enTq' op p h at_ b c fmt.code
def enH (op : BitVec 9) (p : Pre) (h : BitVec 6) : Fields := { enP op p with mod0 := h }
def enDH (op : BitVec 9) (p : Pre) (d : Reg) (h : BitVec 6) : Fields := { enP op p with d := d, mod0 := h }
def enAX (op : BitVec 9) (p : Pre) (a : Reg) (off : BitVec 24) (x : Bool) : Fields :=
  { enAmem op p a off with mod1 := bit1 x ++ 0#4 }
def enScatc (op : BitVec 9) (p : Pre) (a : Reg) (off : BitVec 24) (o : BitVec 2) (x : Bool) : Fields :=
  { enAX op p a off x with mod0 := 0#4 ++ o }
def enSlbind (op : BitVec 9) (p : Pre) (d a : Reg) (off : BitVec 24) (free : Bool) : Fields :=
  { enDA op p d a off with mod0 := 0#5 ++ bit1 free }
def enABCE (op : BitVec 9) (p : Pre) (a : Reg) (off : BitVec 24) (b c e : Reg) : Fields :=
  { enAB op p a off b with c := c, e := e }
def enSlpass (op : BitVec 9) (p : Pre) (a : Reg) (off : BitVec 24) (x : Bool) (b : Reg) : Fields :=
  { enAX op p a off x with b := b }
def enSlread (op : BitVec 9) (p : Pre) (d a : Reg) (off : BitVec 24) (sel : SlSel) (b : Reg) : Fields :=
  { enDAB op p d a off b with mod0 := 0#3 ++ sel.code }
/-- Scope of a collective: .dv or .sy (R228). -/
def collScope (sy : Bool) : BitVec 3 := if sy then 6 else 5
def enColl (op : BitVec 9) (p : Pre) (a : Reg) (off : BitVec 24) (sy x : Bool) : Fields :=
  { enAmem op p a off with mod1 := bit1 x ++ (0#1 ++ collScope sy) }
def enCred (op : BitVec 9) (p : Pre) (a : Reg) (off : BitVec 24) (o : CredOp) (ty : CredTy) (sy x : Bool) : Fields :=
  { enColl op p a off sy x with mod0 := ty.code ++ o.code }
def enMrecv (op : BitVec 9) (p : Pre) (d : Reg) (cw : BitVec 2) (pd : BitVec 3) : Fields :=
  { enP op p with d := d, mod0 := cw ++ 0#4, mod1 := 0#2 ++ pd }
def enMpost (op : BitVec 9) (p : Pre) (a : Reg) (n : BitVec 4) : Fields := { enP op p with a := a, imm := 0#20 ++ n }

-- matrix stream (Table 9-2); the guard pattern and the zeros of R237 are `enX`'s
def tileMods (r j : BitVec 2) (rel : Bool) : BitVec 6 := 0#1 ++ (bit1 rel ++ (j ++ r))
def enMldw (op : BitVec 9) (a c e : BitVec 8) (r j : BitVec 2) (rel : Bool) : Fields :=
  { enX op with a := a, c := c, e := e, mod0 := tileMods r j rel }
def enMstrm (op : BitVec 9) (d a c e : BitVec 8) (r j : BitVec 2) (rel : Bool) (m0 : BitVec 8) : Fields :=
  { enMldw op a c e r j rel with d := d, imm := 0#16 ++ m0 }
def enMstrmF (op : BitVec 9) (d a c e : BitVec 8) (r j : BitVec 2) (rel : Bool) (m0 : BitVec 8) (rm : Rm) : Fields :=
  { enMstrm op d a c e r j rel m0 with rm := rm.code }
def enM0 (op : BitVec 9) : Fields := enX op
def enMzero (op : BitVec 9) (d m0 rows : BitVec 8) : Fields := { enX op with d := d, imm := 0#8 ++ (rows ++ m0) }
def drainMods (st : Stages) (z : Bool) (kind : MKind) : BitVec 6 :=
  kind.code ++ (bit1 z ++ (bit1 st.q ++ (bit1 st.a ++ bit1 st.b)))
def enMdrain (op : BitVec 9) (d a : BitVec 8) (st : Stages) (z : Bool) (kind : MKind) (m0 : BitVec 8) (r j : BitVec 2) : Fields :=
  { enX op with d := d, a := a, mod0 := drainMods st z kind, imm := 0#16 ++ m0, mod1 := 0#1 ++ (j ++ r) }
def enMdrainL (op : BitVec 9) (d : BitVec 8) (g : BitVec 5) (st : Stages) (z : Bool) (kind : MKind) (m0 rows : BitVec 8)
    (beats : BitVec 3) : Fields :=
  { enX op with d := d, b := 0#3 ++ g, mod0 := drainMods st z kind, imm := 0#5 ++ (beats ++ (rows ++ m0)) }
def enMchain (op : BitVec 9) (a b : BitVec 8) (fmt : ChainFmt) (bias table : Bool) : Fields :=
  { enX op with a := a, b := b, mod0 := 0#1 ++ (bit1 table ++ (bit1 bias ++ fmt.code)) }
def enMgrp (op : BitVec 9) (d a b c : BitVec 8) (st : Stages) (g : BitVec 4) (s : BitVec 8) : Fields :=
  { enX op with d := d, a := a, b := b, c := c, mod0 := 0#3 ++ (bit1 st.q ++ (bit1 st.a ++ bit1 st.b)), imm := 0#12 ++ (s ++ g) }
def enAsave (op : BitVec 9) (d : BitVec 8) (j : BitVec 2) (lc q : Bool) (off : BitVec 24) : Fields :=
  { enX op with d := d, mod0 := 0#2 ++ (bit1 q ++ (bit1 lc ++ j)), imm := off }
def enMbar (op : BitVec 9) (b : BitVec 4) (c : BitVec 11) : Fields := { enX op with imm := 0#9 ++ (c ++ b) }
def enMloop (op : BitVec 9) (q : Bool) (n : BitVec 24) : Fields := { enX op with mod0 := 0#5 ++ bit1 q, imm := n }

/-! ### Reading the fields back -/

/-- Bits `[lo + w - 1 : lo]` of a field. -/
def sl {n : Nat} (v : BitVec n) (lo w : Nat) : BitVec w := v.extractLsb' lo w

def Fields.pre (f : Fields) : Pre := ⟨f.g, f.stall, f.yld⟩
def Fields.srcB (f : Fields) : Src := if f.mod1.getLsbD 4 then .imm f.imm else .reg f.b
def Fields.srcC (f : Fields) : Src := if f.mod1.getLsbD 4 then .imm f.imm else .reg f.c
def Fields.shB (f : Fields) : ShSrc := if f.mod1.getLsbD 4 then .imm (sl f.imm 0 5) else .reg f.b
def Fields.x4 (f : Fields) : Bool := f.mod1.getLsbD 4
def Fields.cw (f : Fields) : BitVec 2 := sl f.mod0 4 2
def Fields.imm48 (f : Fields) : BitVec 48 := f.ext ++ f.imm
def Fields.cmp? (f : Fields) : Option Cmp := Cmp.of? (sl f.mod0 3 3)
def Fields.rm? (f : Fields) : Option Rm := Rm.of? f.rm
def Fields.hint? (f : Fields) : Option Hint := Hint.of? f.hint
def Fields.sc? (f : Fields) : Option Scope := Scope.of? (sl f.mod0 0 3)
def Fields.sem (f : Fields) : Sem := Sem.of (sl f.mod0 4 2)
def Fields.pd (f : Fields) : BitVec 3 := sl f.mod0 0 3
def Fields.pd1 (f : Fields) : BitVec 3 := sl f.mod1 0 3
def Fields.stages (f : Fields) : Stages := ⟨f.mod0.getLsbD 0, f.mod0.getLsbD 1, f.mod0.getLsbD 2⟩

def deP (k : Pre → Instr) (f : Fields) : Option Instr := some (k f.pre)
def deOff (k : Pre → BitVec 24 → Instr) (f : Fields) : Option Instr := some (k f.pre f.imm)
def deA (k : Pre → Reg → Instr) (f : Fields) : Option Instr := some (k f.pre f.a)
def deBrt (k : Pre → Reg → Reg → BitVec 24 → Hint → Instr) (f : Fields) : Option Instr :=
  f.hint?.map fun h => k f.pre f.a f.b f.imm h
def deSpawn (k : Pre → Reg → BitVec 24 → Instr) (f : Fields) : Option Instr := some (k f.pre f.b f.imm)
def deSpawnQ (k : Pre → Reg → Reg → BitVec 24 → BitVec 4 → Instr) (f : Fields) : Option Instr :=
  some (k f.pre f.d f.a f.imm (sl f.mod0 0 4))
def deWaitC (k : Pre → EngClass → BitVec 6 → Instr) (f : Fields) : Option Instr :=
  (EngClass.of? (sl f.mod0 0 3)).map fun c => k f.pre c (sl f.imm 0 6)
def deBarArr (k : Pre → Reg → BitVec 4 → BitVec 11 → Instr) (f : Fields) : Option Instr :=
  some (k f.pre f.d (sl f.imm 0 4) (sl f.imm 4 11))
def deBarWait (k : Pre → Reg → BitVec 4 → Instr) (f : Fields) : Option Instr := some (k f.pre f.a (sl f.imm 0 4))
def deBarSync (k : Pre → BitVec 4 → BitVec 11 → Instr) (f : Fields) : Option Instr :=
  some (k f.pre (sl f.imm 0 4) (sl f.imm 4 11))
def deYield (k : Pre → Scope → Instr) (f : Fields) : Option Instr := f.sc?.map fun s => k f.pre s
def deSleep (k : Pre → BitVec 24 → Instr) (f : Fields) : Option Instr := some (k f.pre f.imm)
def deTrap (k : Pre → BitVec 8 → Instr) (f : Fields) : Option Instr := some (k f.pre (sl f.imm 0 8))
def deRRI (k : Pre → Reg → Reg → Src → Instr) (f : Fields) : Option Instr := some (k f.pre f.d f.a f.srcB)
def deAddc (k : Pre → Reg → Reg → Src → BitVec 3 → BitVec 3 → Bool → Instr) (f : Fields) : Option Instr :=
  some (k f.pre f.d f.a f.srcB f.pd f.pd1 (f.mod1.getLsbD 3))
def deRRIR (k : Pre → Reg → Reg → Src → Reg → Instr) (f : Fields) : Option Instr := some (k f.pre f.d f.a f.srcB f.c)
def deRRRI (k : Pre → Reg → Reg → Reg → Src → Instr) (f : Fields) : Option Instr := some (k f.pre f.d f.a f.b f.srcC)
def deRRRR (k : Pre → Reg → Reg → Reg → Reg → Instr) (f : Fields) : Option Instr := some (k f.pre f.d f.a f.b f.c)
def deLut (k : Pre → Reg → Reg → Reg → Reg → BitVec 8 → Instr) (f : Fields) : Option Instr :=
  some (k f.pre f.d f.a f.b f.c (sl f.imm 0 8))
def deRR (k : Pre → Reg → Reg → Instr) (f : Fields) : Option Instr := some (k f.pre f.d f.a)
def deIcmp (k : Pre → Cmp → BitVec 3 → Reg → Src → Instr) (f : Fields) : Option Instr :=
  f.cmp?.map fun c => k f.pre c f.pd f.a f.srcB
def deIpick (k : Pre → Reg → Reg → Src → BitVec 3 → Bool → Instr) (f : Fields) : Option Instr :=
  some (k f.pre f.d f.a f.srcB f.pd1 (f.mod1.getLsbD 3))
def dePadd (k : Pre → Reg → Reg → Src → SatMode → Instr) (f : Fields) : Option Instr :=
  (SatMode.of? (sl f.mod0 0 2)).map fun m => k f.pre f.d f.a f.srcB m
def dePcmp (k : Pre → Reg → Reg → Src → Cmp → Bool → Instr) (f : Fields) : Option Instr :=
  f.cmp?.map fun c => k f.pre f.d f.a f.srcB c (f.mod0.getLsbD 0)
def dePacs (k : Pre → Reg → Reg → Reg → Reg → Reg → SatMode → BitVec 3 → Instr) (f : Fields) : Option Instr :=
  (SatMode.of? (sl f.mod0 3 2)).map fun m => k f.pre f.d f.a f.b f.c f.e m f.pd
def deMov (k : Pre → Reg → Reg → Bool → Instr) (f : Fields) : Option Instr := some (k f.pre f.d f.a (f.mod0.getLsbD 0))
def deMovi (k : Pre → Reg → Bool → BitVec 48 → Instr) (f : Fields) : Option Instr :=
  some (k f.pre f.d (f.mod0.getLsbD 0) f.imm48)
def deLea (k : Pre → Reg → Reg → Bool → BitVec 48 → Instr) (f : Fields) : Option Instr :=
  some (k f.pre f.d f.a (f.mod0.getLsbD 0) f.imm48)
def dePlog (k : Pre → BitVec 3 → BitVec 3 → Bool → BitVec 3 → Bool → PlogOp → Instr) (f : Fields) : Option Instr :=
  (PlogOp.of? (sl f.mod0 3 2)).map fun o => k f.pre f.pd (sl f.a 0 3) (f.a.getLsbD 3) (sl f.b 0 3) (f.b.getLsbD 3) o
def deD (k : Pre → Reg → Instr) (f : Fields) : Option Instr := some (k f.pre f.d)
def dePput (k : Pre → Reg → BitVec 7 → Instr) (f : Fields) : Option Instr := some (k f.pre f.a (sl f.imm 0 7))
def deFRR (k : Pre → Reg → Reg → Reg → Rm → Instr) (f : Fields) : Option Instr := f.rm?.map fun r => k f.pre f.d f.a f.b r
def deFRRz (k : Pre → Reg → Reg → Reg → Rm → Bool → Instr) (f : Fields) : Option Instr :=
  f.rm?.map fun r => k f.pre f.d f.a f.b r f.x4
def deFRRR (k : Pre → Reg → Reg → Reg → Reg → Rm → Instr) (f : Fields) : Option Instr :=
  f.rm?.map fun r => k f.pre f.d f.a f.b f.c r
def deFRRRz (k : Pre → Reg → Reg → Reg → Reg → Rm → Bool → Instr) (f : Fields) : Option Instr :=
  f.rm?.map fun r => k f.pre f.d f.a f.b f.c r f.x4
def deMM (k : Pre → Reg → Reg → Reg → Instr) (f : Fields) : Option Instr := some (k f.pre f.d f.a f.b)
def deMMz (k : Pre → Reg → Reg → Reg → Bool → Instr) (f : Fields) : Option Instr := some (k f.pre f.d f.a f.b f.x4)
def deFC (k : Pre → FCmp → BitVec 3 → Reg → Reg → Bool → Instr) (f : Fields) : Option Instr :=
  some (k f.pre (FCmp.of (sl f.mod0 3 3)) f.pd f.a f.b (f.mod1.getLsbD 3))
def deFCz (k : Pre → FCmp → BitVec 3 → Reg → Reg → Bool → Bool → Instr) (f : Fields) : Option Instr :=
  some (k f.pre (FCmp.of (sl f.mod0 3 3)) f.pd f.a f.b (f.mod1.getLsbD 3) f.x4)
def deFU (k : Pre → Reg → Reg → Rm → Instr) (f : Fields) : Option Instr := f.rm?.map fun r => k f.pre f.d f.a r
def deFUz (k : Pre → Reg → Reg → Rm → Bool → Instr) (f : Fields) : Option Instr := f.rm?.map fun r => k f.pre f.d f.a r f.x4
def deMxdq (k : Pre → Reg → Reg → Reg → BitVec 4 → BitVec 2 → Rm → Bool → Instr) (f : Fields) : Option Instr :=
  f.rm?.map fun r => k f.pre f.d f.a f.b (sl f.imm 0 4) (sl f.imm 4 2) r f.x4
def deMxq (k : Pre → Reg → Reg → BitVec 2 → Instr) (f : Fields) : Option Instr := some (k f.pre f.d f.a f.cw)
def deShfl (k : Pre → Reg → Reg → ShSrc → BitVec 3 → BitVec 2 → BitVec 3 → Instr) (f : Fields) : Option Instr :=
  some (k f.pre f.d f.a f.shB f.pd f.cw f.pd1)
def deVote (k : Pre → VoteMode → Reg → BitVec 3 → BitVec 3 → Bool → BitVec 2 → Instr) (f : Fields) : Option Instr :=
  some (k f.pre (VoteMode.of (sl f.mod0 0 2)) f.d f.pd1 (sl f.a 0 3) (f.a.getLsbD 3) f.cw)
def deRedI (k : Pre → Reg → Reg → RedOp → BitVec 2 → Instr) (f : Fields) : Option Instr :=
  some (k f.pre f.d f.a (RedOp.of f.pd) f.cw)
def deRedF (k : Pre → Reg → Reg → FRedOp → Rm → Bool → BitVec 2 → Instr) (f : Fields) : Option Instr :=
  (FRedOp.of? (sl f.mod0 0 2)).bind fun o => f.rm?.map fun r => k f.pre f.d f.a o r f.x4 f.cw
def deScanI (k : Pre → Reg → Reg → RedOp → Bool → BitVec 2 → Instr) (f : Fields) : Option Instr :=
  some (k f.pre f.d f.a (RedOp.of f.pd) (f.mod0.getLsbD 3) f.cw)
def deScanF (k : Pre → Reg → Reg → FRedOp → Bool → Rm → Bool → BitVec 2 → Instr) (f : Fields) : Option Instr :=
  (FRedOp.of? (sl f.mod0 0 2)).bind fun o => f.rm?.map fun r => k f.pre f.d f.a o (f.mod0.getLsbD 3) r f.x4 f.cw
def deMatch (k : Pre → Reg → Reg → Bool → BitVec 2 → BitVec 3 → Instr) (f : Fields) : Option Instr :=
  some (k f.pre f.d f.a (f.mod0.getLsbD 0) f.cw f.pd1)
def deAmem (k : Pre → Reg → BitVec 24 → Instr) (f : Fields) : Option Instr := some (k f.pre f.a f.imm)
def deAH (k : Pre → Reg → BitVec 24 → Hint → Instr) (f : Fields) : Option Instr := f.hint?.map fun h => k f.pre f.a f.imm h
def deLd (k : Pre → Reg → Reg → BitVec 24 → Hint → Instr) (f : Fields) : Option Instr :=
  f.hint?.map fun h => k f.pre f.d f.a f.imm h
def deSt (k : Pre → Reg → BitVec 24 → Reg → Hint → Instr) (f : Fields) : Option Instr :=
  f.hint?.map fun h => k f.pre f.a f.imm f.b h
def deLda (k : Pre → Reg → Reg → BitVec 24 → Sem → Scope → Instr) (f : Fields) : Option Instr :=
  f.sc?.map fun s => k f.pre f.d f.a f.imm f.sem s
def deStr (k : Pre → Reg → BitVec 24 → Reg → Sem → Scope → Instr) (f : Fields) : Option Instr :=
  f.sc?.map fun s => k f.pre f.a f.imm f.b f.sem s
def deAtom (k : Pre → Reg → Reg → BitVec 24 → Reg → Sem → Scope → Instr) (f : Fields) : Option Instr :=
  f.sc?.map fun s => k f.pre f.d f.a f.imm f.b f.sem s
def deCas (k : Pre → Reg → Reg → BitVec 24 → Reg → Reg → Sem → Scope → Instr) (f : Fields) : Option Instr :=
  f.sc?.map fun s => k f.pre f.d f.a f.imm f.b f.c f.sem s
def deAtomF (k : Pre → Reg → Reg → BitVec 24 → Reg → Rm → Sem → Scope → Instr) (f : Fields) : Option Instr :=
  f.sc?.bind fun s => f.rm?.map fun r => k f.pre f.d f.a f.imm f.b r f.sem s
def deRed (k : Pre → Reg → BitVec 24 → Reg → RedOp → Sem → Scope → Instr) (f : Fields) : Option Instr :=
  f.sc?.map fun s => k f.pre f.a f.imm f.b (RedOp.of f.pd1) f.sem s
def deRedA (k : Pre → Reg → BitVec 24 → Reg → Rm → Sem → Scope → Instr) (f : Fields) : Option Instr :=
  f.sc?.bind fun s => f.rm?.map fun r => k f.pre f.a f.imm f.b r f.sem s
def deFence (k : Pre → Sem → Scope → Instr) (f : Fields) : Option Instr := f.sc?.map fun s => k f.pre f.sem s
def deCctl (k : Pre → CctlOp → Bool → Reg → BitVec 24 → Instr) (f : Fields) : Option Instr :=
  (CctlOp.of? f.pd).map fun o => k f.pre o (f.mod0.getLsbD 3) f.a f.imm
def deLdl (k : Pre → Reg → Bool → Reg → BitVec 24 → Hint → Instr) (f : Fields) : Option Instr :=
  f.hint?.map fun h => k f.pre f.d (f.mod0.getLsbD 0) f.a f.imm h
def deStl (k : Pre → Bool → Reg → BitVec 24 → Reg → Hint → Instr) (f : Fields) : Option Instr :=
  f.hint?.map fun h => k f.pre (f.mod0.getLsbD 0) f.a f.imm f.b h
def deLdnf (k : Pre → Reg → BitVec 2 → Reg → BitVec 24 → BitVec 3 → Hint → Instr) (f : Fields) : Option Instr :=
  f.hint?.map fun h => k f.pre f.d (sl f.mod0 0 2) f.a f.imm f.pd1 h
def deDA (k : Pre → Reg → Reg → BitVec 24 → Instr) (f : Fields) : Option Instr := some (k f.pre f.d f.a f.imm)
def deSreg (k : Pre → Reg → Bool → BitVec 24 → Instr) (f : Fields) : Option Instr := some (k f.pre f.d (f.mod0.getLsbD 0) f.imm)
def deSset (k : Pre → BitVec 24 → Reg → Instr) (f : Fields) : Option Instr := some (k f.pre f.imm f.a)
def deRng (k : Pre → Reg → BitVec 2 → Bool → Instr) (f : Fields) : Option Instr :=
  some (k f.pre f.d (sl f.mod0 0 2) (f.mod0.getLsbD 2))
def dePmcfg (k : Pre → BitVec 2 → Reg → Instr) (f : Fields) : Option Instr := some (k f.pre (sl f.imm 0 2) f.a)
def dePmrd (k : Pre → Reg → BitVec 2 → Instr) (f : Fields) : Option Instr := some (k f.pre f.d (sl f.imm 0 2))
def deTscore (k : Pre → Bool → Reg → Instr) (f : Fields) : Option Instr := some (k f.pre (f.mod0.getLsbD 0) f.a)
def deDAB (k : Pre → Reg → Reg → BitVec 24 → Reg → Instr) (f : Fields) : Option Instr := some (k f.pre f.d f.a f.imm f.b)
def deAB (k : Pre → Reg → BitVec 24 → Reg → Instr) (f : Fields) : Option Instr := some (k f.pre f.a f.imm f.b)
def deSvc (k : Pre → Reg → BitVec 16 → Instr) (f : Fields) : Option Instr := some (k f.pre f.a (sl f.imm 0 16))
def deTbind (k : Pre → Reg → BitVec 6 → Reg → BitVec 24 → Bool → Instr) (f : Fields) : Option Instr :=
  some (k f.pre f.d f.mod0 f.a f.imm f.x4)
def deTfree (k : Pre → BitVec 6 → Bool → Instr) (f : Fields) : Option Instr := some (k f.pre f.mod0 (f.mod1.getLsbD 0))
def deTat (k : Pre → BitVec 6 → Bool → Reg → Reg → Instr) (f : Fields) : Option Instr :=
  some (k f.pre f.mod0 (f.mod1.getLsbD 3) f.b f.c)
def deTq (k : Pre → BitVec 6 → Bool → Reg → Reg → MxFmt → Instr) (f : Fields) : Option Instr :=
  (MxFmt.of? f.pd1).map fun m => k f.pre f.mod0 (f.mod1.getLsbD 3) f.b f.c m
def deH (k : Pre → BitVec 6 → Instr) (f : Fields) : Option Instr := some (k f.pre f.mod0)
def deDH (k : Pre → Reg → BitVec 6 → Instr) (f : Fields) : Option Instr := some (k f.pre f.d f.mod0)
def deAX (k : Pre → Reg → BitVec 24 → Bool → Instr) (f : Fields) : Option Instr := some (k f.pre f.a f.imm f.x4)
def deScatc (k : Pre → Reg → BitVec 24 → BitVec 2 → Bool → Instr) (f : Fields) : Option Instr :=
  some (k f.pre f.a f.imm (sl f.mod0 0 2) f.x4)
def deSlbind (k : Pre → Reg → Reg → BitVec 24 → Bool → Instr) (f : Fields) : Option Instr :=
  some (k f.pre f.d f.a f.imm (f.mod0.getLsbD 0))
def deABCE (k : Pre → Reg → BitVec 24 → Reg → Reg → Reg → Instr) (f : Fields) : Option Instr :=
  some (k f.pre f.a f.imm f.b f.c f.e)
def deSlpass (k : Pre → Reg → BitVec 24 → Bool → Reg → Instr) (f : Fields) : Option Instr := some (k f.pre f.a f.imm f.x4 f.b)
def deSlread (k : Pre → Reg → Reg → BitVec 24 → SlSel → Reg → Instr) (f : Fields) : Option Instr :=
  (SlSel.of? f.pd).map fun s => k f.pre f.d f.a f.imm s f.b
def deColl (k : Pre → Reg → BitVec 24 → Bool → Bool → Instr) (f : Fields) : Option Instr :=
  some (k f.pre f.a f.imm (f.mod1.getLsbD 1) f.x4)
def deCred (k : Pre → Reg → BitVec 24 → CredOp → CredTy → Bool → Bool → Instr) (f : Fields) : Option Instr :=
  (CredOp.of? f.pd).bind fun o => (CredTy.of? (sl f.mod0 3 3)).map fun t => k f.pre f.a f.imm o t (f.mod1.getLsbD 1) f.x4
def deMrecv (k : Pre → Reg → BitVec 2 → BitVec 3 → Instr) (f : Fields) : Option Instr := some (k f.pre f.d f.cw f.pd1)
def deMpost (k : Pre → Reg → BitVec 4 → Instr) (f : Fields) : Option Instr := some (k f.pre f.a (sl f.imm 0 4))

def deMldw (k : BitVec 8 → BitVec 8 → BitVec 8 → BitVec 2 → BitVec 2 → Bool → Instr) (f : Fields) : Option Instr :=
  some (k f.a f.c f.e (sl f.mod0 0 2) (sl f.mod0 2 2) (f.mod0.getLsbD 4))
def deMstrm (k : BitVec 8 → BitVec 8 → BitVec 8 → BitVec 8 → BitVec 2 → BitVec 2 → Bool → BitVec 8 → Instr) (f : Fields) :
    Option Instr := some (k f.d f.a f.c f.e (sl f.mod0 0 2) (sl f.mod0 2 2) (f.mod0.getLsbD 4) (sl f.imm 0 8))
def deMstrmF (k : BitVec 8 → BitVec 8 → BitVec 8 → BitVec 8 → BitVec 2 → BitVec 2 → Bool → BitVec 8 → Rm → Instr) (f : Fields) :
    Option Instr :=
  f.rm?.map fun r => k f.d f.a f.c f.e (sl f.mod0 0 2) (sl f.mod0 2 2) (f.mod0.getLsbD 4) (sl f.imm 0 8) r
def deM0 (k : Instr) (_ : Fields) : Option Instr := some k
def deMzero (k : BitVec 8 → BitVec 8 → BitVec 8 → Instr) (f : Fields) : Option Instr :=
  some (k f.d (sl f.imm 0 8) (sl f.imm 8 8))
def deMdrain (k : BitVec 8 → BitVec 8 → Stages → Bool → MKind → BitVec 8 → BitVec 2 → BitVec 2 → Instr) (f : Fields) :
    Option Instr :=
  (MKind.of? (sl f.mod0 4 2)).map fun m =>
    k f.d f.a f.stages (f.mod0.getLsbD 3) m (sl f.imm 0 8) (sl f.mod1 0 2) (sl f.mod1 2 2)
def deMdrainL (k : BitVec 8 → BitVec 5 → Stages → Bool → MKind → BitVec 8 → BitVec 8 → BitVec 3 → Instr) (f : Fields) :
    Option Instr :=
  (MKind.of? (sl f.mod0 4 2)).map fun m =>
    k f.d (sl f.b 0 5) f.stages (f.mod0.getLsbD 3) m (sl f.imm 0 8) (sl f.imm 8 8) (sl f.imm 16 3)
def deMchain (k : BitVec 8 → BitVec 8 → ChainFmt → Bool → Bool → Instr) (f : Fields) : Option Instr :=
  (ChainFmt.of? f.pd).map fun m => k f.a f.b m (f.mod0.getLsbD 3) (f.mod0.getLsbD 4)
def deMgrp (k : BitVec 8 → BitVec 8 → BitVec 8 → BitVec 8 → Stages → BitVec 4 → BitVec 8 → Instr) (f : Fields) : Option Instr :=
  some (k f.d f.a f.b f.c f.stages (sl f.imm 0 4) (sl f.imm 4 8))
def deAsave (k : BitVec 8 → BitVec 2 → Bool → Bool → BitVec 24 → Instr) (f : Fields) : Option Instr :=
  some (k f.d (sl f.mod0 0 2) (f.mod0.getLsbD 2) (f.mod0.getLsbD 3) f.imm)
def deMbar (k : BitVec 4 → BitVec 11 → Instr) (f : Fields) : Option Instr := some (k (sl f.imm 0 4) (sl f.imm 4 11))
def deMloop (k : Bool → BitVec 24 → Instr) (f : Fields) : Option Instr := some (k (f.mod0.getLsbD 0) f.imm)


/-! ### The opcode map (Table 3-2) -/

/-- UDF takes any other bits (R131). -/
def deUdf (f : Fields) : Option Instr := some (.udf (f.dword0.setWidth 55) f.dword1)
def enUdf (hi : BitVec 55) (lo : BitVec 64) : Fields := Fields.unpack (lo ++ (0x012#9 ++ hi))

/-- How an instruction of each assigned opcode of thread code is read. -/
def opControl : List (Nat × (Fields → Option Instr)) := [
  (0x000, deP .nop),
  (0x001, deOff .bra),
  (0x002, deA .brx),
  (0x003, deOff .call),
  (0x004, deA .callx),
  (0x005, deP .ret),
  (0x006, deP .exit),
  (0x007, deSpawn .spawn),
  (0x008, deSpawnQ .spawnq),
  (0x009, deWaitC .waitc),
  (0x00A, deBarArr .barArr),
  (0x00B, deBarWait .barWait),
  (0x00C, deBarSync .barSync),
  (0x00D, deYield .yield),
  (0x00E, deTrap .trap),
  (0x00F, deP .bkpt),
  (0x010, deP .gsync),
  (0x011, deSleep .sleep),
  (0x012, deUdf),
  (0x013, deBrt .brt)]

def opInteger : List (Nat × (Fields → Option Instr)) := [
  (0x020, deRRI .iadd32),
  (0x021, deRRI .iadd64),
  (0x022, deRRI .isub32),
  (0x023, deRRI .isub64),
  (0x024, deAddc .iaddc),
  (0x025, deRRI .imulLo),
  (0x026, deRRI .imulhS),
  (0x027, deRRI .imulhN),
  (0x028, deRRI .imulwS),
  (0x029, deRRI .imulwN),
  (0x02A, deRRIR .imadLo),
  (0x02B, deRRIR .imadwS),
  (0x02C, deRRIR .imadwN),
  (0x02D, deRRIR .imad64),
  (0x02E, deRRI .idivS),
  (0x02F, deRRI .idivN),
  (0x030, deRRI .iremS),
  (0x031, deRRI .iremN),
  (0x032, deRRI .iminS),
  (0x033, deRRI .iminN),
  (0x034, deRRI .imaxS),
  (0x035, deRRI .imaxN),
  (0x036, deRR .iabs),
  (0x037, deRR .ineg),
  (0x038, deRRI .andB),
  (0x039, deRRI .orB),
  (0x03A, deRRI .xorB),
  (0x03B, deRR .notB),
  (0x03C, deLut .lut3),
  (0x03D, deRRI .shl),
  (0x03E, deRRI .shr),
  (0x03F, deRRI .sar),
  (0x040, deRRI .rot),
  (0x041, deRRRI .fshfL),
  (0x042, deRRRI .fshfR),
  (0x043, deRR .popc),
  (0x044, deRR .clz),
  (0x045, deRR .brev),
  (0x046, deRRI .bfeS),
  (0x047, deRRI .bfeN),
  (0x048, deRRIR .bfi),
  (0x049, deIcmp .icmpS32),
  (0x04A, deIcmp .icmpN32),
  (0x04B, deIcmp .icmpS64),
  (0x04C, deIcmp .icmpN64),
  (0x04D, deIpick .ipick),
  (0x04E, deRRRR .idp4S),
  (0x04F, deRRRR .idp4N),
  (0x050, dePadd .padd16),
  (0x051, dePadd .padd8),
  (0x052, dePadd .psub16),
  (0x053, dePadd .psub8),
  (0x054, deRRI .pmaxS16),
  (0x055, deRRI .pmaxN16),
  (0x056, deRRI .pminS16),
  (0x057, deRRI .pminN16),
  (0x058, dePcmp .pcmp16),
  (0x059, dePcmp .pcmp8),
  (0x05A, deRRRR .psel),
  (0x05B, dePacs .pacs),
  (0x05C, deRRRI .perm),
  (0x05D, deMov .mov),
  (0x05E, deMovi .movi),
  (0x05F, deLea .lea),
  (0x060, dePlog .plog),
  (0x061, deD .pget),
  (0x062, dePput .pput),
  (0x063, deRRI .shl64),
  (0x064, deRRI .shr64),
  (0x065, deRRI .sar64)]

def opFloat : List (Nat × (Fields → Option Instr)) := [
  (0x080, deFRR .faddF64),
  (0x081, deFRRz .faddF32),
  (0x082, deFRRz .faddF16x2),
  (0x083, deFRR .faddBf16x2),
  (0x084, deFRR .fsubF64),
  (0x085, deFRRz .fsubF32),
  (0x086, deFRRz .fsubF16x2),
  (0x087, deFRR .fsubBf16x2),
  (0x088, deFRR .fmulF64),
  (0x089, deFRRz .fmulF32),
  (0x08A, deFRRz .fmulF16x2),
  (0x08B, deFRR .fmulBf16x2),
  (0x08C, deFRRR .ffmaF64),
  (0x08D, deFRRRz .ffmaF32),
  (0x08E, deFRRRz .ffmaF16x2),
  (0x08F, deFRRR .ffmaBf16x2),
  (0x090, deMM .fminF64),
  (0x091, deMMz .fminF32),
  (0x092, deMMz .fminF16x2),
  (0x093, deMM .fminBf16x2),
  (0x094, deMM .fmaxF64),
  (0x095, deMMz .fmaxF32),
  (0x096, deMMz .fmaxF16x2),
  (0x097, deMM .fmaxBf16x2),
  (0x098, deFC .fcmpF64),
  (0x099, deFCz .fcmpF32),
  (0x09A, deFCz .fcmpF16x2),
  (0x09B, deFC .fcmpBf16x2),
  (0x09C, deFRR .fdivF64),
  (0x09D, deFRRz .fdivF32),
  (0x09E, deFU .fsqrtF64),
  (0x09F, deFUz .fsqrtF32),
  (0x0A0, deFU .frcpF64),
  (0x0A1, deFUz .frcpF32),
  (0x0A2, deFU .frsqF64),
  (0x0A3, deFUz .frsqF32),
  (0x0A4, deFUz .fexp2F32),
  (0x0A5, deFUz .flog2F32),
  (0x0A6, deFUz .fsinF32),
  (0x0A7, deFUz .fcosF32),
  (0x0A8, deFUz .ftanhF32),
  (0x0A9, deFU .fexp2F64),
  (0x0AA, deFU .flog2F64),
  (0x0AB, deFU .fsinF64),
  (0x0AC, deFU .fcosF64),
  (0x0AD, deFRR .fscaleF64),
  (0x0AE, deFRRz .fscaleF32),
  (0x0AF, deFU .frndF64),
  (0x0B0, deFUz .frndF32),
  (0x0B1, deRR .fclassF64),
  (0x0B2, deRR .fclassF32),
  (0x0B3, deFU .fcvtF64F32),
  (0x0B4, deFU .fcvtF32F64),
  (0x0B5, deFRRz .fcvtF16x2F32),
  (0x0B6, deFRR .fcvtBf16x2F32),
  (0x0B7, deFUz .fcvtF32F16x2),
  (0x0B8, deFU .fcvtF32Bf16x2),
  (0x0B9, deFUz .fcvtF32S32),
  (0x0BA, deFUz .fcvtF32N32),
  (0x0BB, deFU .fcvtF64S64),
  (0x0BC, deFU .fcvtF64S32),
  (0x0BD, deFUz .fcvtS32F32),
  (0x0BE, deFUz .fcvtN32F32),
  (0x0BF, deFU .fcvtS64F64),
  (0x0C0, deFU .fcvtS32F64),
  (0x0C1, deMxdq .mxdqE4m3),
  (0x0C2, deMxdq .mxdqE5m2),
  (0x0C3, deMxdq .mxdqE2m3),
  (0x0C4, deMxdq .mxdqE3m2),
  (0x0C5, deMxdq .mxdqE2m1),
  (0x0C6, deMxq .mxqE4m3),
  (0x0C7, deMxq .mxqE2m1)]

def opCross : List (Nat × (Fields → Option Instr)) := [
  (0x0D0, deShfl .shflIdx),
  (0x0D1, deShfl .shflUp),
  (0x0D2, deShfl .shflDown),
  (0x0D3, deShfl .shflXor),
  (0x0D4, deVote .vote),
  (0x0D5, deRedI .reduxI),
  (0x0D6, deRedF .reduxF32),
  (0x0D7, deScanI .scanI),
  (0x0D8, deScanF .scanF32),
  (0x0D9, deMatch .matchAny)]

def opMemory : List (Nat × (Fields → Option Instr)) := [
  (0x0E0, deLd .ldS8),
  (0x0E1, deLd .ldN8),
  (0x0E2, deLd .ldS16),
  (0x0E3, deLd .ldN16),
  (0x0E4, deLd .ld32),
  (0x0E5, deLd .ld64),
  (0x0E6, deLd .ld128),
  (0x0E7, deSt .st8),
  (0x0E8, deSt .st16),
  (0x0E9, deSt .st32),
  (0x0EA, deSt .st64),
  (0x0EB, deSt .st128),
  (0x0EC, deLda .lda32),
  (0x0ED, deLda .lda64),
  (0x0EE, deStr .str32),
  (0x0EF, deStr .str64),
  (0x0F0, deAtom .atom32Add),
  (0x0F1, deAtom .atom32MinS),
  (0x0F2, deAtom .atom32MinN),
  (0x0F3, deAtom .atom32MaxS),
  (0x0F4, deAtom .atom32MaxN),
  (0x0F5, deAtom .atom32And),
  (0x0F6, deAtom .atom32Or),
  (0x0F7, deAtom .atom32Xor),
  (0x0F8, deAtom .atom32Exch),
  (0x0F9, deCas .atom32Cas),
  (0x0FA, deAtom .atom64Add),
  (0x0FB, deAtom .atom64Exch),
  (0x0FC, deCas .atom64Cas),
  (0x0FD, deAtom .atom64MaxN),
  (0x0FE, deAtomF .atomF32Add),
  (0x0FF, deAtomF .atomF64Add),
  (0x100, deAtomF .atomBf16x2Add),
  (0x101, deRed .red32),
  (0x102, deRedA .redF32Add),
  (0x103, deFence .fence),
  (0x104, deAH .pref),
  (0x105, deCctl .cctl),
  (0x106, deLdl .ldl32),
  (0x107, deLdl .ldl64),
  (0x108, deLdl .ldl128),
  (0x109, deStl .stl32),
  (0x10A, deStl .stl64),
  (0x10B, deStl .stl128),
  (0x10C, deCas .atomCas128),
  (0x10D, deLdnf .ldnf),
  (0x10E, deDA .addrq),
  (0x10F, deAH .zline)]

def opSystem : List (Nat × (Fields → Option Instr)) := [
  (0x110, deSreg .sreg),
  (0x111, deSset .sset),
  (0x112, deRng .rng),
  (0x113, deD .clock),
  (0x114, dePmcfg .pmcfg),
  (0x115, dePmrd .pmrd),
  (0x116, deDA .rply),
  (0x117, deDA .topen),
  (0x118, deTscore .tscore),
  (0x119, deP .tbar),
  (0x11A, deDAB .tstat),
  (0x11B, deAB .tkill),
  (0x11C, deSvc .svc),
  (0x11D, deDA .errq)]

noncomputable def opEngine : List (Nat × (Fields → Option Instr)) := [
  (0x120, deTbind .tbind),
  (0x121, deTfree .tfree),
  (0x122, deTat .tload),
  (0x123, deTat .tstore),
  (0x124, deTq .tstoreq),
  (0x125, deH .tfill),
  (0x126, deDH .tstate),
  (0x127, deAX .gathI32),
  (0x128, deAX .gathI64),
  (0x129, deAX .scatI32),
  (0x12A, deAX .scatI64),
  (0x12B, deScatc .scatcI32),
  (0x12C, deScatc .scatcI64),
  (0x12D, deAmem .greplay),
  (0x12E, deSlbind .slbind),
  (0x12F, deABCE .slpost),
  (0x130, deSlpass .slpass),
  (0x131, deSlread .slread),
  (0x132, deDAB .sltrunc),
  (0x133, deDA .sropen),
  (0x134, deABCE .srpost),
  (0x135, deAB .srend),
  (0x136, deCred .cred),
  (0x137, deColl .cgath),
  (0x138, deColl .cbcast),
  (0x139, deColl .cscat),
  (0x13A, deColl .csend),
  (0x13B, deColl .crecv),
  (0x13C, deMrecv .mrecv),
  (0x13D, deMpost .mpost)]

noncomputable def opStream : List (Nat × (Fields → Option Instr)) := [
  (0x180, deMldw .mldwBf16),
  (0x181, deMldw .mldwFp16),
  (0x182, deMldw .mldwE4m3),
  (0x183, deMldw .mldwE5m2),
  (0x184, deMldw .mldwE2m3),
  (0x185, deMldw .mldwE3m2),
  (0x186, deMldw .mldwE2m1),
  (0x187, deMldw .mldwI8),
  (0x188, deMldw .mldwT2),
  (0x189, deMldw .mldwF64),
  (0x18A, deMstrm .mstrmBf16),
  (0x18B, deMstrm .mstrmFp16),
  (0x18C, deMstrm .mstrmE4m3),
  (0x18D, deMstrm .mstrmE5m2),
  (0x18E, deMstrm .mstrmE2m3),
  (0x18F, deMstrm .mstrmE3m2),
  (0x190, deMstrm .mstrmE2m1),
  (0x191, deMstrm .mstrmI8),
  (0x192, deMstrmF .mstrmF64),
  (0x193, deM0 .mswap),
  (0x194, deMzero .mzero),
  (0x195, deMdrain .mdrain),
  (0x196, deMdrainL .mdrainl),
  (0x197, deMchain .mchain),
  (0x198, deMgrp .mgrp),
  (0x199, deAsave .asave),
  (0x19A, deAsave .aload),
  (0x19B, deMbar .mbara),
  (0x19C, deMbar .mbarw),
  (0x19D, deMloop .mloop),
  (0x19E, deM0 .mnext),
  (0x19F, deM0 .mend)]

/-- The opcodes of thread code; a block's stream takes those of `opStream` (R85). -/
noncomputable def opThread : List (Nat × (Fields → Option Instr)) :=
  opControl ++ opInteger ++ opFloat ++ opCross ++ opMemory ++ opSystem ++ opEngine

/-- The encoding of an instruction. A machine event is no instruction word: its row is the opcode field alone at 0x1FF,
which is unassigned, so no word decodes to one. -/
def encode : Instr → Fields
  | .nop p => enP 0x000 p
  | .bra p off => enOff 0x001 p off
  | .brx p a => enA 0x002 p a
  | .call p off => enOff 0x003 p off
  | .callx p a => enA 0x004 p a
  | .ret p => enP 0x005 p
  | .exit p => enP 0x006 p
  | .spawn p b off => enSpawn 0x007 p b off
  | .spawnq p d a off q => enSpawnQ 0x008 p d a off q
  | .waitc p cls n => enWaitC 0x009 p cls n
  | .barArr p d b c => enBarArr 0x00A p d b c
  | .barWait p a b => enBarWait 0x00B p a b
  | .barSync p b c => enBarSync 0x00C p b c
  | .yield p sc => enYield 0x00D p sc
  | .trap p code => enTrap 0x00E p code
  | .bkpt p => enP 0x00F p
  | .gsync p => enP 0x010 p
  | .sleep p n => enSleep 0x011 p n
  | .udf hi lo => enUdf hi lo
  | .brt p a b n h => enBrt 0x013 p a b n h
  | .iadd32 p d a b => enRRI 0x020 p d a b
  | .iadd64 p d a b => enRRI 0x021 p d a b
  | .isub32 p d a b => enRRI 0x022 p d a b
  | .isub64 p d a b => enRRI 0x023 p d a b
  | .iaddc p d a b pd ps nps => enAddc 0x024 p d a b pd ps nps
  | .imulLo p d a b => enRRI 0x025 p d a b
  | .imulhS p d a b => enRRI 0x026 p d a b
  | .imulhN p d a b => enRRI 0x027 p d a b
  | .imulwS p d a b => enRRI 0x028 p d a b
  | .imulwN p d a b => enRRI 0x029 p d a b
  | .imadLo p d a b c => enRRIR 0x02A p d a b c
  | .imadwS p d a b c => enRRIR 0x02B p d a b c
  | .imadwN p d a b c => enRRIR 0x02C p d a b c
  | .imad64 p d a b c => enRRIR 0x02D p d a b c
  | .idivS p d a b => enRRI 0x02E p d a b
  | .idivN p d a b => enRRI 0x02F p d a b
  | .iremS p d a b => enRRI 0x030 p d a b
  | .iremN p d a b => enRRI 0x031 p d a b
  | .iminS p d a b => enRRI 0x032 p d a b
  | .iminN p d a b => enRRI 0x033 p d a b
  | .imaxS p d a b => enRRI 0x034 p d a b
  | .imaxN p d a b => enRRI 0x035 p d a b
  | .iabs p d a => enRR 0x036 p d a
  | .ineg p d a => enRR 0x037 p d a
  | .andB p d a b => enRRI 0x038 p d a b
  | .orB p d a b => enRRI 0x039 p d a b
  | .xorB p d a b => enRRI 0x03A p d a b
  | .notB p d a => enRR 0x03B p d a
  | .lut3 p d a b c tbl => enLut 0x03C p d a b c tbl
  | .shl p d a b => enRRI 0x03D p d a b
  | .shr p d a b => enRRI 0x03E p d a b
  | .sar p d a b => enRRI 0x03F p d a b
  | .rot p d a b => enRRI 0x040 p d a b
  | .fshfL p d a b c => enRRRI 0x041 p d a b c
  | .fshfR p d a b c => enRRRI 0x042 p d a b c
  | .popc p d a => enRR 0x043 p d a
  | .clz p d a => enRR 0x044 p d a
  | .brev p d a => enRR 0x045 p d a
  | .bfeS p d a b => enRRI 0x046 p d a b
  | .bfeN p d a b => enRRI 0x047 p d a b
  | .bfi p d a b c => enRRIR 0x048 p d a b c
  | .icmpS32 p cmp pd a b => enIcmp 0x049 p cmp pd a b
  | .icmpN32 p cmp pd a b => enIcmp 0x04A p cmp pd a b
  | .icmpS64 p cmp pd a b => enIcmp 0x04B p cmp pd a b
  | .icmpN64 p cmp pd a b => enIcmp 0x04C p cmp pd a b
  | .ipick p d a b ps nps => enIpick 0x04D p d a b ps nps
  | .idp4S p d a b c => enRRRR 0x04E p d a b c
  | .idp4N p d a b c => enRRRR 0x04F p d a b c
  | .padd16 p d a b m => enPadd 0x050 p d a b m
  | .padd8 p d a b m => enPadd 0x051 p d a b m
  | .psub16 p d a b m => enPadd 0x052 p d a b m
  | .psub8 p d a b m => enPadd 0x053 p d a b m
  | .pmaxS16 p d a b => enRRI 0x054 p d a b
  | .pmaxN16 p d a b => enRRI 0x055 p d a b
  | .pminS16 p d a b => enRRI 0x056 p d a b
  | .pminN16 p d a b => enRRI 0x057 p d a b
  | .pcmp16 p d a b cmp uns => enPcmp 0x058 p d a b cmp uns
  | .pcmp8 p d a b cmp uns => enPcmp 0x059 p d a b cmp uns
  | .psel p d a b c => enRRRR 0x05A p d a b c
  | .pacs p d a b c e m pd => enPacs 0x05B p d a b c e m pd
  | .perm p d a b c => enRRRI 0x05C p d a b c
  | .mov p d a w64 => enMov 0x05D p d a w64
  | .movi p d w64 imm => enMovi 0x05E p d w64 imm
  | .lea p d a pcrel imm => enLea 0x05F p d a pcrel imm
  | .plog p pd pa na pb nb op => enPlog 0x060 p pd pa na pb nb op
  | .pget p d => enD 0x061 p d
  | .pput p a mask => enPput 0x062 p a mask
  | .shl64 p d a b => enRRI 0x063 p d a b
  | .shr64 p d a b => enRRI 0x064 p d a b
  | .sar64 p d a b => enRRI 0x065 p d a b
  | .faddF64 p d a b rm => enFRR 0x080 p d a b rm
  | .faddF32 p d a b rm ftz => enFRRz 0x081 p d a b rm ftz
  | .faddF16x2 p d a b rm ftz => enFRRz 0x082 p d a b rm ftz
  | .faddBf16x2 p d a b rm => enFRR 0x083 p d a b rm
  | .fsubF64 p d a b rm => enFRR 0x084 p d a b rm
  | .fsubF32 p d a b rm ftz => enFRRz 0x085 p d a b rm ftz
  | .fsubF16x2 p d a b rm ftz => enFRRz 0x086 p d a b rm ftz
  | .fsubBf16x2 p d a b rm => enFRR 0x087 p d a b rm
  | .fmulF64 p d a b rm => enFRR 0x088 p d a b rm
  | .fmulF32 p d a b rm ftz => enFRRz 0x089 p d a b rm ftz
  | .fmulF16x2 p d a b rm ftz => enFRRz 0x08A p d a b rm ftz
  | .fmulBf16x2 p d a b rm => enFRR 0x08B p d a b rm
  | .ffmaF64 p d a b c rm => enFRRR 0x08C p d a b c rm
  | .ffmaF32 p d a b c rm ftz => enFRRRz 0x08D p d a b c rm ftz
  | .ffmaF16x2 p d a b c rm ftz => enFRRRz 0x08E p d a b c rm ftz
  | .ffmaBf16x2 p d a b c rm => enFRRR 0x08F p d a b c rm
  | .fminF64 p d a b => enMM 0x090 p d a b
  | .fminF32 p d a b ftz => enMMz 0x091 p d a b ftz
  | .fminF16x2 p d a b ftz => enMMz 0x092 p d a b ftz
  | .fminBf16x2 p d a b => enMM 0x093 p d a b
  | .fmaxF64 p d a b => enMM 0x094 p d a b
  | .fmaxF32 p d a b ftz => enMMz 0x095 p d a b ftz
  | .fmaxF16x2 p d a b ftz => enMMz 0x096 p d a b ftz
  | .fmaxBf16x2 p d a b => enMM 0x097 p d a b
  | .fcmpF64 p cmp pd a b sig => enFC 0x098 p cmp pd a b sig
  | .fcmpF32 p cmp pd a b sig ftz => enFCz 0x099 p cmp pd a b sig ftz
  | .fcmpF16x2 p cmp pd a b sig ftz => enFCz 0x09A p cmp pd a b sig ftz
  | .fcmpBf16x2 p cmp pd a b sig => enFC 0x09B p cmp pd a b sig
  | .fdivF64 p d a b rm => enFRR 0x09C p d a b rm
  | .fdivF32 p d a b rm ftz => enFRRz 0x09D p d a b rm ftz
  | .fsqrtF64 p d a rm => enFU 0x09E p d a rm
  | .fsqrtF32 p d a rm ftz => enFUz 0x09F p d a rm ftz
  | .frcpF64 p d a rm => enFU 0x0A0 p d a rm
  | .frcpF32 p d a rm ftz => enFUz 0x0A1 p d a rm ftz
  | .frsqF64 p d a rm => enFU 0x0A2 p d a rm
  | .frsqF32 p d a rm ftz => enFUz 0x0A3 p d a rm ftz
  | .fexp2F32 p d a rm ftz => enFUz 0x0A4 p d a rm ftz
  | .flog2F32 p d a rm ftz => enFUz 0x0A5 p d a rm ftz
  | .fsinF32 p d a rm ftz => enFUz 0x0A6 p d a rm ftz
  | .fcosF32 p d a rm ftz => enFUz 0x0A7 p d a rm ftz
  | .ftanhF32 p d a rm ftz => enFUz 0x0A8 p d a rm ftz
  | .fexp2F64 p d a rm => enFU 0x0A9 p d a rm
  | .flog2F64 p d a rm => enFU 0x0AA p d a rm
  | .fsinF64 p d a rm => enFU 0x0AB p d a rm
  | .fcosF64 p d a rm => enFU 0x0AC p d a rm
  | .fscaleF64 p d a b rm => enFRR 0x0AD p d a b rm
  | .fscaleF32 p d a b rm ftz => enFRRz 0x0AE p d a b rm ftz
  | .frndF64 p d a rm => enFU 0x0AF p d a rm
  | .frndF32 p d a rm ftz => enFUz 0x0B0 p d a rm ftz
  | .fclassF64 p d a => enRR 0x0B1 p d a
  | .fclassF32 p d a => enRR 0x0B2 p d a
  | .fcvtF64F32 p d a rm => enFU 0x0B3 p d a rm
  | .fcvtF32F64 p d a rm => enFU 0x0B4 p d a rm
  | .fcvtF16x2F32 p d a b rm ftz => enFRRz 0x0B5 p d a b rm ftz
  | .fcvtBf16x2F32 p d a b rm => enFRR 0x0B6 p d a b rm
  | .fcvtF32F16x2 p d a rm ftz => enFUz 0x0B7 p d a rm ftz
  | .fcvtF32Bf16x2 p d a rm => enFU 0x0B8 p d a rm
  | .fcvtF32S32 p d a rm ftz => enFUz 0x0B9 p d a rm ftz
  | .fcvtF32N32 p d a rm ftz => enFUz 0x0BA p d a rm ftz
  | .fcvtF64S64 p d a rm => enFU 0x0BB p d a rm
  | .fcvtF64S32 p d a rm => enFU 0x0BC p d a rm
  | .fcvtS32F32 p d a rm ftz => enFUz 0x0BD p d a rm ftz
  | .fcvtN32F32 p d a rm ftz => enFUz 0x0BE p d a rm ftz
  | .fcvtS64F64 p d a rm => enFU 0x0BF p d a rm
  | .fcvtS32F64 p d a rm => enFU 0x0C0 p d a rm
  | .mxdqE4m3 p d a b j s rm ftz => enMxdq 0x0C1 p d a b j s rm ftz
  | .mxdqE5m2 p d a b j s rm ftz => enMxdq 0x0C2 p d a b j s rm ftz
  | .mxdqE2m3 p d a b j s rm ftz => enMxdq 0x0C3 p d a b j s rm ftz
  | .mxdqE3m2 p d a b j s rm ftz => enMxdq 0x0C4 p d a b j s rm ftz
  | .mxdqE2m1 p d a b j s rm ftz => enMxdq 0x0C5 p d a b j s rm ftz
  | .mxqE4m3 p d a cw => enMxq 0x0C6 p d a cw
  | .mxqE2m1 p d a cw => enMxq 0x0C7 p d a cw
  | .shflIdx p d a b lg cw pd => enShfl 0x0D0 p d a b lg cw pd
  | .shflUp p d a b lg cw pd => enShfl 0x0D1 p d a b lg cw pd
  | .shflDown p d a b lg cw pd => enShfl 0x0D2 p d a b lg cw pd
  | .shflXor p d a b lg cw pd => enShfl 0x0D3 p d a b lg cw pd
  | .vote p m d pd pa na cw => enVote 0x0D4 p m d pd pa na cw
  | .reduxI p d a op cw => enRedI 0x0D5 p d a op cw
  | .reduxF32 p d a op rm ftz cw => enRedF 0x0D6 p d a op rm ftz cw
  | .scanI p d a op exc cw => enScanI 0x0D7 p d a op exc cw
  | .scanF32 p d a op exc rm ftz cw => enScanF 0x0D8 p d a op exc rm ftz cw
  | .matchAny p d a w64 cw pd => enMatch 0x0D9 p d a w64 cw pd
  | .ldS8 p d a off h => enLd 0x0E0 p d a off h
  | .ldN8 p d a off h => enLd 0x0E1 p d a off h
  | .ldS16 p d a off h => enLd 0x0E2 p d a off h
  | .ldN16 p d a off h => enLd 0x0E3 p d a off h
  | .ld32 p d a off h => enLd 0x0E4 p d a off h
  | .ld64 p d a off h => enLd 0x0E5 p d a off h
  | .ld128 p d a off h => enLd 0x0E6 p d a off h
  | .st8 p a off b h => enSt 0x0E7 p a off b h
  | .st16 p a off b h => enSt 0x0E8 p a off b h
  | .st32 p a off b h => enSt 0x0E9 p a off b h
  | .st64 p a off b h => enSt 0x0EA p a off b h
  | .st128 p a off b h => enSt 0x0EB p a off b h
  | .lda32 p d a off sem sc => enLda 0x0EC p d a off sem sc
  | .lda64 p d a off sem sc => enLda 0x0ED p d a off sem sc
  | .str32 p a off b sem sc => enStr 0x0EE p a off b sem sc
  | .str64 p a off b sem sc => enStr 0x0EF p a off b sem sc
  | .atom32Add p d a off b sem sc => enAtom 0x0F0 p d a off b sem sc
  | .atom32MinS p d a off b sem sc => enAtom 0x0F1 p d a off b sem sc
  | .atom32MinN p d a off b sem sc => enAtom 0x0F2 p d a off b sem sc
  | .atom32MaxS p d a off b sem sc => enAtom 0x0F3 p d a off b sem sc
  | .atom32MaxN p d a off b sem sc => enAtom 0x0F4 p d a off b sem sc
  | .atom32And p d a off b sem sc => enAtom 0x0F5 p d a off b sem sc
  | .atom32Or p d a off b sem sc => enAtom 0x0F6 p d a off b sem sc
  | .atom32Xor p d a off b sem sc => enAtom 0x0F7 p d a off b sem sc
  | .atom32Exch p d a off b sem sc => enAtom 0x0F8 p d a off b sem sc
  | .atom32Cas p d a off b c sem sc => enCas 0x0F9 p d a off b c sem sc
  | .atom64Add p d a off b sem sc => enAtom 0x0FA p d a off b sem sc
  | .atom64Exch p d a off b sem sc => enAtom 0x0FB p d a off b sem sc
  | .atom64Cas p d a off b c sem sc => enCas 0x0FC p d a off b c sem sc
  | .atom64MaxN p d a off b sem sc => enAtom 0x0FD p d a off b sem sc
  | .atomF32Add p d a off b rm sem sc => enAtomF 0x0FE p d a off b rm sem sc
  | .atomF64Add p d a off b rm sem sc => enAtomF 0x0FF p d a off b rm sem sc
  | .atomBf16x2Add p d a off b rm sem sc => enAtomF 0x100 p d a off b rm sem sc
  | .red32 p a off b op sem sc => enRed 0x101 p a off b op sem sc
  | .redF32Add p a off b rm sem sc => enRedA 0x102 p a off b rm sem sc
  | .fence p sem sc => enFence 0x103 p sem sc
  | .pref p a off h => enAH 0x104 p a off h
  | .cctl p op lvl2 a off => enCctl 0x105 p op lvl2 a off
  | .ldl32 p d idx a off h => enLdl 0x106 p d idx a off h
  | .ldl64 p d idx a off h => enLdl 0x107 p d idx a off h
  | .ldl128 p d idx a off h => enLdl 0x108 p d idx a off h
  | .stl32 p idx a off b h => enStl 0x109 p idx a off b h
  | .stl64 p idx a off b h => enStl 0x10A p idx a off b h
  | .stl128 p idx a off b h => enStl 0x10B p idx a off b h
  | .atomCas128 p d a off b c sem sc => enCas 0x10C p d a off b c sem sc
  | .ldnf p d w a off pd h => enLdnf 0x10D p d w a off pd h
  | .addrq p d a off => enDA 0x10E p d a off
  | .zline p a off h => enAH 0x10F p a off h
  | .sreg p d w64 idx => enSreg 0x110 p d w64 idx
  | .sset p idx a => enSset 0x111 p idx a
  | .rng p d w u01 => enRng 0x112 p d w u01
  | .clock p d => enD 0x113 p d
  | .pmcfg p c a => enPmcfg 0x114 p c a
  | .pmrd p d c => enPmrd 0x115 p d c
  | .rply p d a off => enDA 0x116 p d a off
  | .topen p d a off => enDA 0x117 p d a off
  | .tscore p add a => enTscore 0x118 p add a
  | .tbar p => enP 0x119 p
  | .tstat p d a off b => enDAB 0x11A p d a off b
  | .tkill p a off b => enAB 0x11B p a off b
  | .svc p a n => enSvc 0x11C p a n
  | .errq p d a off => enDA 0x11D p d a off
  | .tbind p d h a off x => enTbind 0x120 p d h a off x
  | .tfree p h unbind => enTfree 0x121 p h unbind
  | .tload p h at_ b c => enTat 0x122 p h at_ b c
  | .tstore p h at_ b c => enTat 0x123 p h at_ b c
  | .tstoreq p h at_ b c fmt => enTq 0x124 p h at_ b c fmt
  | .tfill p h => enH 0x125 p h
  | .tstate p d h => enDH 0x126 p d h
  | .gathI32 p a off x => enAX 0x127 p a off x
  | .gathI64 p a off x => enAX 0x128 p a off x
  | .scatI32 p a off x => enAX 0x129 p a off x
  | .scatI64 p a off x => enAX 0x12A p a off x
  | .scatcI32 p a off op x => enScatc 0x12B p a off op x
  | .scatcI64 p a off op x => enScatc 0x12C p a off op x
  | .greplay p a off => enAmem 0x12D p a off
  | .slbind p d a off free => enSlbind 0x12E p d a off free
  | .slpost p a off b c e => enABCE 0x12F p a off b c e
  | .slpass p a off x b => enSlpass 0x130 p a off x b
  | .slread p d a off sel b => enSlread 0x131 p d a off sel b
  | .sltrunc p d a off b => enDAB 0x132 p d a off b
  | .sropen p d a off => enDA 0x133 p d a off
  | .srpost p a off b c e => enABCE 0x134 p a off b c e
  | .srend p a off b => enAB 0x135 p a off b
  | .cred p a off op ty sy x => enCred 0x136 p a off op ty sy x
  | .cgath p a off sy x => enColl 0x137 p a off sy x
  | .cbcast p a off sy x => enColl 0x138 p a off sy x
  | .cscat p a off sy x => enColl 0x139 p a off sy x
  | .csend p a off sy x => enColl 0x13A p a off sy x
  | .crecv p a off sy x => enColl 0x13B p a off sy x
  | .mrecv p d cw pd => enMrecv 0x13C p d cw pd
  | .mpost p a n => enMpost 0x13D p a n
  | .mldwBf16 a c e r j rel => enMldw 0x180 a c e r j rel
  | .mldwFp16 a c e r j rel => enMldw 0x181 a c e r j rel
  | .mldwE4m3 a c e r j rel => enMldw 0x182 a c e r j rel
  | .mldwE5m2 a c e r j rel => enMldw 0x183 a c e r j rel
  | .mldwE2m3 a c e r j rel => enMldw 0x184 a c e r j rel
  | .mldwE3m2 a c e r j rel => enMldw 0x185 a c e r j rel
  | .mldwE2m1 a c e r j rel => enMldw 0x186 a c e r j rel
  | .mldwI8 a c e r j rel => enMldw 0x187 a c e r j rel
  | .mldwT2 a c e r j rel => enMldw 0x188 a c e r j rel
  | .mldwF64 a c e r j rel => enMldw 0x189 a c e r j rel
  | .mstrmBf16 d a c e r j rel m0 => enMstrm 0x18A d a c e r j rel m0
  | .mstrmFp16 d a c e r j rel m0 => enMstrm 0x18B d a c e r j rel m0
  | .mstrmE4m3 d a c e r j rel m0 => enMstrm 0x18C d a c e r j rel m0
  | .mstrmE5m2 d a c e r j rel m0 => enMstrm 0x18D d a c e r j rel m0
  | .mstrmE2m3 d a c e r j rel m0 => enMstrm 0x18E d a c e r j rel m0
  | .mstrmE3m2 d a c e r j rel m0 => enMstrm 0x18F d a c e r j rel m0
  | .mstrmE2m1 d a c e r j rel m0 => enMstrm 0x190 d a c e r j rel m0
  | .mstrmI8 d a c e r j rel m0 => enMstrm 0x191 d a c e r j rel m0
  | .mstrmF64 d a c e r j rel m0 rm => enMstrmF 0x192 d a c e r j rel m0 rm
  | .mswap => enM0 0x193
  | .mzero d m0 rows => enMzero 0x194 d m0 rows
  | .mdrain d a st z kind m0 r j => enMdrain 0x195 d a st z kind m0 r j
  | .mdrainl d g st z kind m0 rows beats => enMdrainL 0x196 d g st z kind m0 rows beats
  | .mchain a b fmt bias table => enMchain 0x197 a b fmt bias table
  | .mgrp d a b c st g s => enMgrp 0x198 d a b c st g s
  | .asave d j lc q off => enAsave 0x199 d j lc q off
  | .aload d j lc q off => enAsave 0x19A d j lc q off
  | .mbara b c => enMbar 0x19B b c
  | .mbarw b c => enMbar 0x19C b c
  | .mloop q n => enMloop 0x19D q n
  | .mnext => enM0 0x19E
  | .mend => enM0 0x19F
  | _ => { op := 0x1FF }

/-- Why a word is no instruction (R9, R84, R85). -/
inductive DecodeError where
  | unassigned (op : Nat)       -- Table 3-3, in the stream that met it
  | wrongStream (op : Nat)      -- a code of the other stream
  | illegalValue                -- a field value the entry lists as illegal
  | nonzeroUnused               -- a field that must be zero
deriving DecidableEq, Repr

def decodeWith (table : List (Nat × (Fields → Option Instr))) (f : Fields) : Except DecodeError Instr :=
  match table.lookup f.op.toNat with
  | none => .error (.unassigned f.op.toNat)
  | some rd =>
    match rd f with
    | none => .error .illegalValue
    | some i => if !i.wf then .error .illegalValue else if encode i = f then .ok i else .error .nonzeroUnused

/-- A word of thread code (R85). -/
noncomputable def decodeThread (w : BitVec 128) : Except DecodeError Instr :=
  let f := Fields.unpack w
  if (opStream.lookup f.op.toNat).isSome then .error (.wrongStream f.op.toNat) else decodeWith opThread f

/-- A word of a matrix stream (R85, R237). -/
noncomputable def decodeStream (w : BitVec 128) : Except DecodeError Instr :=
  let f := Fields.unpack w
  if (opThread.lookup f.op.toNat).isSome then .error (.wrongStream f.op.toNat) else decodeWith opStream f

def toOption {ε α : Type} : Except ε α → Option α
  | .ok a => some a
  | .error _ => none

/-- The bytes of a number in memory order (R5), `n` of them. -/
def bytesOf (n v : Nat) : List Byte := (List.range n).map fun i => BitVec.ofNat 8 (v >>> (8 * i))

/-- The number that bytes in memory order stand for. -/
def ofBytes : List Byte → Nat
  | [] => 0
  | b :: bs => b.toNat + 256 * ofBytes bs

/-- The decoder on an instruction's bytes: sixteen, of either stream. -/
noncomputable def decodeBytes (bs : List Byte) : Option Instr :=
  if bs.length = 16 then
    let w := BitVec.ofNat 128 (ofBytes bs)
    match decodeThread w with
    | .ok i => some i
    | .error _ => toOption (decodeStream w)
  else none

/-- The instruction the decoder reads from a table row's word (bit 0 the least significant bit of dword0; the bits above
`nbits` zero). -/
noncomputable def decodeTableWord (nbits w : Nat) : Option Instr := decodeBytes (bytesOf 16 (w % 2 ^ nbits))

/-! ### The header word (Table 2-1) -/

structure Header where
  marker : BitVec 4
  length : Nat
  live : Nat
  reconv : Int
  pref : Int
  region : Bool
  merge : Bool
  wait : BitVec 2
  low : BitVec 4
deriving DecidableEq, Repr

def Header.of (w : DWord) : Header where
  marker := w.extractLsb' 60 4
  length := (w.extractLsb' 52 8).toNat
  live := (w.extractLsb' 44 8).toNat
  reconv := (w.extractLsb' 20 24).toInt
  pref := (w.extractLsb' 8 12).toInt
  region := w.getLsbD 7
  merge := w.getLsbD 6
  wait := w.extractLsb' 4 2
  low := w.extractLsb' 0 4

def Header.waitClocks (h : Header) : Nat :=
  match h.wait.toNat with
  | 0 => 0 | 1 => 64 | 2 => 256 | _ => 1024

/-- The checks of R53: none, or the trap's code. A word without the marker is no header, and its other fields are not judged:
by R67's lowest number a bad field beside it would give 0x01, where Table 2-6 gives 0x03 (DESIGN CHOICE, log 90). -/
def Header.check (h : Header) (budget : Nat) : Option Nat :=
  if h.marker ≠ 0b1011 then some 0x03
  else if h.length = 0 || h.low ≠ 0 || (h.merge && h.wait == 0) || (!h.merge && h.wait != 0) then some 0x01
  else if h.live > budget then some 0x02
  else none

/-- The checks of a stream header: the marker (cause 0x03), then R237's fields (cause 0x01). -/
def Header.streamCheck (h : Header) : Option Nat :=
  if h.marker ≠ 0b1011 then some 0x03
  else if h.length = 0 || h.low ≠ 0 || h.live ≠ 0 || h.reconv ≠ 0 || h.region || h.merge || h.wait ≠ 0 then some 0x01
  else none

end Sys2Proof
end

