-- ==== Sys2Proof/Machine/State.lean ====
section
/-! DEFINITION. The state of the CX960M (01, 02, 07, 08, 09, 11, 14, 19, 21): plain data only. Objects that come and go
(threads, blocks, launches, operations of engines) stand in lists and are named by a number of the model's own, drawn
from `nextId`. A large store stands as a sparse table: pairs of a key and a nonzero value, keys rising. -/

namespace Sys2Proof.Machine

/-- A table of `w`-bit values by number; a key that is not listed holds zero. -/
abbrev Sparse (w : Nat) := List (Nat × BitVec w)

/-- Why the machine stops. -/
inductive Fault where
  /-- An access of a thread, an engine or a walk to a physical address outside the installed memory of Table 0-1: the
  spec says no such address exists. Safe: a run that goes on made no such access (log 2). -/
  | noSuchAddress (addr : Nat)
deriving DecidableEq, Repr

/-- Why an instruction has no meaning here. -/
inductive Refusal where
  /-- Raised by an arm of `exec` that has no meaning yet. Safe: the run stops. -/
  | notModelled (mnemonic : String)
deriving DecidableEq, Repr

/-! ### Threads (01) -/

/-- A save (Table 1-5), with the replay unit's copy of the path hash (R323). -/
structure Pallet where
  pc : DWord := 0
  rngc : DWord := 0
  stack : DWord := 0
  link : DWord := 0
  preds : BitVec 7 := 0
  fflags : BitVec 6 := 0
  part : Bool := false
  live : Nat := 0
  regs : Sparse 32 := []
  hash : DWord := 0
deriving DecidableEq, Repr

/-- When a result in flight lands (R63, R64): a fixed-latency write at its clock; a variable-latency result at any time;
a load's once its `left` accesses still to be performed have given it (12 R283); an engine's answer after the engine
gives it. -/
inductive Due where
  | fixed (clk : Nat)
  | any
  | loading (left : Nat)
  | unanswered
deriving DecidableEq, Repr

/-- A result in flight. `long` marks the long waits of R316; `ckpt` a value the region checkpoint still needs (R121);
`load` a mark set by a load (Table 7-6, event 0x0E). -/
structure Pend where
  id : Nat
  due : Due
  regs : List (Nat × Word) := []
  preds : List (Nat × Bool) := []
  long : Bool := false
  ckpt : Bool := false
  load : Bool := false
  all : Bool := false              -- BRT's: the thread issues nothing before it lands
  op : Option Nat := none          -- counted operation that completes when it lands (R196)
deriving DecidableEq, Repr

/-- An outstanding counted engine operation of a thread, in issue order (R30). -/
structure EngOp where
  id : Nat
  cls : EngClass
  done : Bool := false
deriving DecidableEq, Repr

/-- A fault of a thread's own access: its page, the word it is charged to, and the address (07 R171). -/
structure OwnFault where
  page : Nat
  pc : DWord
  va : DWord
deriving DecidableEq, Repr

/-- Where a thread's live state is (Table 1-1): in a slot, in its pallet, exited, or stopped with its launch (R129). -/
inductive Life where
  | inSlot | parked | exited | stopped
deriving DecidableEq, Repr

/-- What a thread in a slot waits for (R315). -/
inductive Wait where
  | none
  | bar (b : Nat) (phase : Bool)            -- BAR.WAIT
  | barSync (b : Nat) (phase : Bool)        -- BAR.SYNC: enters the following header when released (R125)
  | counter (cls : EngClass) (n : Nat)      -- WAITC
  | xlane (inst : Nat)                      -- a cross-lane instance
  | sleep (clk : Nat)                       -- SLEEP
deriving DecidableEq, Repr

/-- An entrant's thread at a header that waits for the scope unit's charge of this clock (19 R350); `park` is the split that
parks it there. -/
structure Gate where
  hdr : DWord
  word : DWord
  park : Option Nat := none
deriving DecidableEq, Repr

structure Thread where
  uid : Nat
  lid : Nat
  bid : Nat
  tid : Nat                        -- sr.tid
  gang : Nat                       -- sr.gang
  lane : Nat                       -- sr.lane
  hdr : DWord := 0                 -- address of the header of the current block
  hword : DWord := 0               -- that header
  idx : Nat := 0                   -- index of the next instruction word
  regs : Sparse 32 := []           -- v0 … v223
  preds : BitVec 7 := 0            -- p0 … p6
  stack : DWord := 0
  link : DWord := 0
  rngc : DWord := 0
  fflags : BitVec 6 := 0
  part : Bool := false             -- sr.partial
  trap : BitVec 8 := 0
  trappc : DWord := 0
  trapva : DWord := 0
  ops : List EngOp := []           -- sr.ecnt is the count by class
  acq : List EngClass := []        -- classes with operations completed and not yet acquired (R124)
  pallet : Pallet := {}
  palletAt : Option Nat := none    -- key of its pallet slot, in a vault or in the reserve (R29, R32)
  image : List Byte := []          -- what the slot holds (R33): header and registers
  pend : List Pend := []
  seen : Nat := 0                  -- newest fill of a cache whose data it has read (12 R287)
  relScope : Option Scope := none  -- the widest scope of the thread's release fences (12 R288)
  readyAt : Nat := 0               -- R62
  lastIssue : Nat := 0             -- R46
  raised : Bool := false
  lastClock : Nat := 0             -- latest value read by CLOCK (R189)
  hash : DWord := 0                -- path hash (R323)
  life : Life := .parked
  wait : Wait := .none
  entering : Bool := true          -- parked and still to enter its header: at start and after a discard
  heldPages : List Nat := []       -- pages whose answers the thread waits for (R276)
  ownFaults : List OwnFault := []  -- those its own access faulted on
  gate : Option Gate := none
  mergeHeld : Bool := false        -- in an open merge hold of its header
  roundHeld : Bool := false        -- parked until its tournament's next round (R351)
  parkedAt : Nat := 0              -- when it was parked
  split : Option Nat := none       -- the split that parked it (R318)
  spawned : Bool := false          -- a SPAWN child that has not yet entered its entry header (R118)
deriving DecidableEq, Repr

/-! ### Slots (14 R315–R319) -/

/-- A place of a core's active or pending set. -/
structure Slot where
  id : Nat
  core : Nat
  uids : List Nat
  active : Bool
  stamp : Nat                      -- clock of the last issue, or of entry into the active set
  issued : Bool := false           -- has issued since it was formed (R315)
  busy : Nat := 0                  -- a swap occupies it until this clock
  leave : Bool := false            -- a YIELD swaps it out whether or not another slot is ready
  offer : Bool := false            -- its issued word carried the yield bit in this clock (R62)
deriving DecidableEq, Repr

/-! ### Memory accesses in progress (12 R283) -/

/-- Where a thread's access goes once it is known to be allowed. -/
inductive Place where
  | vault (key : Nat)
  | cachedAt (va : DWord)                 -- wholly in L1 and L2, under the canonical address
  | global (va : DWord) (key : Nat)       -- translated
deriving DecidableEq, Repr

/-- How a load makes registers of its bytes (Table 7-2). -/
inductive LoadForm where
  | words
  | bits (n : Nat) (signed : Bool)
deriving DecidableEq, Repr

/-- The operations of Table 7-3. -/
inductive AtomOp where
  | int (op : RedOp)
  | exch
  | cas
  | addF (rm : Rm)
  | addHalves (rm : Rm)
deriving DecidableEq, Repr

/-- What an access does when it is performed: a load of `n` bytes gives registers from `d` on to the result in flight
`pend`; a store's bytes go to its place, after a release when it is one; an atomic on `n` bytes with operands `b` and `c`
gives the old value to `pend`. -/
inductive AccessAct where
  | load (n : Nat) (form : LoadForm) (d : Nat) (pend : Nat)
  | store (bytes : List Byte) (rel : Option Scope)
  | rmw (op : AtomOp) (n : Nat) (b c : BitVec 128) (rel : Option Scope) (d : Option Nat) (pend : Nat)
deriving DecidableEq, Repr

/-- An access of a thread that has issued and is still to be performed. Each is one single-copy atomic piece (07 R173).
`first` when it is the first of its issue to request its line (15 R325); `tail` when it is a further piece of one access,
named next after the piece before it. -/
structure Access where
  id : Nat
  uid : Nat
  bid : Nat
  core : Nat
  lid : Nat
  vf : Nat
  place : Place
  hint : Hint
  first : Bool
  tail : Bool
  act : AccessAct
deriving DecidableEq, Repr

/-! ### Blocks -/

/-- A numbered barrier (R40). `expected` 0 is ALL; `seq` counts arrivals of the block's sequencer. -/
structure Barrier where
  expected : Nat := 0
  arrived : List Nat := []
  seq : Nat := 0
  phase : Bool := false
deriving DecidableEq, Repr

/-- A divergent split with its reconvergence header (R318). -/
structure Split where
  id : Nat
  reconv : DWord
  keepers : List Nat               -- the threads that kept the slot
  reached : Bool := false
deriving DecidableEq, Repr

/-- An open merge hold (R320). -/
structure Hold where
  hdr : DWord
  opened : Nat
  wait : Nat
deriving DecidableEq, Repr

/-- An open SPAWN pack (R119): children in arrival order; `ready` once it has closed as a gang. -/
structure Pack where
  entry : DWord
  opened : Nat
  uids : List Nat
deriving DecidableEq, Repr

/-- A child of a SPAWN that the block cannot hold yet (R117), and the active lanes of that SPAWN, which wait for it. -/
structure SpawnReq where
  uid : Nat
  lanes : List Nat
  entry : DWord
  args : List Word
  pc : DWord
deriving DecidableEq, Repr

/-- A gang made by a closed pack, ready 16 clocks later. -/
structure NewGang where
  gang : Nat
  readyAt : Nat
deriving DecidableEq, Repr

/-- What a cross-lane instance computes (06). -/
inductive XKind where
  | shfl (mode : Nat) (n : Nat)
  | vote (m : VoteMode)
  | reduxI (op : RedOp)
  | reduxF (op : FRedOp) (rm : Rm) (ftz : Bool)
  | scanI (op : RedOp) (exc : Bool)
  | scanF (op : FRedOp) (exc : Bool) (rm : Rm) (ftz : Bool)
  | matchAny
  | mxq (e2m1 : Bool)
  | mrecv (gang : Nat)
  | gsync
deriving DecidableEq, Repr

/-- A member's arrival (R159): its operands if active. -/
structure Arrival where
  uid : Nat
  lane : Nat
  active : Bool
  a : DWord := 0
  b : Word := 0
  pa : Bool := false
  pend : Nat := 0                  -- MRECV's result in flight
deriving DecidableEq, Repr

/-- An open cross-lane instance of a gang at an instruction word. -/
structure XInst where
  id : Nat
  gang : Nat
  pc : DWord
  kind : XKind
  d : Nat                          -- destination register
  pd : Nat                         -- destination predicate
  bound : Nat
  opened : Option Nat := none      -- clock of the first active arrival
  expired : Bool := false          -- an MRECV past its bound, waiting for a beat (R232)
  arrivals : List Arrival := []
deriving DecidableEq, Repr

/-! ### Engine objects (08, 09) -/

/-- A shape record as a handle holds it (Table 8-4), with the basic values put in. -/
structure Shape where
  sfill : Byte
  fill : Word
  spitch : Nat
  sbase : DWord
  voff : Nat
  fmt : Nat
  cols : Nat
  rows : Nat
  col0 : Int
  row0 : Int
  tcols : Nat
  trows : Nat
  pitch : Nat
  base : DWord
deriving DecidableEq, Repr

/-- Table 1-6. -/
inductive TileState where
  | empty | filling | ready | draining
deriving DecidableEq, Repr

/-- A tile handle: its state, the record it is bound to, the origin that record held at TBIND, the bytes of its last
fill, and the store that waits for it (R204, R205). -/
structure Handle where
  st : TileState := .empty
  shape : Option Shape := none
  rowBind : Int := 0
  colBind : Int := 0
  bytes : Nat := 0
  heldStores : Nat := 0
deriving DecidableEq, Repr

/-- A gather-family command (Tables 8-7, 8-8). `kind` 1 gather, 2 scatter, 3 scatter-combine. `only` are the elements to
perform. `ended` are elements that a termination ended, with code and address; their destinations are kept (R301). -/
structure Gather where
  kind : Nat
  op : Nat
  iw : Nat
  count : Nat
  esize : Nat
  pitch : Nat
  dst : DWord
  idx : DWord
  table : DWord
  fill : Word
  demand : Bool
  frec : DWord
  desc : DWord
  cap : Nat
  posted : Nat
  only : List Nat
  parked : List (Nat × Nat × DWord) := []    -- element, page, failing address
  denied : List (Nat × DWord) := []          -- element and failing address: answered deliver-trap
  ended : List (Nat × BitVec 8 × DWord) := []
deriving DecidableEq, Repr

/-- The thresholds of a pass: θf, θt, θr, kmax, kmin. -/
structure Rule where
  thf : Nat
  tht : Nat
  thr : Nat
  kmax : Nat
  kmin : Nat
deriving DecidableEq, Repr

/-- Arrays of a slot field whose words the engine keeps for itself, and the tail of its free-list ring (16 R330). -/
inductive SlotArr where
  | st | conf | tok | valid | tail
deriving DecidableEq, Repr

/-- A piece of an SLPASS or SLTRUNC in progress, made whole or not at all. -/
inductive SlotJob where
  | sift                                     -- late candidates leave, and the rule decides what follows
  | slot (i st tok conf : Nat)               -- a slot is rewritten
  | final (i tok conf : Nat)
  | release                                  -- the cursor loop looks at the slot at the cursor
  | moved                                    -- its entry is published
  | ending                                   -- the sub-stream ends
  | passed
  | clear (i : Nat)
  | freePage (j : Nat)
  | note (v : Nat)                           -- a log entry
deriving DecidableEq, Repr

/-- A bound slot field (Table 8-9), named by function and record address. `busy` is the pass, truncation or unbinding in
progress, with the candidates it took and what it has still to do; `own` the engine's own words of each array, from the
bind on (a word whose page was absent then is none until the engine reads it). -/
structure Field where
  vf : Nat
  addr : DWord
  n : Nat
  logcap : Nat
  freelist : DWord
  valid : DWord
  kvpt : DWord
  ring : DWord
  log : DWord
  conf : DWord
  tok : DWord
  stArr : DWord
  bad : Nat
  late : Nat
  nfinal : Nat
  status : Word
  logn : Nat
  passes : Nat
  cursor : Nat
  cands : List (Nat × Nat × Nat) := []       -- pending: slot, token, confidence
  busy : Option Nat := none
  taken : List (Nat × Nat × Nat) := []
  todo : List SlotJob := []
  own : List (SlotArr × List (Option Word)) := []
  freed : Bool := false                      -- SLBIND.free is issued and waits for earlier commands
  endOut : Bool := false                     -- the end entry of the engine's sub-stream has gone out (16 R338)
deriving DecidableEq, Repr

/-- A slot command. -/
inductive SlotCmd where
  | post (slot tok conf : Word)
  | pass (k : Rule)
  | read (sel : SlSel) (slot : Word)
  | trunc (p : Word)
  | bind (f : Field) (d : Nat)               -- SLBIND, answered in register d
  | unbind (d : Nat)                         -- SLBIND.free
deriving DecidableEq, Repr

/-- Which communicator a collective names (R228). -/
inductive Comm where
  | launch (lid : Nat)
  | explicit (vf id : Nat)
deriving DecidableEq, Repr

/-- One member's collective command (Table 8-14). `kind` 0 CRED, 1 CGATH, 2 CBCAST, 3 CSCAT, 4 CSEND, 5 CRECV; `seq` its
number among the rank's commands on the communicator. -/
structure Coll where
  kind : Nat
  comm : Comm
  rank : Nat
  nranks : Nat
  count : Nat
  root : Nat
  tag : Nat
  src : DWord
  dst : DWord
  desc : DWord
  op : CredOp
  ty : CredTy
  sy : Bool
  det : Bool
  seq : Nat
deriving DecidableEq, Repr

/-- What an engine operation does. -/
inductive Work where
  | fill (h : Nat) (shape : Shape) (load : Bool)
  | store (h : Nat) (shape : Shape) (fmt : Option MxFmt) (started : Bool)
  | gather (g : Gather)
  | slot (field : DWord) (cmd : SlotCmd)
  | ring (ring : DWord)                      -- SRPOST, SREND
  | ropen (ring : DWord) (d : Nat)           -- SROPEN, answered in register d
  | coll (c : Coll)
  | mpost
  | mrecv
  | replay (rid : Nat)
  | topen (a : DWord) (d : Nat)              -- a TOPEN whose record is still to be read, answered in register d
  | scope (sid : Nat)
deriving DecidableEq, Repr

/-- An engine operation in progress, on whose behalf it runs (`uid` is none for a matrix sequencer's automatic fill), and
the pages whose answers it waits for (R198). -/
structure EOp where
  id : Nat
  vf : Nat
  lid : Nat
  bid : Nat
  uid : Option Nat
  core : Nat
  pc : DWord
  pend : Nat := 0                  -- its result in flight
  work : Work
  held : List Nat := []
  heldVa : DWord := 0              -- the failing address of that wait
  denied : List Nat := []          -- pages not answered mapped (a slot command's later accesses fail there)
  quiet : Bool := false            -- the service terminated its launch: its failure traps no thread (R276)
  past : List (List Host.Cell) := [] -- memory as its earlier looks found it (R197)
deriving DecidableEq, Repr

/-- An entry on its way to a stream ring (R226, R227): data, or the end of a sub-stream. -/
structure Post where
  id : Nat
  op : Nat                         -- operation that waits for its publication
  ring : DWord
  producer : Nat
  slot : Word
  tok : Word
  fin : Bool                       -- an end entry
  closing : Bool := false          -- the end is published and the close entry still to be (R227)
  full : Option Nat := none        -- clock of the last read of head that found the ring full
  shut : List DWord := []          -- records that are to be told of the ring's close (R344)
deriving DecidableEq, Repr

/-- A record of MPOST, with its operation. -/
structure Param where
  op : Nat
  data : List Word
deriving DecidableEq, Repr

/-- A drained beat: a value for each gang lane, row and beat index. -/
structure Beat where
  data : List Word
  row : Nat
  beat : Nat
deriving DecidableEq, Repr

/-- A loop level of a stream (R253), with the permit of its iteration. -/
structure Loop where
  lc : Nat
  count : Nat
  body : DWord
  permit : Nat
deriving DecidableEq, Repr

/-- An iteration permit in use (R235). -/
structure Permit where
  id : Nat
  closed : Bool := false           -- the front end has left the iteration
deriving DecidableEq, Repr

/-- A queued operation of a stream: the word, its address, the loop counters and permits when it was enqueued, and its
parameter record. -/
structure MOp where
  f : Fields
  pc : DWord
  lcs : List Nat
  permits : List Nat
  param : List Word := []
deriving DecidableEq, Repr

/-- A weight plane (R241): format, rows N, columns K, element codes and scale bytes by row. -/
structure Weights where
  fmt : Nat
  n : Nat
  k : Nat
  elems : List (List Nat)
  scales : List (List Nat)
deriving DecidableEq, Repr

/-- The chain registers (R245, R246), with their values at stream start. -/
structure Chain where
  fmt : ChainFmt := .bf16
  bias : Sparse 32 := []
  y : List Word
  lo : Word := 0
  hi : Word := 0x3F800000#32
deriving DecidableEq, Repr

/-- What a stream's front end waits for. -/
inductive SWait where
  | none
  | bar (b : Nat) (phase : Bool)   -- MBARW
  | param                          -- a parameter record
  | permit                         -- the start of an iteration (R235)
  | finish                         -- MEND: the back end's completion
deriving DecidableEq, Repr

/-- A drain onto lanes in progress (R248): the beats still to enter the gang's queue, each with its clock. -/
structure Drain where
  gang : Nat
  beats : List (Nat × Beat)
deriving DecidableEq, Repr

/-- A performed operation that is not yet complete: its beats still to enter a queue, and the words of its writes to the
vault that have not been made, by key. -/
structure MRun where
  op : MOp
  drain : Option Drain := none
  writes : List (Nat × List Byte) := []
deriving DecidableEq, Repr

/-- A matrix sequencer (R233). -/
structure Stream where
  started : Bool := false
  pc : DWord                       -- header of the current block
  hword : DWord := 0
  idx : Nat := 0
  fetched : Bool := false          -- the header has been fetched and checked
  lastFetch : Option Nat := none   -- clock of the last word (one word per clock)
  wait : SWait := .none
  skip : Nat := 0                  -- nesting of a loop skipped for a count of 0
  ended : Bool := false
  stopped : Bool := false
  pausing : Bool := false          -- pre-empted: stops at its next MNEXT (R255)
  loops : List Loop := []          -- outermost first
  permits : List Permit := []
  queue : List MOp := []
  running : List MRun := []        -- performed and not yet complete
  chain : Chain
  shadow : Option Weights := none
  active : Option Weights := none
  loaded : Bool := false           -- an MLDW since the last MSWAP
  planes : Sparse 32 := []         -- word (m, n) of plane d: key (256 d + m) 256 + n
  past : List (List Host.Cell) := [] -- memory as earlier looks of the operation at the head found it (R197)
  heldPages : List Nat := []       -- fetch pages not present
deriving DecidableEq, Repr

/-- Where a block is (R278, R279). -/
inductive Residence where
  | resident
  | saving                         -- struck: threads discarded, engine operations being waited for
  | saved                          -- its image lies in its save area; core and pages are free
deriving DecidableEq, Repr

structure Block where
  bid : Nat
  lid : Nat
  idx : Nat                        -- sr.blk
  core : Nat
  vpage : Nat                      -- first window page: quad × 128 + page
  vpages : Nat                     -- window pages (grows by R354)
  vspan : Nat                      -- pages kept for the window
  ppage : Nat                      -- first pallet page
  ppages : Nat
  saveAt : Nat := 0                -- key of its save area in the function's reserve (R278)
  saveLen : Nat := 0
  borrowed : Bool := false         -- placed without a reservation (R310)
  placedAt : Nat := 0
  wanted : Bool := false           -- to be pre-empted (R278)
  res : Residence := .resident
  image : List (Nat × Byte) := []  -- saved window and pallet pages: key and byte, nonzero bytes only
  barriers : Vector Barrier 16 := Vector.replicate 16 {}
  handles : List (Nat × Handle) := []
  estat : BitVec 3 := 0
  packs : List Pack := []
  spawns : List SpawnReq := []
  newGangs : List NewGang := []
  xinsts : List XInst := []
  holds : List Hold := []
  splits : List Split := []
  params : List Param := []
  beats : List (Nat × List Beat) := []   -- by gang
  stream : Option Stream := none
deriving DecidableEq, Repr

/-! ### Launches -/

/-- Table 1-7. -/
structure LaunchRec where
  tag : DWord := 0
  compval : DWord := 0
  compaddr : DWord := 0
  stackbytes : Nat := 0
  stackbase : DWord := 0
  mstream : DWord := 0
  seed : DWord := 0
  planes : Nat := 0
  det : Bool := false
  chk : Bool := false
  prio : Nat := 0
  pallet : Nat := 0
  vault : Nat := 0
  tier : Nat := 0
  budget : Nat := 0
  group : Nat := 0
  ntid : Nat := 0
  nblk : Nat := 0
  kptr : DWord := 0
  entry : DWord := 0
  zeros : Bool := true             -- every must-be-zero field is zero
deriving DecidableEq, Repr

/-- Who started a launch. -/
inductive Parent where
  | queue                          -- the host, SPAWNQ or Virnus Reach: a hardware queue's launch
  | replay (rid : Nat)             -- a pass of a replay (R191)
  | entrant (scope idx : Nat)      -- a tournament's entrant (R192)
deriving DecidableEq, Repr

/-- How a launch is ending other than by itself (R129, R276, R238, R282). -/
structure Term where
  kind : Nat                       -- error record kind of Table 7-12
  code : BitVec 8
  tid : Nat
  blk : Nat
  pc : DWord := 0
  va : DWord := 0
  nthr : Nat := 0
  unit : Nat := 0
  addr : DWord := 0
  clock : Nat                      -- of the trap
  stopAt : Nat                     -- when every thread has stopped
  stopped : Bool := false
deriving DecidableEq, Repr

structure Launch where
  lid : Nat
  vf : Nat
  queue : Option Nat
  parent : Parent
  rcd : LaunchRec
  consts : Sparse 32 := []         -- k0 … k31
  nextTid : Nat                    -- of the next SPAWN child (R14)
  placed : Nat := 0                -- groups placed
  ended : Nat := 0                 -- blocks ended
  acceptedAt : Nat := 0
  reserved : List (Nat × Nat) := [] -- room held for the first group: core, block index (R309)
  overflowAt : Nat := 0            -- key of its overflow area in the function's reserve (R32)
  overflow : Nat := 0              -- bytes of it
  sig : DWord := 0                 -- path signature of ended threads (R323)
  term : Option Term := none
  silent : Bool := false           -- ended by a reset or a kill: no word is written (R367, R353)
deriving DecidableEq, Repr

/-! ### Memory and translation (11) -/

/-- Access kinds of Table 11-5. -/
inductive Acc where
  | load | store | atomic | fetch | engineRead | engineWrite
deriving DecidableEq, Repr

/-- What waits for a walk or is held on a page (R266, R272). -/
inductive Requester where
  | threads (uids : List Nat) (own : List Nat) -- a discarded course; the lanes whose own access faulted
  | engine (op : Nat) (req : Nat) (n : Nat)    -- an engine operation, its kind of Table 11-5, its elements on the page
  | stream (bid : Nat)                         -- a sequencer's fetch
deriving DecidableEq, Repr

/-- A walk in progress or waiting (R266). -/
structure Walk where
  id : Nat
  vf : Nat
  page : Nat
  acc : Acc
  who : Requester
deriving DecidableEq, Repr

/-- An entry of a pending table (R272). -/
structure Pending where
  vf : Nat
  page : Nat
  who : List Requester
deriving DecidableEq, Repr

/-- A fault entry (Table 11-5) as 256 bits, with its function. -/
structure FaultEntry where
  bits : BitVec 256
  counted : Bool := false          -- already counted in `full`
  polled : Nat := 0                -- clock of the last read of head
deriving DecidableEq, Repr

/-- A response read and not yet applied (Table 11-6). -/
structure Response where
  kind : Nat
  vf : Nat
  page : Nat
  aux : DWord
  code : BitVec 8
deriving DecidableEq, Repr

/-- A shoot-down in progress (R276). -/
structure Shoot where
  id : Nat
  vf : Nat
  page : Nat
  pages : Nat
deriving DecidableEq, Repr

/-- A declared alias (R270). -/
structure Synonym where
  vf : Nat
  page : Nat
  canon : Nat
deriving DecidableEq, Repr

/-- An error record (Table 7-12). -/
structure ErrRec where
  kind : Nat
  code : BitVec 8
  tid : Nat
  blk : Nat
  tag : DWord
  pc : DWord := 0
  va : DWord := 0
  nthr : Nat := 0
  time : Nat
  addr : DWord := 0
  unit : Nat := 0
deriving DecidableEq, Repr

structure ErrQueue where
  vf : Nat
  recs : List ErrRec
  lost : Nat
deriving DecidableEq, Repr

/-- A core performance counter (R190). -/
structure Pmc where
  core : Nat
  c : Nat
  event : Nat
  on : Bool
  owner : Nat                      -- launch
  count : DWord
deriving DecidableEq, Repr

/-! ### The outside -/

/-- What the device sends out. -/
inductive Msg where
  | msix (vf vec : Nat)
  | reach (dst : Nat) (datagram : List Byte)
  | spdm (answer : List Byte)
  | pldm (answer : Nat)
  | peer (dst : Nat) (answer : List Byte) (trapped : Bool)
  | resetDone (vf : Nat)           -- a Function Level Reset is over (R367)
  | completion (link : Nat) (val : DWord) -- of a configuration or BAR request, on its link (R361)
deriving DecidableEq, Repr

/-- Registers of function 0's configuration space that the spec names (R361, R364). -/
inductive CfgReg where
  | totalVfs | firstVfOffset | vfStride | numVfs
  | deviceControl2                 -- bit 6 enables AtomicOp requests
deriving DecidableEq, Repr

/-- A configuration or BAR request of the host. -/
inductive HostReq where
  | barRead (vf off : Nat)
  | barWrite (vf off : Nat) (val : DWord)
  | cfgRead (r : CfgReg)
  | cfgWrite (r : CfgReg) (val : DWord)
deriving DecidableEq, Repr

/-- What the outside does, in the order it reaches the device: an event of the table, a write of the host or a peer to
memory by physical key, a store of the service image at a Llynmas core address, or a request of the host on a link. -/
inductive Input where
  | ev (i : Instr)
  | store (key : Nat) (bytes : List Byte)
  | svcStore (addr : Nat) (bytes : List Byte)
  | svcReturn                      -- the service image returns from its entry
  | request (link : Nat) (r : HostReq)
  | mask (vf vec : Nat)            -- an MSI-X vector is masked (R369)
  | hostAtomics (page : Nat) (on : Bool)   -- the completer of a host page supports AtomicOps (R364)
  | peerWindow (peer page : Nat) (r w : Bool) -- the rights that the peer's inbound windows give to a page of its memory (R372)
  | peerBack (peer : Nat)          -- a peer that could not be reached can be (R372)
deriving DecidableEq, Repr

/-- Which agent's issue is in progress (log 6). -/
inductive Cur where
  | none
  | course (uids : List Nat)
  | stream (bid : Nat)
deriving DecidableEq, Repr

/-- A page of a replay's write set (14 R322): its number, where the reserve holds the copy, and its nonzero bytes as first
met. -/
structure Snap where
  page : Nat
  at_ : Nat
  bytes : List (Nat × Byte)
deriving DecidableEq, Repr

/-- A replay (R191, R321, R322): who asked, what it runs, and what it has recorded. -/
structure Replay where
  rid : Nat
  lid : Nat                        -- the parent launch
  op : Nat                         -- its rp operation
  vf : Nat
  events : List Nat                -- 32 codes: 4 for each pass
  passes : Nat
  out : DWord
  rcd : List Byte                  -- the child's record as read at issue
  pass : Nat := 0                  -- pass in progress or just ended, from 1
  child : Option Nat := none       -- its launch while a pass runs
  snapAt : Nat := 0                -- its snapshot area in the reserve, and the pages it holds (R322)
  snapPages : Nat := 0
  snaps : List Snap := []          -- the write set
  tooBig : Bool := false           -- the write set went past the snapshot area
  isOver : Bool := false           -- no further pass runs
  places : List (Nat × Nat) := []  -- block index, core of pass 1
  sigs : List DWord := []
  counts : List (List DWord) := []
  run : Nat := 0
  endCode : BitVec 8 := 0
deriving DecidableEq, Repr

/-! ### The weight context of a quad (R254) -/

structure WReq where
  bid : Nat
  since : Nat
  raised : Bool := false
deriving DecidableEq, Repr

structure WCtx where
  quad : Nat
  holder : Option Nat := none
  last : Option Nat := none        -- the block whose planes the engine holds
  since : Nat := 0                 -- of the grant
  busy : Nat := 0                  -- save and restore run until this clock
  reqs : List WReq := []
  path : List Nat := []            -- blocks on the drain path and those that wait for it, in request order
deriving DecidableEq, Repr

/-! ### Tournaments (19) -/

/-- The slot of an entrant's core: its first page and the pages it takes (R348). -/
structure CoreSlot where
  core : Nat
  page : Nat
  pages : Nat
deriving DecidableEq, Repr

structure Entrant where
  idx : Nat
  lid : Nat
  cores : List Nat
  places : List CoreSlot := []
  score : DWord := 0
  alive : Bool := true
  killRound : Nat := 0
  isOpen : Bool := true            -- its round is open (R351)
  charge : Nat := 0                -- U
deriving DecidableEq, Repr

/-- A scope: running its round, ranked and waiting for its killed entrants' engine operations, or over. `order` lists the
entrants as the rank table does (R353). -/
structure Tourn where
  sid : Nat
  vf : Nat
  op : Nat                         -- the TOPEN's tr operation
  addr : DWord
  x : Bool
  rule : Nat
  n : Nat
  wmax : Nat
  tier : Nat
  unit : Nat
  a0 : Nat
  sched : List Nat
  keep : Nat
  rounds : Nat
  round : Nat := 1
  ranked : Nat := 0                -- last round ranked, as last written
  shown : Nat := 0                 -- survivors as last written
  st : Nat := 0                    -- state field of Table 7-10
  order : List Nat
  entrants : List Entrant
  left : Nat := 0                  -- window pages not yet handed on
  freeCores : List Nat := []
  toZero : List CoreSlot := []     -- slots of killed entrants still to be zeroed
  writing : Nat := 1               -- record write outstanding: 1 at acceptance, 2 after a round
  closing : Bool := false          -- the scope ends with the write
  ended : Bool := false
  lost : Bool := false             -- its record can no longer be written (R347)
deriving DecidableEq, Repr

/-! ### Queues, tenants, the service, boot and power (14, 21) -/

structure QueueHome where
  vf : Nat
  q : Nat
  quads : List Nat
deriving DecidableEq, Repr

/-- A function's place in the round robin (R312): D, and since when it has had a group waiting. -/
structure Deficit where
  vf : Nat
  d : Int
  since : Option Nat := none
deriving DecidableEq, Repr

structure Reach where
  tenant : Nat
  log : List (Nat × Nat)           -- request id and status, oldest first
deriving DecidableEq, Repr

/-- A request that passed its checks while its function was suspended (11 R280): who asked, from where, and the record. -/
structure HeldReach where
  tenant : Nat
  id : Nat
  srcs : List Nat
  vf : Nat
  q : Nat
  rcd : List Byte
deriving DecidableEq, Repr

structure Service where
  running : Bool := false
  pending : Bool := false          -- a publication since the last call
  inCall : Bool := false
  image : List Byte := []          -- as measured at svcgo
  waiting : Option (List Byte) := none -- an image that svcgo started during a call
  a0 : DWord := 0                  -- at the entry of the latest call
deriving DecidableEq, Repr

/-- Boot (R378, R379). -/
inductive Boot where
  | off | starting | up | minimal
deriving DecidableEq, Repr

/-- A firmware slot: the digest of its image, and whether it verified when it was written. -/
structure FwSlot where
  digest : List Byte
  good : Bool
deriving DecidableEq, Repr

/-- A commanded state change (R381). -/
structure Change where
  island : Nat
  code : Nat
  due : Nat
deriving DecidableEq, Repr

structure Alarm where
  island : Nat
  at_ : Nat                        -- clock of its assertion
  expired : Bool := false
deriving DecidableEq, Repr

structure State where
  -- the model's own
  free : Nat                       -- next free choice (log 4)
  nextId : Nat                     -- next name of an object
  hole : Option Nat                -- an access met an address with no memory: the step ends in a fault (log 2)
  cur : Cur
  inputs : List Input
  outbox : List Msg
  -- memory
  clock : Nat                      -- the time counter (R189)
  mem : List Host.Cell
  l1 : Sparse 64                   -- by core, function, canonical address: byte, dirty, valid, who wrote it or when it came
  l2 : Sparse 64                   -- by row
  hint1 : Sparse 2                 -- lines of L1 that are evict-first (1) or kept (2), by key div 128
  hint2 : Sparse 2                 -- lines of L2
  fills : Nat                      -- how often data has come into a cache from beyond it
  carried : Sparse 64              -- by core, and by 2^20 + row: newest fill that a release there has carried (12 R287)
  flight : List Access             -- accesses issued and not yet performed, in issue order (12 R283)
  lens : List (List Host.Cell)     -- what the engine operation in progress may read besides memory as it stands (08 R197)
  lensId : Nat                     -- that operation
  icache : Sparse 64               -- by core
  tlb : Sparse 64                  -- entries cached by the translation units (R269)
  walks : List Walk
  pending : List Pending
  faultSeq : BitVec 16
  heldFaults : List FaultEntry
  responses : List Response
  shoots : List Shoot
  synonyms : List Synonym
  -- registers and records of the functions
  bar : Sparse 64                  -- BAR0 of function v, offset o: key v·2^24 + o, o a multiple of 8
  msixMask : List (Nat × Nat)      -- unmasked vectors (function, vector)
  msixPend : List (Nat × Nat)
  errqs : List ErrQueue
  pmcs : List Pmc
  -- work
  launches : List Launch
  blocks : List Block
  threads : List Thread
  slots : List Slot
  issuedNow : List Nat             -- cores, once for each course issued in this clock
  swapsNow : List Nat              -- cores, once for each swap begun in this clock
  ending : Bool                    -- the arrivals of this clock are over: only expiries are left (R48)
  ages : List (Instr × Nat)        -- events that a bound covers, and since when they have been due
  replays : List Replay
  -- engines
  ops : List EOp
  posts : List Post
  fields : List Field
  collSeq : List (Comm × Nat × Nat) -- communicator, rank, commands issued
  wctx : List WCtx
  scopes : List Tourn
  -- queues and sharing
  homes : List QueueHome
  deficits : List Deficit
  visiting : Nat                   -- function the round robin stands at
  suspending : List (Nat × Bool)   -- transition in progress: function, true towards suspension
  resetting : List Nat             -- functions whose reset waits for their engine operations (R367)
  reach : List Reach
  heldReach : List HeldReach       -- in arrival order
  -- service, boot, power
  service : Service
  boot : Boot
  starts : Nat                     -- start counter (R378)
  fwSlots : List FwSlot
  fwRunning : Nat
  changes : List Change
  alarms : List Alarm
  ports : List Nat                 -- Virnus Link ports 0–35 and Ethernet ports 36, 37 that are up
  -- the host's links and peers
  links : List Nat                 -- PCIe links that are up (R361)
  posted : List (Nat × Nat)        -- function, link: posted writes since the last flush (R363)
  hostReqs : Sparse 64             -- by link: requests of the device to host memory that it has carried (R362)
  numVfs : Nat                     -- SR-IOV's NumVFs (R361)
  atomicOps : Bool                 -- AtomicOp requests enabled in Device Control 2 (R364)
  noAtomics : List Nat             -- host pages whose completer does not support AtomicOps (R364)
  peersDown : List Nat             -- peers that could not be reached within 1 ms (R372)
  peerClosed : List (Nat × Nat × Bool) -- peer, page: no inbound window of the peer lets it be read, or written (true) (R372)
  -- data that an uncorrectable error has struck in memory, which later reads detect again (R282)
  bad : List (Nat × Byte)          -- key, and the byte that is not to be relied on
  badReads : List (Nat × Nat)      -- launch, key: reads that have detected it
deriving DecidableEq, Repr

/-- The power registers' fallback bytes (Table 21-10): state 2 for the quads, 3 for the uncores. -/
def resetBar : Sparse 64 :=
  ((List.range 12).map fun i => (0x300D0 + 8 * i, 0x0202020202020202#64)) ++ [(0x30130, 0x0303030303030303#64)]

/-- The machine right after device reset: the time counter at 0 (R189), no launch, block or thread, the fallback bytes of
Table 21-10, and everything the spec gives no reset value empty or zero (log 3). -/
def State.reset : State where
  free := 0
  nextId := 1
  hole := none
  cur := .none
  inputs := []
  outbox := []
  clock := 0
  mem := []
  l1 := []
  l2 := []
  hint1 := []
  hint2 := []
  fills := 0
  carried := []
  flight := []
  lens := []
  lensId := 0
  icache := []
  tlb := []
  walks := []
  pending := []
  faultSeq := 0
  heldFaults := []
  responses := []
  shoots := []
  synonyms := []
  bar := resetBar
  msixMask := []
  msixPend := []
  errqs := []
  pmcs := []
  launches := []
  blocks := []
  threads := []
  slots := []
  issuedNow := []
  swapsNow := []
  ending := false
  ages := []
  replays := []
  ops := []
  posts := []
  fields := []
  collSeq := []
  wctx := []
  scopes := []
  homes := []
  deficits := []
  visiting := 0
  suspending := []
  resetting := []
  reach := []
  heldReach := []
  service := {}
  boot := .off
  starts := 0
  fwSlots := [⟨Config.shippedImageDigest, true⟩, ⟨[], false⟩]
  fwRunning := 0
  changes := []
  alarms := []
  ports := []
  links := []
  posted := []
  hostReqs := []
  numVfs := 0
  atomicOps := false
  noAtomics := []
  peersDown := []
  peerClosed := []
  bad := []
  badReads := []

end Sys2Proof.Machine
end

