-- ==== Sys2Proof/Machine/Flags.lean ====
section
/-! DEFINITION. Floating arithmetic (04): the formats as fields, values as exact dyadic numbers, one rounding, and the
sticky flags of Table 4-4. Results are exact values rounded once (R91, R92); the approximate operations give one of the
values within Table 4-8's bound (R107, log 13). -/

namespace Sys2Proof.Machine

/-- Sticky flags (Table 4-4). -/
abbrev Flags := BitVec 6
def fInvalid : Flags := 1
def fDz : Flags := 2
def fOverflow : Flags := 4
def fUnderflow : Flags := 8
def fInexact : Flags := 16
def fIdz : Flags := 32
def flagIf (b : Bool) (f : Flags) : Flags := if b then f else 0

/-- A binary format (Table 4-2): exponent width and precision. -/
structure Fmt where
  ew : Nat
  p : Nat
deriving DecidableEq, Repr

def f64 : Fmt := ⟨11, 53⟩
def f32 : Fmt := ⟨8, 24⟩
def f16 : Fmt := ⟨5, 11⟩
def bf16 : Fmt := ⟨8, 8⟩

def Fmt.bias (f : Fmt) : Nat := 2 ^ (f.ew - 1) - 1
def Fmt.emin (f : Fmt) : Int := 1 - (f.bias : Int)
def Fmt.emax (f : Fmt) : Int := f.bias
def Fmt.width (f : Fmt) : Nat := f.ew + f.p
/-- Weight of the last place of the smallest numbers. -/
def Fmt.qmin (f : Fmt) : Int := f.emin - f.p + 1
def Fmt.signBit (f : Fmt) : Nat := 2 ^ (f.ew + f.p - 1)
def Fmt.infBits (f : Fmt) : Nat := (2 ^ f.ew - 1) * 2 ^ (f.p - 1)
def Fmt.maxBits (f : Fmt) : Nat := f.infBits - 1
/-- The default NaN (R88). -/
def Fmt.nan (f : Fmt) : Nat := f.infBits + 2 ^ (f.p - 2)
def Fmt.neg (f : Fmt) (neg : Bool) (mag : Nat) : Nat := if neg then f.signBit + mag else mag

/-- A value: (−1)^neg × m × 2^e when finite. -/
inductive FVal where
  | nan (signalling : Bool)
  | inf (neg : Bool)
  | fin (neg : Bool) (m : Nat) (e : Int)
deriving DecidableEq, Repr

/-- R86. -/
def Fmt.decode (f : Fmt) (x : Nat) : FVal :=
  let s := bitsN x (f.ew + f.p - 1) 1 == 1
  let e := bitsN x (f.p - 1) f.ew
  let fr := bitsN x 0 (f.p - 1)
  if e = 2 ^ f.ew - 1 then (if fr = 0 then .inf s else .nan (bitsN fr (f.p - 2) 1 == 0))
  else if e = 0 then .fin s fr f.qmin
  else .fin s (2 ^ (f.p - 1) + fr) (f.qmin + (e - 1 : Nat))

def Fmt.subnormal (f : Fmt) (x : Nat) : Bool := bitsN x (f.p - 1) f.ew == 0 && bitsN x 0 (f.p - 1) != 0
/-- A subnormal read as a zero of its sign (R90). -/
def Fmt.flushIn (f : Fmt) (ftz : Bool) (x : Nat) : Nat := if ftz && f.subnormal x then x - bitsN x 0 (f.p - 1) else x
def Fmt.read (f : Fmt) (ftz : Bool) (x : Nat) : FVal := f.decode (f.flushIn ftz x)

/-- Does a magnitude go up, given what is cut off: nothing, below half, half, or above half (Table 4-3)? -/
def roundUp (rm : Rm) (neg odd inexact half above : Bool) : Bool :=
  match rm with
  | .rn => above || (half && odd)
  | .rna => above || half
  | .rz => false
  | .ru => inexact && !neg
  | .rd => inexact && neg

/-- m × 2^e, or when `st` a value strictly between m × 2^e and (m + 1) × 2^e, as a multiple of 2^q; and whether it was
not one. `st` is set only with q > e. -/
def roundTo (rm : Rm) (neg : Bool) (m : Nat) (e : Int) (st : Bool) (q : Int) : Nat × Bool :=
  if q ≤ e then (m * 2 ^ (e - q).toNat, st)
  else
    let sh := (q - e).toNat
    let n := m / 2 ^ sh
    let rem := m % 2 ^ sh
    let h := 2 ^ (sh - 1)
    let inexact := rem != 0 || st
    let above := decide (h < rem) || (rem == h && st)
    let half := rem == h && !st
    (if roundUp rm neg (n % 2 == 1) inexact half above then n + 1 else n, inexact)

/-- Table 4-3's overflow result. -/
def Fmt.overflow (f : Fmt) (rm : Rm) (neg : Bool) : Nat :=
  let big := match rm with
    | .rn => true | .rna => true | .rz => false | .ru => !neg | .rd => neg
  f.neg neg (if big then f.infBits else f.maxBits)

def magLog (m : Nat) (e : Int) : Int := (Nat.log2 m : Int) + e

/-- A result that is subnormal after rounding is flushed under .ftz (R90). -/
def Fmt.flushOut (f : Fmt) (ftz : Bool) (r : Nat × Flags) : Nat × Flags :=
  if ftz && f.subnormal r.1 then (r.1 - bitsN r.1 0 (f.p - 1), r.2 ||| fUnderflow ||| fInexact) else r

/-- One rounding into the format (R91, R92). A zero magnitude has the sign given. -/
def Fmt.round (f : Fmt) (rm : Rm) (neg : Bool) (m : Nat) (e : Int) (st : Bool) : Nat × Flags :=
  if m = 0 && !st then (f.neg neg 0, 0)
  else
    let q0 := magLog m e - f.p + 1
    let q := max q0 f.qmin
    let (n, ix) := roundTo rm neg m e st q
    let mag := n + (q - f.qmin).toNat * 2 ^ (f.p - 1)
    if f.infBits ≤ mag then (f.overflow rm neg, fOverflow ||| fInexact)
    else
      let (n0, _) := roundTo rm neg m e st q0
      let tiny := decide (magLog n0 q0 < f.emin)
      (f.neg neg mag, flagIf ix fInexact ||| flagIf (ix && tiny) fUnderflow)

/-! ### Exact sums and products -/

/-- The integer of a signed magnitude at weight 2^q, q at most e. -/
def scaled (neg : Bool) (m : Nat) (e q : Int) : Int :=
  let v : Int := (m * 2 ^ (e - q).toNat : Nat)
  if neg then -v else v

/-- The sign of an exact zero sum (R89). -/
def zeroSign (rm : Rm) (n1 n2 : Bool) (bothZero : Bool) : Bool :=
  if bothZero && n1 == n2 then n1 else rm == .rd

def Fmt.isSig : FVal → Bool
  | .nan b => b
  | _ => false
def FVal.isNan : FVal → Bool
  | .nan _ => true
  | _ => false

def FVal.negate : FVal → FVal
  | .nan b => .nan b
  | .inf s => .inf !s
  | .fin s m e => .fin (!s) m e

/-- a + b exactly, then rounded. -/
def Fmt.addV (f : Fmt) (rm : Rm) (a b : FVal) : Nat × Flags :=
  match a, b with
  | .nan x, y => (f.nan, flagIf (x || Fmt.isSig y) fInvalid)
  | x, .nan y => (f.nan, flagIf (y || Fmt.isSig x) fInvalid)
  | .inf s, .inf t => if s = t then (f.neg s f.infBits, 0) else (f.nan, fInvalid)
  | .inf s, _ => (f.neg s f.infBits, 0)
  | _, .inf t => (f.neg t f.infBits, 0)
  | .fin s m e, .fin t n d =>
    let q := min e d
    let v := scaled s m e q + scaled t n d q
    if v = 0 then (f.neg (zeroSign rm s t (m == 0 && n == 0)) 0, 0)
    else f.round rm (decide (v < 0)) v.natAbs q false

/-- a × b exactly: none for 0 × ∞. -/
def mulV (a b : FVal) : Option FVal :=
  match a, b with
  | .nan x, y => some (.nan (x || Fmt.isSig y))
  | x, .nan y => some (.nan (y || Fmt.isSig x))
  | .inf s, .inf t => some (.inf (s != t))
  | .inf s, .fin t n _ => if n = 0 then none else some (.inf (s != t))
  | .fin s m _, .inf t => if m = 0 then none else some (.inf (s != t))
  | .fin s m e, .fin t n d => some (.fin (s != t) (m * n) (e + d))

def Fmt.mul (f : Fmt) (rm : Rm) (a b : FVal) : Nat × Flags :=
  match mulV a b with
  | none => (f.nan, fInvalid)
  | some (.nan x) => (f.nan, flagIf x fInvalid)
  | some (.inf s) => (f.neg s f.infBits, 0)
  | some (.fin s m e) => f.round rm s m e false

/-- a × b + c with one rounding (R148). -/
def Fmt.fma (f : Fmt) (rm : Rm) (a b c : FVal) : Nat × Flags :=
  match mulV a b with
  | none => (f.nan, fInvalid)
  | some v => f.addV rm v c

/-! ### Quotients and roots -/

/-- m / n × 2^e with at least `bits` significant bits and the sticky rest. -/
def quotient (bits m n : Nat) : Nat × Int × Bool :=
  let k := bits + Nat.log2 n + 1
  (m * 2 ^ k / n, -(k : Int), m * 2 ^ k % n != 0)

/-- The integer square root, one bit at a time from 2^fuel down. -/
def isqrtFrom (x : Nat) : Nat → Nat → Nat
  | 0, r => if (r + 1) * (r + 1) ≤ x then r + 1 else r
  | k + 1, r => isqrtFrom x k (if (r + 2 ^ (k + 1)) * (r + 2 ^ (k + 1)) ≤ x then r + 2 ^ (k + 1) else r)
def isqrt (x : Nat) : Nat := isqrtFrom x (Nat.log2 x / 2 + 1) 0

/-- √(m × 2^e) with at least `bits` significant bits. -/
def rootOf (bits m : Nat) (e : Int) : Nat × Int × Bool :=
  let k := 2 * bits + (if (e - 2 * (bits : Int)) % 2 = 0 then 0 else 1)
  let x := m * 2 ^ k
  let r := isqrt x
  (r, (e - k) / 2, r * r != x)

def Fmt.div (f : Fmt) (rm : Rm) (a b : FVal) : Nat × Flags :=
  match a, b with
  | .nan x, y => (f.nan, flagIf (x || Fmt.isSig y) fInvalid)
  | x, .nan y => (f.nan, flagIf (y || Fmt.isSig x) fInvalid)
  | .inf _, .inf _ => (f.nan, fInvalid)
  | .inf s, .fin t _ _ => (f.neg (s != t) f.infBits, 0)
  | .fin s _ _, .inf t => (f.neg (s != t) 0, 0)
  | .fin s m e, .fin t n d =>
    if n = 0 then (if m = 0 then (f.nan, fInvalid) else (f.neg (s != t) f.infBits, fDz))
    else if m = 0 then (f.neg (s != t) 0, 0)
    else let (q, k, st) := quotient (f.p + 3) m n; f.round rm (s != t) q (e - d + k) st

def Fmt.sqrt (f : Fmt) (rm : Rm) (a : FVal) : Nat × Flags :=
  match a with
  | .nan x => (f.nan, flagIf x fInvalid)
  | .inf s => if s then (f.nan, fInvalid) else (f.infBits, 0)
  | .fin s m e =>
    if m = 0 then (f.neg s 0, 0)
    else if s then (f.nan, fInvalid)
    else let (r, k, st) := rootOf (f.p + 3) m e; f.round rm false r k st

/-! ### Comparison, minimum, class, integral and integer values -/

/-- Order of two values that are not NaN. -/
def cmpV (a b : FVal) : Ordering :=
  match a, b with
  | .inf s, .inf t => if s = t then .eq else if s then .lt else .gt
  | .inf s, _ => if s then .lt else .gt
  | _, .inf t => if t then .gt else .lt
  | .fin s m e, .fin t n d => let q := min e d; compare (scaled s m e q) (scaled t n d q)
  | _, _ => .eq

/-- Table 6-3. -/
def fcompare (c : FCmp) (a b : FVal) : Bool :=
  let un := a.isNan || b.isNan
  let o := cmpV a b
  match c with
  | .eq => !un && o == .eq
  | .ne => un || o != .eq
  | .lt => !un && o == .lt
  | .le => !un && o != .gt
  | .gt => !un && o == .gt
  | .ge => !un && o != .lt
  | .num => !un
  | .nan => un

/-- minimumNumber and maximumNumber on bits already read (R88, R149). -/
def Fmt.minmax (f : Fmt) (isMax : Bool) (x y : Nat) : Nat × Flags :=
  let a := f.decode x; let b := f.decode y
  let fl := flagIf (Fmt.isSig a || Fmt.isSig b) fInvalid
  if a.isNan && b.isNan then (f.nan, fl)
  else if a.isNan then (y, fl)
  else if b.isNan then (x, fl)
  else
    match cmpV a b with
    | .lt => (if isMax then y else x, fl)
    | .gt => (if isMax then x else y, fl)
    | .eq => (if (f.signBit ≤ x) == isMax then y else x, fl)

/-- Table 6-5. -/
def Fmt.classify (f : Fmt) (x : Nat) : Nat :=
  let neg := decide (f.signBit ≤ x % 2 ^ f.width)
  match f.decode x with
  | .nan s => if s then 2 ^ 8 else 2 ^ 9
  | .inf s => if s then 1 else 2 ^ 7
  | .fin _ m _ =>
    if m = 0 then (if neg then 2 ^ 3 else 2 ^ 4)
    else if f.subnormal x then (if neg then 2 ^ 2 else 2 ^ 5)
    else (if neg then 2 else 2 ^ 6)

/-- FRND (R153). -/
def Fmt.roundIntegral (f : Fmt) (rm : Rm) (a : FVal) : Nat × Flags :=
  match a with
  | .nan x => (f.nan, flagIf x fInvalid)
  | .inf s => (f.neg s f.infBits, 0)
  | .fin s m e => let (n, _) := roundTo rm s m e false 0; ((f.round .rz s n 0 false).1, 0)

/-- FSCALE (R153). -/
def Fmt.scale (f : Fmt) (rm : Rm) (a : FVal) (b : Int) : Nat × Flags :=
  match a with
  | .nan x => (f.nan, flagIf x fInvalid)
  | .inf s => (f.neg s f.infBits, 0)
  | .fin s m e => f.round rm s m (e + b) false

/-- A conversion to an integer in [lo, hi] (R93). -/
def toInteger (rm : Rm) (lo hi : Int) (a : FVal) : Int × Flags :=
  match a with
  | .nan _ => (0, fInvalid)
  | .inf s => (if s then lo else hi, fInvalid)
  | .fin s m e =>
    let (n, ix) := roundTo rm s m e false 0
    let v : Int := if s then -(n : Int) else n
    if v < lo then (lo, fInvalid) else if hi < v then (hi, fInvalid) else (v, flagIf ix fInexact)

def Fmt.ofInteger (f : Fmt) (rm : Rm) (v : Int) : Nat × Flags := f.round rm (decide (v < 0)) v.natAbs 0 false

/-- A conversion between formats (R155). -/
def Fmt.convert (f : Fmt) (rm : Rm) (a : FVal) : Nat × Flags :=
  match a with
  | .nan x => (f.nan, flagIf x fInvalid)
  | .inf s => (f.neg s f.infBits, 0)
  | .fin s m e => f.round rm s m e false

/-! ### The approximate operations (R107, R108) -/

/-- Guarded precision, in bits, of the evaluations below. -/
def prec : Nat := 400
/-- ⌊ln 2 × 2^400⌋. -/
def ln2Fix : Nat := 0xB17217F7D1CF79ABC9E3B39803F2F6AF40F343267298B62D8A0D175B8BAAFA2BE7B876206DEBAC98559552FB4AFA1B10ED2E
/-- ⌊π × 2^1600⌋. -/
def piFix : Nat := 0x3243F6A8885A308D313198A2E03707344A4093822299F31D0082EFA98EC4E6C89452821E638D01377BE5466CF34E90C6CC0AC29B7C97C50DD3F84D5B5B54709179216D5D98979FB1BD1310BA698DFB5AC2FFD72DBD01ADFB7B8E1AFED6A267E96BA7C9045 * 2 ^ 800 + 0xF12C7F9924A19947B3916CF70801F2E2858EFC16636920D871574E69A458FEA3F4933D7E0D95748F728EB658718BCD5882154AEE7B54A41DC25A59B59C30D5392AF26013C5D1B023286085F0CA417918B8DB38EF8E79DCB0603A180E6C9E0E8BB01E8A3E

/-- Σ terms of e^x for 0 ≤ x < 1, fixed point of `prec` bits. -/
def expSeries (x : Nat) : Nat → Nat → Nat → Nat
  | 0, _, _ => 0
  | fuel + 1, k, term => term + expSeries x fuel (k + 1) (term * x / 2 ^ prec / (k + 1))
/-- 2^f for a fraction f of `prec` bits. -/
def exp2Fix (fr : Nat) : Nat := expSeries (fr * ln2Fix / 2 ^ prec) 90 0 (2 ^ prec)

/-- z + z³/3 + z⁵/5 + … . -/
def atanhSeries (z2 : Nat) : Nat → Nat → Nat → Nat
  | 0, _, _ => 0
  | fuel + 1, k, term => term / k + atanhSeries z2 fuel (k + 2) (term * z2 / 2 ^ prec)
/-- ln of m / 2^prec, for 1 ≤ m / 2^prec < 2. -/
def lnFix (m : Nat) : Nat :=
  let z := (m - 2 ^ prec) * 2 ^ prec / (m + 2 ^ prec)
  2 * atanhSeries (z * z / 2 ^ prec) 130 1 z

/-- The alternating series of sine (first term x) and cosine (first term 1), for 0 ≤ x < 2. -/
def trigSeries (x2 : Nat) : Nat → Nat → Int → Int
  | 0, _, _ => 0
  | fuel + 1, k, term => term + trigSeries x2 fuel (k + 2) (-(term * x2 / 2 ^ prec) / ((k + 1) * (k + 2) : Nat))
def sinFix (x : Nat) : Nat := (trigSeries (x * x / 2 ^ prec) 60 1 x).toNat
def cosFix (x : Nat) : Nat := (trigSeries (x * x / 2 ^ prec) 60 0 (2 ^ prec : Nat)).toNat

/-- A magnitude known to lie strictly between m × 2^e and (m + 1) × 2^e. -/
structure Approx where
  neg : Bool
  m : Nat
  e : Int
  st : Bool := true
deriving DecidableEq, Repr

/-- A fixed-point magnitude cut to its guarded bits; a value that rounds up to a power of two there stays below it. -/
def guarded (neg : Bool) (v : Nat) (e : Int) : Approx := ⟨neg, v / 2 ^ 32, e + 32, true⟩

/-- A value just below m × 2^e in magnitude. -/
def justBelow (neg : Bool) (m : Nat) (e : Int) : Approx := ⟨neg, m * 2 ^ 200 - 1, e - 200, true⟩

/-- x = m × 2^e as a floor and a fraction of `prec` bits. -/
def splitFix (s : Bool) (m : Nat) (e : Int) : Int × Nat :=
  let v : Int := if e ≥ -(prec : Int) then (m * 2 ^ (e + prec).toNat : Nat) else (m / 2 ^ (-(e + prec)).toNat : Nat)
  let cut := e < -(prec : Int) && m % 2 ^ (-(e + prec)).toNat != 0
  let w : Int := if s then (if cut then -v - 1 else -v) else v
  (w / (2 ^ prec : Nat), (w % (2 ^ prec : Nat)).toNat)

def exp2Approx (s : Bool) (m : Nat) (e : Int) : Approx :=
  let (n, fr) := splitFix s m e
  guarded false (exp2Fix fr) (n - prec)

/-- log2 of m × 2^e, m not 0. -/
def log2Approx (m : Nat) (e : Int) : Approx :=
  let k := Nat.log2 m
  let mant := m * 2 ^ prec / 2 ^ k
  let v : Int := (lnFix mant * 2 ^ prec / ln2Fix : Nat) + (e + k) * (2 ^ prec : Nat)
  guarded (decide (v < 0)) v.natAbs (-(prec : Int))

/-- sin and cos of x = m × 2^e ≥ 2^−100, reduced exactly by quarter turns. -/
def trigApprox (wantCos s : Bool) (m : Nat) (e : Int) : Approx :=
  let x := if e ≥ -1600 then m * 2 ^ (e + 1600).toNat else m / 2 ^ (-(e + 1600)).toNat
  let half := piFix / 2
  let k := x / half
  let r := (x % half) / 2 ^ (1600 - prec)
  let quad := (k + boolBit wantCos) % 4
  let v := if quad % 2 = 0 then sinFix r else cosFix r
  guarded ((s && !wantCos) != decide (2 ≤ quad)) v (-(prec : Int))

/-- tanh of x = m × 2^e ≥ 2^−100. -/
def tanhApprox (s : Bool) (m : Nat) (e : Int) : Approx :=
  if magLog m e ≥ 7 then justBelow s 1 0
  else
    let x2 := if e + 1 + prec ≥ 0 then m * 2 ^ (e + 1 + prec).toNat else m / 2 ^ (-(e + 1 + prec)).toNat
    let t := x2 * 2 ^ prec / ln2Fix
    let ex := exp2Fix (t % 2 ^ prec) * 2 ^ (t / 2 ^ prec)
    guarded s ((ex - 2 ^ prec) * 2 ^ prec / (ex + 2 ^ prec)) (-(prec : Int))

/-- Magnitude bits of the largest number not above, or the smallest not below, a magnitude. -/
def Fmt.below (f : Fmt) (m : Nat) (e : Int) (st : Bool) : Nat :=
  let q := max (magLog m e - f.p + 1) f.qmin
  min (if m = 0 then 0 else (roundTo .rz false m e st q).1 + (q - f.qmin).toNat * 2 ^ (f.p - 1)) f.maxBits
def Fmt.above (f : Fmt) (m : Nat) (e : Int) (st : Bool) : Nat :=
  let q := max (magLog m e - f.p + 1) f.qmin
  min (if m = 0 then boolBit st else (roundTo .ru false m e st q).1 + (q - f.qmin).toNat * 2 ^ (f.p - 1)) f.maxBits

/-- The delivered result of an approximate operation (R107): one of the numbers within `n` ulp of y, or within `absErr`
(a power of two, FLOG2.f32 on [0.5, 2]) if that is more, on the side the rounding mode asks for; a faithful result is one
of y's neighbours. Which one is left open and is a fixed function of the operation and its operand (R106, log 13). A zero
delivered for a nonzero y has y's sign: DESIGN CHOICE, the spec gives it none (log 75). Tininess (R92) is judged of y, not of
the number delivered, where the two lie on different sides of the smallest normal (DESIGN CHOICE, log 13). -/
def Fmt.approx (f : Fmt) (rm : Rm) (ftz : Bool) (n : Nat) (faithful : Bool) (absErr : Option Int) (code operand : Nat)
    (y : Approx) : Nat × Flags :=
  let L := magLog y.m y.e
  -- R92: y's value, rounded with unbounded exponent range, lies below the smallest normal number
  let q0 := L - f.p + 1
  let tiny := decide (magLog (roundTo rm y.neg y.m y.e y.st q0).1 q0 < f.emin)
  let maxM := (2 ^ f.p - 1) * 2 ^ (f.emax - f.p + 1 - min y.e (f.emax - f.p + 1)).toNat
  let yM := y.m * 2 ^ (y.e - min y.e (f.emax - f.p + 1)).toNat
  if maxM < yM || (maxM == yM && y.st) then (f.overflow rm y.neg, fOverflow ||| fInexact)
  else
    let u := max L f.emin - f.p + 1
    let bound : Nat × Int := match absErr with
      | some a => if a > u + 1 then (1, a) else (n, u)
      | none => (n, u)
    let q := min y.e bound.2
    let m := y.m * 2 ^ (y.e - q).toNat
    let w := bound.1 * 2 ^ (bound.2 - q).toNat
    let floorY := f.below y.m y.e y.st
    let ceilY := f.above y.m y.e y.st
    let negMost := if !faithful && m < w then f.below (w - m - boolBit y.st) q false else 0
    let lo := if faithful then floorY else if m < w then 0 else f.above (m - w) q y.st
    let hi := if faithful then ceilY else f.below (m + w) q y.st
    let outward := (rm == .ru && !y.neg) || (rm == .rd && y.neg)
    let inward := rm == .rz || (rm == .ru && y.neg) || (rm == .rd && !y.neg)
    let lo := if outward then ceilY else lo
    let hi := if inward then floorY else hi
    let negMost := if outward then 0 else if rm == .rz then min negMost floorY else negMost
    let i := Config.approxPick code operand (rm.code.toNat) ftz % (negMost + 1 + (hi - lo))
    let bits := if i < negMost then f.neg (!y.neg) (i + 1) else f.neg y.neg (lo + (i - negMost))
    f.flushOut ftz (bits, fInexact ||| flagIf tiny fUnderflow)

def Fmt.isF64 (f : Fmt) : Bool := f.p == 53

/-- FRCP (R108). -/
def Fmt.rcp (f : Fmt) (rm : Rm) (ftz : Bool) (code x : Nat) : Nat × Flags :=
  match f.read ftz x with
  | .nan s => (f.nan, flagIf s fInvalid)
  | .inf s => (f.neg s 0, 0)
  | .fin s m e =>
    if m = 0 then (f.neg s f.infBits, fDz)
    else let (q, k, st) := quotient (2 * f.p) 1 m
      f.approx rm ftz 1 f.isF64 none code x ⟨s, q, k - e, st⟩

/-- FRSQ. -/
def Fmt.rsq (f : Fmt) (rm : Rm) (ftz : Bool) (code x : Nat) : Nat × Flags :=
  match f.read ftz x with
  | .nan s => (f.nan, flagIf s fInvalid)
  | .inf s => if s then (f.nan, fInvalid) else (0, 0)
  | .fin s m e =>
    if m = 0 then (f.neg s f.infBits, fDz)
    else if s then (f.nan, fInvalid)
    else
      -- 1 / √(m 2^e): the root of 2^k / m, then half the exponents
      let odd := e % 2 != 0
      let m' := if odd then 2 * m else m
      let e' := if odd then e - 1 else e
      let (q, k, st) := quotient (4 * f.p) 1 m'
      let (q, k) := if k % 2 = 0 then (q, k) else (q / 2, k + 1)
      let r := isqrt q
      f.approx rm ftz 1 f.isF64 none code x ⟨false, r, (k - e') / 2, st || r * r != q⟩

/-- FEXP2. -/
def Fmt.exp2 (f : Fmt) (rm : Rm) (ftz : Bool) (code x : Nat) : Nat × Flags :=
  match f.read ftz x with
  | .nan s => (f.nan, flagIf s fInvalid)
  | .inf s => (if s then 0 else f.infBits, 0)
  | .fin s m e =>
    let v : Int := if e ≥ 0 then (m * 2 ^ (min e 20).toNat : Nat) else (m / 2 ^ (-e).toNat : Nat)
    let isInt := decide (e ≥ 0) || m % 2 ^ (-e).toNat == 0
    let n : Int := if s then -v else v
    if isInt && f.qmin ≤ n && n ≤ f.emax then f.flushOut ftz (f.round rm false 1 n false)
    else if v ≥ 4096 then
      (if s then f.approx rm ftz (if f.isF64 then 1 else 2) f.isF64 none code x ⟨false, 1, -5000, true⟩
       else (f.overflow rm false, fOverflow ||| fInexact))
    else f.approx rm ftz (if f.isF64 then 1 else 2) f.isF64 none code x
      (if isInt then ⟨false, 1, n, false⟩ else exp2Approx s m e)

/-- FLOG2. -/
def Fmt.flog2 (f : Fmt) (rm : Rm) (ftz : Bool) (code x : Nat) : Nat × Flags :=
  match f.read ftz x with
  | .nan s => (f.nan, flagIf s fInvalid)
  | .inf s => if s then (f.nan, fInvalid) else (f.infBits, 0)
  | .fin s m e =>
    if m = 0 then (f.neg true f.infBits, fDz)
    else if s then (f.nan, fInvalid)
    else if m = 2 ^ Nat.log2 m then f.ofInteger rm (magLog m e)
    else f.approx rm ftz (if f.isF64 then 1 else 2) f.isF64
      (if !f.isF64 && -1 ≤ magLog m e && magLog m e ≤ 0 then some (-22) else none) code x (log2Approx m e)

/-- FSIN and FCOS. -/
def Fmt.trig (f : Fmt) (wantCos : Bool) (rm : Rm) (ftz : Bool) (code x : Nat) : Nat × Flags :=
  match f.read ftz x with
  | .nan s => (f.nan, flagIf s fInvalid)
  | .inf _ => (f.nan, fInvalid)
  | .fin s m e =>
    if m = 0 then (if wantCos then (f.ofInteger rm 1).1 else f.neg s 0, 0)
    else f.approx rm ftz (if f.isF64 then 1 else 2) f.isF64 none code x
      (if magLog m e < -100 then (if wantCos then justBelow false 1 0 else justBelow s m e) else trigApprox wantCos s m e)

/-- FTANH. -/
def Fmt.tanh (f : Fmt) (rm : Rm) (ftz : Bool) (code x : Nat) : Nat × Flags :=
  match f.read ftz x with
  | .nan s => (f.nan, flagIf s fInvalid)
  | .inf s => ((f.ofInteger rm (if s then -1 else 1)).1, 0)
  | .fin s m e =>
    if m = 0 then (f.neg s 0, 0)
    else f.approx rm ftz 2 false none code x (if magLog m e < -100 then justBelow s m e else tanhApprox s m e)

/-! ### MX elements (R98–R101) -/

def mxWidth : MxFmt → Nat
  | .e4m3 => 8 | .e5m2 => 8 | .e2m3 => 6 | .e3m2 => 6 | .e2m1 => 4
def mxFmt : MxFmt → Fmt
  | .e4m3 => ⟨4, 4⟩ | .e5m2 => ⟨5, 3⟩ | .e2m3 => ⟨2, 4⟩ | .e3m2 => ⟨3, 3⟩ | .e2m1 => ⟨2, 2⟩
def mxEmax : MxFmt → Int
  | .e4m3 => 8 | .e5m2 => 15 | .e2m3 => 2 | .e3m2 => 4 | .e2m1 => 2
/-- Magnitude code of the largest finite value (Table 4-6). -/
def mxMax : MxFmt → Nat
  | .e4m3 => 0x7E | .e5m2 => 0x7B | .e2m3 => 0x1F | .e3m2 => 0x1F | .e2m1 => 0x7

/-- An element's value (R98): as R86, but only E5M2 has infinities and only E5M2 and E4M3 have NaN. -/
def mxDecode (f : MxFmt) (x : Nat) : FVal :=
  let g := mxFmt f
  let s := bitsN x (mxWidth f - 1) 1 == 1
  let mag := x % 2 ^ (mxWidth f - 1)
  let ex := bitsN x (g.p - 1) g.ew
  let fr := bitsN x 0 (g.p - 1)
  if f = .e4m3 && mag = 0x7F then .nan false
  else if f = .e5m2 && ex = 31 then (if fr = 0 then .inf s else .nan false)
  else if ex = 0 then .fin s fr g.qmin
  else .fin s (2 ^ (g.p - 1) + fr) (g.qmin + (ex - 1 : Nat))

/-- Decode(q) × 2^(t − 127), rounded once; no case of a NaN or an infinity raises a flag (R101). -/
def dequantise (f : MxFmt) (dst : Fmt) (rm : Rm) (q t : Nat) : Nat × Flags :=
  if t = 0xFF then (dst.nan, 0)
  else
    match mxDecode f q with
    | .nan _ => (dst.nan, 0)
    | .inf s => (dst.neg s dst.infBits, 0)
    | .fin s m e => dst.round rm s m (e + (t : Int) - 127) false

/-- A magnitude of a finite f32, for the largest of a block; an infinity counts above every number. -/
def absKey (x : Nat) : Nat := x % 2 ^ 31

/-- R100: the element codes, the scale byte, and invalid and inexact. An infinite block's X is at its upper clamp. -/
def quantise (f : MxFmt) (xs : List Nat) : List Nat × Nat × Flags :=
  if xs.any (fun x => (f32.decode x).isNan) then (xs.map fun _ => 0, 0xFF, fInvalid)
  else
    let amax := xs.foldl (fun m x => max m (absKey x)) 0
    let X : Int := match f32.decode amax with
      | .fin _ m e => if m = 0 then -127 else max (-127) (min 127 (magLog m e - mxEmax f))
      | _ => 127
    let g := mxFmt f
    let one (x : Nat) : Nat × Bool :=
      match f32.decode x with
      | .fin s m e =>
        let q := max (magLog m (e - X) - g.p + 1) g.qmin
        let (n, ix) := roundTo .rn s m (e - X) false q
        let big : Bool := match mxDecode f (mxMax f) with
          | .fin _ mm me => cmpV (.fin false m (e - X)) (.fin false mm me) == .gt
          | _ => false
        if big then ((if s then 2 ^ (mxWidth f - 1) else 0) + mxMax f, true)
        else if m = 0 then (if s then 2 ^ (mxWidth f - 1) else 0, false)
        else ((if s then 2 ^ (mxWidth f - 1) else 0) + (n + (q - g.qmin).toNat * 2 ^ (g.p - 1)), ix)
      | .inf s => ((if s then 2 ^ (mxWidth f - 1) else 0) + mxMax f, true)
      | .nan _ => (0, true)
    let qs := xs.map one
    (qs.map (·.1), (X + 127).toNat, flagIf (qs.any (·.2)) fInexact)

/-! ### Results on bits, shared by lanes, atomics and cross-lane instructions -/

/-- Two operands to one result, on bits. -/
abbrev Fn2 := Nat → Nat → Nat × Flags
abbrev Fn3 := Nat → Nat → Nat → Nat × Flags
abbrev Fn1 := Nat → Nat × Flags

def lo16 (x : Word) : Nat := (x.extractLsb' 0 16).toNat
def hi16 (x : Word) : Nat := (x.extractLsb' 16 16).toNat
def join16 (r0 r1 : Nat × Flags) : Word × Flags := (BitVec.ofNat 16 r1.1 ++ BitVec.ofNat 16 r0.1, r0.2 ||| r1.2)

def fAdd (m : Fmt) (rm : Rm) (z : Bool) : Fn2 := fun x y => m.flushOut z (m.addV rm (m.read z x) (m.read z y))

def minS {w : Nat} (x y : BitVec w) : BitVec w := if y.slt x then y else x
def minN {w : Nat} (x y : BitVec w) : BitVec w := if y.ult x then y else x
def maxS {w : Nat} (x y : BitVec w) : BitVec w := if x.slt y then y else x
def maxN {w : Nat} (x y : BitVec w) : BitVec w := if x.ult y then y else x

def redOp {w : Nat} (op : RedOp) (x y : BitVec w) : BitVec w :=
  match op with
  | .add => x + y | .minS => minS x y | .minN => minN x y | .maxS => maxS x y | .maxN => maxN x y
  | .and => x &&& y | .or => x ||| y | .xor => x ^^^ y

/-- New(op, old, B, C) of R176 on `n` bytes. The float forms keep subnormals, give default NaNs and set no flag (R177). -/
def atomNew (op : AtomOp) (n : Nat) (b c : BitVec 128) (old : Nat) : Nat :=
  match op with
  | .int o =>
    if n = 8 then (redOp o (BitVec.ofNat 64 old) (b.setWidth 64)).toNat else (redOp o (BitVec.ofNat 32 old) (b.setWidth 32)).toNat
  | .exch => b.toNat % 2 ^ (8 * n)
  | .cas => if old = b.toNat % 2 ^ (8 * n) then c.toNat % 2 ^ (8 * n) else old
  | .addF rm => (fAdd (if n = 8 then f64 else f32) rm false old (b.toNat % 2 ^ (8 * n))).1
  | .addHalves rm =>
    let x : Word := BitVec.ofNat 32 old
    let y : Word := b.setWidth 32
    (join16 (fAdd bf16 rm false (lo16 x) (lo16 y)) (fAdd bf16 rm false (hi16 x) (hi16 y))).1.toNat

end Sys2Proof.Machine
end

