-- ==== Sys2Proof/Machine/Memory.lean ====
section
/-! DEFINITION. Tables, physical memory, translation (11 R266–R271) and the caches (11 R259–R262, 12 R285). -/

namespace Sys2Proof.Machine

/-! ### Sparse tables -/

def Sparse.get {w : Nat} : Sparse w → Nat → BitVec w
  | [], _ => 0
  | (k', v) :: m, k => if k' = k then v else Sparse.get m k

/-- Writing zero removes the entry, so that equal tables are equal lists. -/
def Sparse.set {w : Nat} : Sparse w → Nat → BitVec w → Sparse w
  | [], k, v => if v = 0 then [] else [(k, v)]
  | (k', v') :: m, k, v =>
    if k < k' then (if v = 0 then (k', v') :: m else (k, v) :: (k', v') :: m)
    else if k = k' then (if v = 0 then m else (k, v) :: m)
    else (k', v') :: Sparse.set m k v

/-- The canonical form: keys rising, every key above `lo`, no entry zero. -/
def Sparse.wfFrom {w : Nat} (lo : Nat) : Sparse w → Bool
  | [] => true
  | (k, v) :: m => decide (lo ≤ k) && (v != 0) && Sparse.wfFrom (k + 1) m

def Sparse.wf {w : Nat} (m : Sparse w) : Bool := m.wfFrom 0

/-- The canonical form of memory. -/
def Memory.wf (m : List Host.Cell) : Bool := Sparse.wf (w := 8) m

/-- The listed entries of the `n` keys from `base`. -/
def Sparse.slice {w : Nat} (m : Sparse w) (base n : Nat) : Sparse w :=
  (m.dropWhile fun kv => decide (kv.1 < base)).takeWhile fun kv => decide (kv.1 < base + n)

def Sparse.setList {w : Nat} (m : Sparse w) (k : Nat) : List (BitVec w) → Sparse w
  | [] => m
  | v :: vs => (m.set k v).setList (k + 1) vs

/-! ### Free choices (log 4) -/

/-- A choice among `n`: the answer and the state with the choice spent. With one alternative there is nothing to choose. -/
def draw (s : State) (n : Nat) : Nat × State :=
  if n ≤ 1 then (0, s) else (Config.pick s.free n, { s with free := s.free + 1 })

def fresh (s : State) : Nat × State := (s.nextId, { s with nextId := s.nextId + 1 })

/-! ### Lookup -/

def State.thread? (s : State) (uid : Nat) : Option Thread := s.threads.find? fun t => t.uid == uid
def State.block? (s : State) (bid : Nat) : Option Block := s.blocks.find? fun b => b.bid == bid
def State.launch? (s : State) (lid : Nat) : Option Launch := s.launches.find? fun l => l.lid == lid
def updThread (s : State) (uid : Nat) (f : Thread → Thread) : State :=
  { s with threads := s.threads.map fun t => if t.uid == uid then f t else t }
def updBlock (s : State) (bid : Nat) (f : Block → Block) : State :=
  { s with blocks := s.blocks.map fun b => if b.bid == bid then f b else b }
def updLaunch (s : State) (lid : Nat) (f : Launch → Launch) : State :=
  { s with launches := s.launches.map fun l => if l.lid == lid then f l else l }
def updReplay (s : State) (rid : Nat) (f : Replay → Replay) : State :=
  { s with replays := s.replays.map fun r => if r.rid == rid then f r else r }

/-! ### The floor plan (Tables 0-1, 1-2, R264) -/

def coreQuad (core : Nat) : Nat := core / 4
def coreRow (core : Nat) : Nat := core / 16
def corePart (core : Nat) : Nat := core / 48
def vfOf (s : State) (lid : Nat) : Nat := ((s.launch? lid).map (·.vf)).getD 0

/-! ### Physical memory: one key space (log 2) -/

def tier2Space : Nat := 2 ^ 60
def hostSpace : Nat := 2 * 2 ^ 60
def vaultSpace : Nat := 4 * 2 ^ 60
def peerSpace (peer : Nat) : Nat := (16 + peer) * 2 ^ 60
def hbmSize : Nat := 2 ^ 39
def tier2Size : Nat := 2 ^ 41
/-- Quad q's vault, byte o of 8 MiB. -/
def vaultKey (q o : Nat) : Nat := vaultSpace + q * 2 ^ 23 + o

/-- Is there memory at this key? -/
def installed (key : Nat) : Bool :=
  if key < tier2Space then decide (key < hbmSize)
  else if key < hostSpace then decide (key - tier2Space < tier2Size)
  else if vaultSpace ≤ key && key < peerSpace 0 then decide (key - vaultSpace < 96 * 2 ^ 23)
  else true

/-- An access met an address with no memory: the step ends in a fault (log 2). -/
def hole (s : State) (key : Nat) : State := { s with hole := some key }

def memByte (s : State) (key : Nat) : Byte := Sparse.get (w := 8) s.mem key
def memRead (s : State) (key : Nat) : Nat → List Byte
  | 0 => []
  | n + 1 => memByte s key :: memRead s (key + 1) n
def memWrite (s : State) (key : Nat) (bs : List Byte) : State := { s with mem := Sparse.setList (w := 8) s.mem key bs }
def memWord (s : State) (key : Nat) : DWord := BitVec.ofNat 64 (ofBytes (memRead s key 8))

/-! ### Registers of the host's BAR0 (21 Table 21-1) -/

def barKey (vf off : Nat) : Nat := vf * 2 ^ 24 + off
def barWord (s : State) (vf off : Nat) : DWord := s.bar.get (barKey vf off)
def barField (s : State) (vf off lo w : Nat) : Nat := bitsN (barWord s vf (off + 8 * (lo / 64))).toNat (lo % 64) w
def setBarWord (s : State) (vf off : Nat) (v : DWord) : State := { s with bar := s.bar.set (barKey vf off) v }
def setBarField (s : State) (vf off lo w v : Nat) : State :=
  let o := off + 8 * (lo / 64)
  let l := lo % 64
  let old := (barWord s vf o).toNat
  setBarWord s vf o (BitVec.ofNat 64 (old - bitsN old l w * 2 ^ l + v % 2 ^ w * 2 ^ l))
/-- Entry `v` of the function table (Table 21-2). -/
def fnField (s : State) (v lo w : Nat) : Nat := barField s 0 (0x10000 + 128 * v) lo w

/-! ### Translation (11 R266–R270) -/

inductive Xlat where
  | frame (key : Nat) (pte : DWord) (level : Nat)
  | notPresent
  | prot
deriving DecidableEq, Repr

/-- Bits [63:57] equal bit 56 (R66). -/
def canonicalVa (a : DWord) : Bool := a.extractLsb' 57 7 == (if a.getLsbD 56 then 0x7F#7 else 0#7)
def va57 (a : DWord) : Nat := a.toNat % 2 ^ 57
/-- The 64-bit address of 57 bits. -/
def vaOf (v : Nat) : DWord := sx 64 (BitVec.ofNat 57 v)
def homePart (a : DWord) : Nat := bitsN a.toNat 16 3

def levelShift : Nat → Nat
  | 0 => 39 | 1 => 30 | 2 => 21 | _ => 16
def levelIndex (va : DWord) (level : Nat) : Nat :=
  match level with
  | 0 => bitsN va.toNat 39 18 | 1 => bitsN va.toNat 30 9 | 2 => bitsN va.toNat 21 9 | _ => bitsN va.toNat 16 5

def pteAddr (e : DWord) : Nat := bitsN e.toNat 16 41
def pteLoc (e : DWord) : Nat := bitsN e.toNat 8 2
def ptePeer (e : DWord) : Nat := bitsN e.toNat 57 7
def pteLeaf (e : DWord) : Bool := e.getLsbD 4
def pteSynonym (e : DWord) : Bool := e.getLsbD 11
def pteCanon (e : DWord) : Bool := e.getLsbD 10

/-- ZeroFieldsSet of R268. -/
def pteZeroFields (e : DWord) : Bool :=
  bitsN e.toNat 12 4 != 0 || bitsN e.toNat 5 3 != 0 ||
  (if pteLeaf e then (ptePeer e != 0 && pteLoc e != 3) || (pteSynonym e && pteCanon e)
   else ptePeer e != 0 || pteSynonym e || pteCanon e || pteLoc e != 0)

/-- Where an entry of a level is cached: partition, function, level, and the address bits that choose it. -/
def tlbKey (part vf level : Nat) (va : DWord) : Nat :=
  ((part * 128 + vf) * 4 + level) * 2 ^ 57 + va57 va >>> levelShift level

/-- One read of an entry by a walk: until a shoot-down, each access may use the entry that the unit holds or the one that
software has put in its place since (R269, log 9). With `old` the held one is used. -/
def readPte (s : State) (part vf level : Nat) (va : DWord) (pa : Nat) (old : Bool) : DWord × State :=
  let now := memWord s pa
  let k := tlbKey part vf level va
  let held := s.tlb.get k
  if held = now then (now, s)
  else if held = 0 then (now, if now.getLsbD 0 then { s with tlb := s.tlb.set k now } else s)
  else if old then (held, s)
  else
    let (c, s) := draw s 2
    (if c = 0 then held else now, s)

inductive WalkRes where
  | leaf (e : DWord) (level : Nat)
  | notPresent
  | prot
deriving DecidableEq, Repr

/-- The loop of R268 over the levels that are left. -/
def walkLevels (vf : Nat) (va : DWord) (part : Nat) (old : Bool) : List Nat → Nat → State → WalkRes × State
  | [], _, s => (.prot, s)
  | level :: rest, table, s =>
    let pa := table + 8 * levelIndex va level
    if !installed pa || tier2Space ≤ pa then (.prot, hole s pa)
    else
      let (e, s) := readPte s part vf level va pa old
      if !e.getLsbD 0 then (.notPresent, s)
      else if pteZeroFields e || (level == 0 && pteLeaf e) || (level == 3 && !pteLeaf e) then (.prot, s)
      else if pteLeaf e then (.leaf e level, s)
      else walkLevels vf va part old rest (pteAddr e * 2 ^ 16) s

/-- A walk to a leaf, with the checks R268 makes on it. -/
def walk (s : State) (vf : Nat) (va : DWord) (old : Bool := false) : WalkRes × State :=
  match walkLevels vf va (homePart va) old [0, 1, 2, 3] (fnField s vf 64 64) s with
  | (.leaf e level, s) =>
    if pteAddr e * 2 ^ 16 % 2 ^ levelShift level != 0 then (.prot, s)
    else if pteLoc e == 0 && level == 3 && bitsN (pteAddr e) 0 3 != homePart va then (.prot, s)
    else (.leaf e level, s)
  | r => r

def accAllowed (e : DWord) : Acc → Bool
  | .load => e.getLsbD 1
  | .engineRead => e.getLsbD 1
  | .store => e.getLsbD 2
  | .engineWrite => e.getLsbD 2
  | .atomic => e.getLsbD 1 && e.getLsbD 2
  | .fetch => e.getLsbD 3

def peerReachable (s : State) (peer : Nat) : Bool :=
  barField s 0 (0x50000 + 16 * peer) 32 1 == 1 && !s.peersDown.contains peer && s.ports.any fun p => decide (p < 36)

/-- Do the peer's inbound windows give an access to the page what it needs? A write-back writes (R372). -/
def windowOpen (s : State) (peer page : Nat) (acc : Option Acc) : Bool :=
  let reads := match acc with | some .load | some .engineRead | some .fetch | some .atomic => true | _ => false
  let writes := match acc with | some .store | some .engineWrite | some .atomic | none => true | _ => false
  !(reads && s.peerClosed.contains (peer, page, false)) && !(writes && s.peerClosed.contains (peer, page, true))

/-- The frame of a leaf. -/
def leafFrame (s : State) (e : DWord) (level : Nat) (va : DWord) (acc : Option Acc) : Xlat × State :=
  let pa := pteAddr e * 2 ^ 16 + va.toNat % 2 ^ levelShift level
  match pteLoc e with
  | 0 => if pa < hbmSize then (.frame pa e level, s) else (.prot, hole s pa)
  | 1 => if pa < tier2Size then (.frame (tier2Space + pa) e level, s) else (.prot, hole s (tier2Space + pa))
  | 2 => (.frame (hostSpace + pa) e level, s)
  | _ => (if peerReachable s (ptePeer e) && windowOpen s (ptePeer e) (pa / 2 ^ 16) acc then
            .frame (peerSpace (ptePeer e) + pa) e level else .prot, s)

def declared (s : State) (vf : Nat) (va canon : DWord) : Bool :=
  s.synonyms.any fun a => a.vf == vf && a.page == va57 va / 2 ^ 16 && a.canon == va57 canon / 2 ^ 16

/-- A translation; an address at which the spec puts no memory is marked, and stops the machine (log 2). `acc` is `none`
for a write-back, which no permission stops; `old` when the entries that the unit holds are to be used. An alias whose
canonical page has no leaf with canon = 1 is protection (R270). -/
def translate (s : State) (vf : Nat) (va : DWord) (acc : Option Acc) (old : Bool := false) : Xlat × State :=
  let allowed (e : DWord) : Bool := match acc with | none => true | some a => accAllowed e a
  match walk s vf va old with
  | (.notPresent, s) => (.notPresent, s)
  | (.prot, s) => (.prot, s)
  | (.leaf e level, s) =>
    if pteSynonym e then
      let canon := vaOf ((pteAddr e * 2 ^ 16) % 2 ^ 57 + va.toNat % 2 ^ levelShift level)
      if !allowed e || !declared s vf va canon then (.prot, s)
      else
        match walk s vf canon old with
        | (.leaf c clevel, s) =>
          if pteCanon c && clevel == level then leafFrame s c clevel canon acc else (.prot, s)
        | (_, s) => (.prot, s)
    else if allowed e then leafFrame s e level va acc
    else (.prot, s)

/-- The remap filter (R271): the address under which the caches hold a line. -/
def remap (s : State) (vf : Nat) (va : DWord) : DWord :=
  match s.synonyms.find? (fun a => a.vf == vf && a.page == va57 va / 2 ^ 16) with
  | some a => vaOf (a.canon * 2 ^ 16 + va.toNat % 2 ^ 16)
  | none => va

/-! ### Counters of a core (07 R190) -/

def countEvent (s : State) (core lid ev n : Nat) : State :=
  if n = 0 then s
  else { s with pmcs := s.pmcs.map fun p =>
    if p.core == core && p.on && p.event == ev && p.owner == lid then { p with count := p.count + BitVec.ofNat 64 n } else p }

/-! ### The reserve of a function (21 R366): overflow areas, save areas and snapshots, each in the lowest place that holds
it (log 33) -/

/-- The lowest place for `n` bytes beside the ranges in use. -/
def firstFit (base size : Nat) (used : List (Nat × Nat)) (n : Nat) : Option Nat :=
  let ok (p : Nat) : Bool := decide (p + n ≤ base + size) && used.all fun r => decide (p + n ≤ r.1) || decide (r.1 + r.2 ≤ p)
  match (base :: used.map fun r => r.1 + r.2).filter ok with
  | [] => none
  | p :: ps => some (ps.foldl min p)
/-- Places for several areas, one after the other. -/
def fitAll (base size : Nat) : List (Nat × Nat) → List Nat → Option (List Nat)
  | _, [] => some []
  | used, n :: ns =>
    match firstFit base size used n with
    | none => none
    | some p => (fitAll base size ((p, n) :: used) ns).map fun ps => p :: ps
/-- Bytes of a pallet slot (01 R32). -/
def slotBytes (r : LaunchRec) : Nat := (48 + 4 * r.budget + 63) / 64 * 64
/-- Pallet slots in HBM4E: those of SPAWN children may lie beyond the launch's overflow area (log 33). -/
def farSlots (s : State) (vf : Nat) : List (Nat × Nat) :=
  s.threads.filterMap fun t =>
    match t.palletAt, s.launch? t.lid with
    | some key, some l => if l.vf == vf && decide (key < hbmSize) then some (key, slotBytes l.rcd) else none
    | _, _ => none
/-- What holds the function's reserve. -/
def reserveHeld (s : State) (vf : Nat) : List (Nat × Nat) :=
  let areas : List (Nat × Nat) := (s.launches.filter fun l => l.vf == vf).map fun l => (l.overflowAt, l.overflow)
  let saves : List (Nat × Nat) := (s.blocks.filter fun b => vfOf s b.lid == vf).map fun b => (b.saveAt, b.saveLen)
  let snaps : List (Nat × Nat) := (s.replays.filter fun r => r.vf == vf).map fun r => (r.snapAt, r.snapPages * 65536)
  (areas ++ farSlots s vf ++ saves ++ snaps).filter fun r => r.2 != 0
def reserveFit (s : State) (vf : Nat) (ns : List Nat) : Option (List Nat) :=
  fitAll (fnField s vf 128 64) (fnField s vf 192 64) (reserveHeld s vf) ns

/-- Bytes that are free from a place on. -/
def freeFrom (stop : Nat) (used : List (Nat × Nat)) (p : Nat) : Nat :=
  if used.any fun r => decide (r.1 ≤ p) && decide (p < r.1 + r.2) then 0
  else ((used.filter fun r => decide (p ≤ r.1)).map Prod.fst).foldl min stop - p
/-- The place with the most bytes free, the lowest of several, and how many they are. -/
def roomiest (stop : Nat) (used : List (Nat × Nat)) : List Nat → Nat × Nat
  | [] => (0, 0)
  | p :: ps =>
    let best := roomiest stop used ps
    let n := freeFrom stop used p
    if best.2 ≤ n && 0 < n then (p, n) else best
/-- A replay's snapshot area (14 R322): its place, and 4,096 pages, or as many as fit where the reserve has no room for so
many (log 33). -/
def snapArea (s : State) (vf : Nat) : Nat × Nat :=
  let base := fnField s vf 128 64
  let used := reserveHeld s vf
  match reserveFit s vf [4096 * 65536] with
  | some (p :: _) => (p, 4096)
  | _ =>
    let best := roomiest (base + fnField s vf 192 64) used (base :: used.map fun r => r.1 + r.2)
    (best.1, best.2 / 65536)

/-! ### The write set of a replay (14 R322) -/

/-- The page's bytes that are not zero. -/
def pageBytes (s : State) (page : Nat) : List (Nat × Byte) :=
  s.mem.filter fun c => c.1 / 2 ^ 16 == page

/-- Does the byte lie in the function's reserve? -/
def inReserve (s : State) (vf key : Nat) : Bool :=
  decide (fnField s vf 128 64 ≤ key) && decide (key < fnField s vf 128 64 + fnField s vf 192 64)

/-- A write of launch `lid` is about to reach `key`: its page joins the write set of the replay it runs under, while the
snapshot area has room for its copy. Pages of the reserve never do (15 R326). -/
def noteWrite (s : State) (lid key : Nat) : State :=
  match (s.launch? lid).map fun (l : Launch) => (l.parent, l.vf) with
  | some (Parent.replay rid, vf) =>
    if hostSpace ≤ key || inReserve s vf key then s
    else
      let page := key / 2 ^ 16
      updReplay s rid fun r =>
        if r.snaps.any (fun p => p.page == page) then r
        else if r.snaps.length < r.snapPages then
          { r with snaps := r.snaps ++ [⟨page, r.snapAt + r.snaps.length * 65536, pageBytes s page⟩] }
        else { r with tooBig := true }
  | _ => s

/-! ### Requests to host memory (21 R362, R363) -/

def isHostKey (k : Nat) : Bool := decide (hostSpace ≤ k) && decide (k < vaultSpace)
/-- The link of a request to host memory: by bit 12 of the address while both are up, else the one that is. -/
def hostLink (s : State) (key : Nat) : Nat := if s.links.length ≥ 2 then bitsN key 12 1 else s.links.headD 0
/-- A request to host memory goes out on its link. -/
def noteRequest (s : State) (key : Nat) : State :=
  if isHostKey key then { s with hostReqs := s.hostReqs.set (hostLink s key) (s.hostReqs.get (hostLink s key) + 1) } else s
/-- A posted write to host memory does, and its function has a flush to make on that link. -/
def notePosted (s : State) (vf key : Nat) : State :=
  if isHostKey key then
    let link := hostLink s key
    let s := noteRequest s key
    if s.posted.contains (vf, link) then s else { s with posted := s.posted ++ [(vf, link)] }
  else s
/-- Before the write of a system-scope release to host memory, the zero-length reads of R363 flush the links that the
function has used: one request of the device on each. -/
def flushLinks (s : State) (vf : Nat) : State :=
  { s with
    hostReqs := (s.posted.filter fun p => p.1 == vf).foldl (fun (m : Sparse 64) p => m.set p.2 (m.get p.2 + 1)) s.hostReqs
    posted := s.posted.filter fun p => p.1 != vf }

/-- A request of a launch's threads or engines reads `n` bytes from memory: bad data in them is detected (R282). -/
def detect (s : State) (lid : Option Nat) (key n : Nat) : State :=
  match lid with
  | none => s
  | some l =>
    if s.bad.isEmpty then s
    else
      let hit := s.bad.filter fun b => decide (key ≤ b.1) && decide (b.1 < key + n) && memByte s b.1 == b.2
      { s with badReads := (s.badReads ++ hit.map fun b => (l, b.1)).dedup }

/-! ### The caches (11 R259–R261): entries by unit, function and canonical address -/

def cacheKey (u vf : Nat) (va : DWord) : Nat := (u * 128 + vf) * 2 ^ 57 + va57 va
def keyUnit (k : Nat) : Nat := k / 2 ^ 64
def keyVf (k : Nat) : Nat := k / 2 ^ 57 % 128
def keyVa (k : Nat) : Nat := k % 2 ^ 57
/-- A clean byte, with the number of the fill that brought it. -/
def cleanEntry (n : Nat) (b : Byte) : BitVec 64 := BitVec.ofNat 54 n ++ (0b10#2 ++ b)
/-- A dirty byte, with the core and launch that wrote it. -/
def dirtyEntry (core lid : Nat) (b : Byte) : BitVec 64 := BitVec.ofNat 45 lid ++ (BitVec.ofNat 9 core ++ (0b11#2 ++ b))
def entryValid (e : BitVec 64) : Bool := e.getLsbD 9
def entryDirty (e : BitVec 64) : Bool := e.getLsbD 8
def entryByte (e : BitVec 64) : Byte := e.setWidth 8
def entryCore (e : BitVec 64) : Nat := (e.extractLsb' 10 9).toNat
def entryLid (e : BitVec 64) : Nat := (e.extractLsb' 19 45).toNat
/-- The fill that brought a clean byte. -/
def entryFill (e : BitVec 64) : Nat := if entryDirty e then 0 else (e.extractLsb' 10 54).toNat

/-- Keys of the line that holds `va`. -/
def lineBase (u vf : Nat) (va : DWord) : Nat := (u * 128 + vf) * 2 ^ 57 + va57 va / 128 * 128
def inLine (base k : Nat) : Bool := decide (base ≤ k) && decide (k < base + 128)
/-- Does the level hold all of the line? -/
def lineFull (m : Sparse 64) (base : Nat) : Bool := ((m.slice base 128).filter fun kv => entryValid kv.2).length == 128

/-! #### Replacement. A level is one set of lines, in which the hints order what is replaced (log 8) -/

/-- 256 KiB, 8 MiB and 128 KiB of lines (Table 11-1, R262). -/
def l1Lines : Nat := 2048
def l2Lines : Nat := 65536
def icacheLines : Nat := 1024

/-- A rising list without repeats. -/
def runsOf : List Nat → List Nat
  | [] => []
  | [x] => [x]
  | x :: y :: xs => if x = y then runsOf (y :: xs) else x :: runsOf (y :: xs)
/-- The lines that unit `u` holds, by key div 128. -/
def heldLines (m : Sparse 64) (u : Nat) : List Nat := runsOf ((m.filter fun kv => keyUnit kv.1 == u).map fun kv => kv.1 / 128)

/-- The lines that may be replaced next (R260): evict-first ones before others, kept ones only when there is no other. -/
def replaceable (hints : Sparse 2) (ls : List Nat) : List Nat :=
  match ls.filter fun x => hints.get x == 1 with
  | x :: xs => x :: xs
  | [] =>
    match ls.filter fun x => hints.get x != 2 with
    | x :: xs => x :: xs
    | [] => ls

/-- Hints of lines that have left the level are gone. -/
def pruneHints (hints : Sparse 2) (m : Sparse 64) : Sparse 2 := hints.filter fun h => !(m.slice (h.1 * 128) 128).isEmpty
def hintCode : Hint → BitVec 2
  | .evf => 1 | .keep => 2 | _ => 0

def dropCleanL1 (s : State) (sel : Nat → Bool) : State :=
  let l1 : Sparse 64 := s.l1.filter fun kv => !(sel kv.1 && !entryDirty kv.2)
  { s with l1 := l1, hint1 := pruneHints s.hint1 l1 }
def dropCleanL2 (s : State) (sel : Nat → Bool) : State :=
  let l2 : Sparse 64 := s.l2.filter fun kv => !(sel kv.1 && !entryDirty kv.2)
  { s with l2 := l2, hint2 := pruneHints s.hint2 l2 }

/-- Dirty bytes of chosen L2 entries go to memory. When software has changed the page's entry, the one that the unit holds
still serves; a byte that neither translates stays where it is. -/
def wbL2 (s : State) (sel : Nat → Bool) : State :=
  s.l2.foldl (fun s kv =>
    if sel kv.1 && entryDirty kv.2 then
      let va := vaOf (keyVa kv.1)
      let put (s : State) (key : Nat) : State :=
        let s := if key < tier2Space then countEvent s (entryCore kv.2) (entryLid kv.2) 10 1 else s
        let s := notePosted s (keyVf kv.1) key
        { memWrite s key [entryByte kv.2] with l2 := s.l2.set kv.1 (cleanEntry s.fills (entryByte kv.2)) }
      match translate s (keyVf kv.1) va none with
      | (.frame key _ _, s) => put s key
      | (_, s) =>
        match translate s (keyVf kv.1) va none true with
        | (.frame key _ _, s) => put s key
        | (_, s) => s
    else s) s

/-- Write back what can be written, and discard (R276, R280): nothing of the lines is left. -/
def expelL2 (s : State) (sel : Nat → Bool) : State :=
  let s := wbL2 s sel
  let l2 : Sparse 64 := s.l2.filter fun kv => !sel kv.1
  { s with l2 := l2, hint2 := pruneHints s.hint2 l2 }

/-- Write back and discard. -/
def flushL2 (s : State) (sel : Nat → Bool) : State := dropCleanL2 (wbL2 s sel) sel

/-- Room for a line that the row's L2 does not hold: the one replaced is gone, also where its page leads nowhere any more. -/
def roomL2 (s : State) (row line : Nat) : State :=
  if !(s.l2.slice (line * 128) 128).isEmpty then s
  else
    let ls := heldLines s.l2 row
    if ls.length < l2Lines then s
    else
      let out := replaceable s.hint2 ls
      let (i, s) := draw s out.length
      expelL2 s (inLine (out.getD i 0 * 128))

/-- Dirty bytes of chosen L1 entries go to the row's L2, through its remap filter (R271); the entries stay, clean (R260). -/
def wbL1 (s : State) (sel : Nat → Bool) : State :=
  s.l1.foldl (fun s kv =>
    if sel kv.1 && entryDirty kv.2 then
      let row := coreRow (keyUnit kv.1)
      let k2 := cacheKey row (keyVf kv.1) (remap s (keyVf kv.1) (vaOf (keyVa kv.1)))
      let s := roomL2 s row (k2 / 128)
      { s with l1 := s.l1.set kv.1 (cleanEntry s.fills (entryByte kv.2)), l2 := s.l2.set k2 kv.2 }
    else s) s
def flushL1 (s : State) (sel : Nat → Bool) : State := dropCleanL1 (wbL1 s sel) sel

/-- Room for a line that the core's L1 does not hold. -/
def roomL1 (s : State) (core line : Nat) : State :=
  if !(s.l1.slice (line * 128) 128).isEmpty then s
  else
    let ls := heldLines s.l1 core
    if ls.length < l1Lines then s
    else
      let out := replaceable s.hint1 ls
      let (i, s) := draw s out.length
      flushL1 s (inLine (out.getD i 0 * 128))

/-- An access under evict-first or keep says how its line is replaced, at both levels. -/
def setHints (s : State) (core vf : Nat) (va : DWord) (h : Hint) : State :=
  if hintCode h = 0 then s
  else { s with hint1 := s.hint1.set (lineBase core vf va / 128) (hintCode h),
                hint2 := if (s.l2.slice (lineBase (coreRow core) vf va) 128).isEmpty then s.hint2
                         else s.hint2.set (lineBase (coreRow core) vf va / 128) (hintCode h) }

/-- A line of both levels, seen from a core, written back and discarded. -/
def flushLine1 (s : State) (core vf : Nat) (va : DWord) : State := flushL1 s (inLine (lineBase core vf va))
def flushLine2 (s : State) (core vf : Nat) (va : DWord) : State :=
  flushL2 (flushLine1 s core vf va) (inLine (lineBase (coreRow core) vf va))

/-- Every dirty byte of a function goes to memory. -/
def cleanFunction (s : State) (vf : Nat) : State :=
  let mine (k : Nat) : Bool := keyVf k == vf
  wbL2 (wbL1 s mine) mine

/-! #### Releases and acquires (12 Table 12-1) -/

def scopeLevel : Scope → Nat
  | .th => 0 | .cr => 0 | .qd => 1 | .rw => 1 | .pt => 2 | .dv => 2 | .sy => 3

/-- A release by a thread of function `vf` on `core`. -/
def release (s : State) (core vf : Nat) (sc : Scope) : State :=
  match scopeLevel sc with
  | 0 => s
  | 1 => wbL1 s fun k => keyUnit k == core
  | _ => wbL2 (wbL1 s fun k => keyUnit k == core && keyVf k == vf) fun k => keyUnit k == coreRow core && keyVf k == vf

/-- The byte that a fetch past L2 would give now, if its page translates. -/
def farByte (s : State) (k : Nat) : Option Byte :=
  match (translate s (keyVf k) (vaOf (keyVa k)) none).1 with
  | .frame key _ _ => some (memByte s key)
  | _ => none
/-- The byte that a fetch past L1 would give now. -/
def nearByte (s : State) (k : Nat) : Option Byte :=
  let e := s.l2.get (coreRow (keyUnit k) * 2 ^ 64 + k % 2 ^ 64)
  if entryValid e then some (entryByte e) else farByte s k

/-- Where a release on a core, or in a row, notes the newest fill that it carries. -/
def coreMark (core : Nat) : Nat := core
def rowMark (core : Nat) : Nat := 2 ^ 20 + coreRow core
def carriedBy (s : State) (k : Nat) : Nat := (s.carried.get k).toNat

/-- R287: whatever its scope, an acquire gives no clean byte that was fetched before data which a release at the core or in
the row has carried to it, and that has changed since (DEDUCED, log 92). -/
def dropStale (s : State) (core : Nat) : State :=
  let c := carriedBy s (coreMark core)
  let r := max c (carriedBy s (rowMark core))
  if r = 0 then s
  else
    let old (far : Nat → Option Byte) (n : Nat) (kv : Nat × BitVec 64) : Bool :=
      !entryDirty kv.2 && decide (entryFill kv.2 < n) && (match far kv.1 with | some b => b != entryByte kv.2 | none => false)
    let l2 : Sparse 64 := s.l2.filter fun kv => !(keyUnit kv.1 == coreRow core && old (farByte s) r kv)
    let s : State := { s with l2 := l2, hint2 := pruneHints s.hint2 l2 }
    let l1 : Sparse 64 := s.l1.filter fun kv => !(keyUnit kv.1 == core && old (nearByte s) r kv)
    { s with l1 := l1, hint1 := pruneHints s.hint1 l1 }

/-- An acquire: later loads fetch from the coherence point or beyond. -/
def acquire (s : State) (core vf : Nat) (sc : Scope) : State :=
  match scopeLevel sc with
  | 0 => dropStale s core
  | 1 => dropStale (dropCleanL1 s fun k => keyUnit k == core) core
  | _ => dropCleanL2 (dropCleanL1 s fun k => keyUnit k == core && keyVf k == vf) fun k => keyUnit k == coreRow core && keyVf k == vf

/-- A release carries what the thread has read, `seen` being the newest fill of it: to readers at the core, and above core
scope to those in the row. -/
def carry (s : State) (core seen : Nat) (sc : Scope) : State :=
  let n := max seen (carriedBy s (coreMark core))
  if n = 0 then s
  else
    let put (m : Sparse 64) (k : Nat) : Sparse 64 := m.set k (BitVec.ofNat 64 (max n (m.get k).toNat))
    { s with carried := if scopeLevel sc = 0 then put s.carried (coreMark core) else put (put s.carried (coreMark core)) (rowMark core) }

/-! #### Fills -/

/-- Is every one of `n` bytes in a cache? -/
def cached (m : Sparse 64) (key : Nat) : Nat → Bool
  | 0 => true
  | n + 1 => entryValid (m.get key) && cached m (key + 1) n

/-- The bytes of a line that the level lacks are taken from below, each with the number of the fill that brought it. -/
def fillFrom (m : Sparse 64) (base : Nat) (below : Nat → Option (BitVec 64)) : Nat → Sparse 64
  | 0 => m
  | n + 1 =>
    let m := fillFrom m base below n
    if entryValid (m.get (base + n)) then m
    else match below n with
      | some e => m.set (base + n) e
      | none => m

/-- R260: the whole line comes from below and is merged under the dirty mask. No clean byte of the line stays beside bytes
that are newer, so that each piece of R173 is whole. -/
def refill (m : Sparse 64) (base : Nat) (below : Nat → Option (BitVec 64)) : Sparse 64 :=
  fillFrom (m.filter fun kv => !(inLine base kv.1 && !entryDirty kv.2)) base below 128

def cacheBytes (m : Sparse 64) (key : Nat) : Nat → List Byte
  | 0 => []
  | n + 1 => entryByte (m.get key) :: cacheBytes m (key + 1) n

/-- Does a load find its bytes in L1 and L2 (R266: a request is translated only when it leaves L2)? One that misses L1
fills the whole line, which L2 must hold. -/
def servedByCaches (s : State) (core vf : Nat) (va : DWord) (n : Nat) (h : Hint) : Bool :=
  match h with
  | .byl2 => false
  | .byl1 => cached s.l2 (cacheKey (coreRow core) vf va) n
  | _ => cached s.l1 (cacheKey core vf va) n || lineFull s.l2 (lineBase (coreRow core) vf va)

/-- The line in L2, filled from memory when the address is translated. -/
def fillL2 (s : State) (core vf : Nat) (va : DWord) (key : Option Nat) : State :=
  let base := lineBase (coreRow core) vf va
  match key with
  | none => s
  | some key =>
    if lineFull s.l2 base then s
    else
      let s := noteRequest (roomL2 s (coreRow core) (base / 128)) key
      let mbase := key - va57 va % 128
      { s with l2 := refill s.l2 base (fun i => some (cleanEntry (s.fills + 1) (memByte s (mbase + i)))), fills := s.fills + 1 }

/-- A clean copy of what L2 holds. It is no newer than L2's own copy is; what the row has written there is new (12 R287). -/
def copyEntry (f : Nat) (e : BitVec 64) : BitVec 64 := cleanEntry (if entryDirty e then f else entryFill e) (entryByte e)

/-- The line in L1, filled from L2 as it stands before the line that makes room leaves L1. -/
def fillL1 (s : State) (core vf : Nat) (va : DWord) : State :=
  let base := lineBase core vf va
  let l2 := s.l2
  let s := roomL1 s core (base / 128)
  let base2 := lineBase (coreRow core) vf va
  let below (i : Nat) : Option (BitVec 64) :=
    let e := l2.get (base2 + i)
    if entryValid e then some (copyEntry (s.fills + 1) e) else none
  { s with l1 := refill s.l1 base below, fills := s.fills + 1 }

/-- A load of `n` bytes of one line (R260). `cnt` is false when an earlier lane of the issue has requested the line (R325).
`atom` when an atomic reads it: performed in L2, it counts no L2 miss (R325). -/
def loadGlobal (s : State) (core lid vf : Nat) (va : DWord) (n : Nat) (h : Hint) (key : Option Nat)
    (cnt : Bool := true) (atom : Bool := false) : List Byte × State :=
  let hbm (s : State) (miss : Bool) : State :=
    match key with
    | some k => if miss && k < tier2Space then countEvent s core lid 9 128 else s
    | none => s
  let filled (s : State) (miss : Bool) : State :=
    match key with
    | some k => hbm (if miss then detect s (some lid) (k - va57 va % 128) 128 else s) miss
    | none => s
  match h with
  | .byl2 =>
    let s := noteRequest (flushLine2 s core vf va) (key.getD 0)
    let s := hbm (countEvent (countEvent s core lid 7 (boolBit cnt)) core lid 8 (boolBit cnt)) (cnt && !atom)
    let s := match key with | some k => detect s (some lid) k n | none => s
    (memRead s (key.getD 0) n, { s with fills := s.fills + 1 })
  | .byl1 =>
    let s := flushLine1 s core vf va
    let miss := !cached s.l2 (cacheKey (coreRow core) vf va) n
    let s := countEvent (countEvent s core lid 7 (boolBit cnt)) core lid 8 (boolBit (miss && cnt && !atom))
    let s := if miss then filled (fillL2 s core vf va key) true else s
    (cacheBytes s.l2 (cacheKey (coreRow core) vf va) n, { s with fills := s.fills + 1 })
  | _ =>
    let s :=
      if cached s.l1 (cacheKey core vf va) n then s
      else
        let absent (m : Sparse 64) (u : Nat) : Bool := (m.slice (lineBase u vf va) 128).isEmpty
        let miss := key.isSome && !lineFull s.l2 (lineBase (coreRow core) vf va)
        let s := countEvent (countEvent s core lid 7 (boolBit (cnt && absent s.l1 core)))
          core lid 8 (boolBit (cnt && miss))
        fillL1 (filled (fillL2 s core vf va key) miss) core vf va
    (cacheBytes s.l1 (cacheKey core vf va) n, setHints s core vf va h)

/-- A store of the bytes of one line to the translated address (R260). It counts a miss only when `cnt` (R325). -/
def storeGlobal (s : State) (core lid vf : Nat) (va : DWord) (bs : List Byte) (h : Hint) (key : Nat) (cnt : Bool := true) : State :=
  let s := noteWrite s lid key
  match h with
  | .byl2 =>
    let s := countEvent (flushLine2 s core vf va) core lid 7 (boolBit cnt)
    let s := memWrite (notePosted s vf key) key bs
    if key < tier2Space then countEvent s core lid 10 bs.length else s
  | .byl1 =>
    let s := countEvent (flushLine1 s core vf va) core lid 7 (boolBit cnt)
    let s := roomL2 s (coreRow core) (lineBase (coreRow core) vf va / 128)
    { s with l2 := s.l2.setList (cacheKey (coreRow core) vf va) (bs.map (dirtyEntry core lid)) }
  | _ =>
    let line := lineBase core vf va / 128
    let s := countEvent s core lid 7 (boolBit (cnt && (s.l1.slice (line * 128) 128).isEmpty))
    let s := roomL1 s core line
    setHints { s with l1 := s.l1.setList (cacheKey core vf va) (bs.map (dirtyEntry core lid)) } core vf va h

/-- The cache hint that performs an access at a scope's coherence point (Table 12-1). -/
def pointHint (sc : Scope) : Hint :=
  match scopeLevel sc with
  | 0 => .dflt | 1 => .byl1 | _ => .byl2

/-! ### The vault aperture (11 R263, 07 R170) -/

def vaultBase : Nat := 0x00FF000000000000
/-- The address lies in 0x00FF_0000_0000_0000 to 0x00FF_FFFF_FFFF_FFFF. -/
def inVaultRange (a : DWord) : Bool := a.toNat / 2 ^ 48 == 0xFF
def inAperture (a : DWord) : Bool := inVaultRange a && decide (a.toNat - vaultBase < 96 * 2 ^ 23)

def Block.vbase (b : Block) : Nat := vaultBase + b.vpage * 2 ^ 16
def Block.vlimit (b : Block) : Nat := b.vpages * 2 ^ 16
def inWindow (b : Block) (a : DWord) (n : Nat) : Bool :=
  decide (b.vbase ≤ a.toNat) && decide (a.toNat + n ≤ b.vbase + b.vlimit)

/-- Why an access does not take place. -/
inductive Trouble where
  | trap (code : BitVec 8)
  | notPresent (page : Nat)
deriving DecidableEq, Repr

def pageOf (a : DWord) : Nat := va57 a / 2 ^ 16

/-- The checks on a thread's access in their order: canonical, aligned, window, translation (R66, R67, R170, R171). -/
def resolve (s : State) (b : Block) (vf : Nat) (a : DWord) (n align : Nat) (acc : Acc) (h : Hint) :
    Except Trouble Place × State :=
  if !canonicalVa a then (.error (.trap 0x06), s)
  else if a.toNat % align != 0 then (.error (.trap 0x05), s)
  else if inAperture a then
    (if inWindow b a n then .ok (.vault (vaultSpace + (a.toNat - vaultBase))) else .error (.trap 0x09), s)
  else if inVaultRange a then (.error (.trap 0x11), s)
  else
    let va := remap s vf a
    if acc == .load && servedByCaches s b.core vf va n h then (.ok (.cachedAt va), s)
    else
      match translate s vf a (some acc) with
      | (.frame key _ _, s) => (.ok (.global va key), s)
      | (.notPresent, s) => (.error (.notPresent (pageOf a)), s)
      | (.prot, s) => (.error (.trap 0x11), s)

/-- Does an access take all its data from the core's L1 (R316)? -/
def l1Hit (s : State) (core vf : Nat) (p : Place) (n : Nat) (h : Hint) : Bool :=
  match p with
  | .vault _ => false
  | .cachedAt va => h != .byl1 && h != .byl2 && cached s.l1 (cacheKey core vf va) n
  | .global va _ => h != .byl1 && h != .byl2 && cached s.l1 (cacheKey core vf va) n

/-- The newest fill among the bytes of L1 that a load reads; of what comes from beyond, the one it makes. -/
def loadSeen (s : State) (core vf : Nat) (p : Place) (n : Nat) (h : Hint) : Nat :=
  match p with
  | .vault _ => 0
  | .cachedAt va | .global va _ =>
    if l1Hit s core vf p n h then ((List.range n).map fun i => entryFill (s.l1.get (cacheKey core vf va + i))).foldl max 0
    else s.fills + 2

/-- A load of `n` bytes at a resolved place. A line that has left the caches since is translated again, by the entries that
the unit holds. -/
def loadAt (s : State) (core lid vf : Nat) (p : Place) (n : Nat) (h : Hint) (cnt : Bool := true)
    (atom : Bool := false) : List Byte × State :=
  match p with
  | .vault key => (memRead s key n, s)
  | .cachedAt va =>
    if servedByCaches s core vf va n h then loadGlobal s core lid vf va n h none cnt atom
    else match translate s vf va (some .load) true with
      | (.frame key _ _, s) => loadGlobal s core lid vf va n h (some key) cnt atom
      | (_, s) => loadGlobal s core lid vf va n h none cnt atom
  | .global va key => loadGlobal s core lid vf va n h (some key) cnt atom

def storeAt (s : State) (core lid vf : Nat) (p : Place) (bs : List Byte) (h : Hint) (cnt : Bool := true) : State :=
  match p with
  | .vault key => memWrite s key bs
  | .cachedAt _ => s
  | .global va key => storeGlobal s core lid vf va bs h key cnt

/-! ### Instruction fetch (11 R262, 02 R69) -/

/-- The line of the core's instruction cache, once `bs` has been put into it. -/
def keepCode (s : State) (core base : Nat) (bs : List Byte) : State :=
  let s :=
    if !(s.icache.slice base 128).isEmpty || (heldLines s.icache core).length < icacheLines then s
    else
      let (i, s) := draw s (heldLines s.icache core).length
      let out := (heldLines s.icache core).getD i 0
      { s with icache := s.icache.filter fun kv => !inLine (out * 128) kv.1 }
  { s with icache := s.icache.setList base (bs.map (cleanEntry 0)) }

/-- The launch whose word is being fetched, if one is. -/
def fetcher (s : State) : Option Nat :=
  match s.cur with
  | .course us => (us.filterMap s.thread?).head?.map Thread.lid
  | .stream bid => (s.block? bid).map Block.lid
  | .none => none

/-- The 128-byte line of code that holds `a`, through L2. A line in the core's instruction cache may be used though memory
has changed: wholly, at each fetch (R69, log 10). One that is not there has its page's x looked at, also where L2 holds the
line (R262). -/
def fetchLine (s : State) (core vf : Nat) (a : DWord) : Except Trouble (List Byte) × State :=
  if !canonicalVa a then (.error (.trap 0x06), s)
  else if inVaultRange a then (.error (.trap 0x11), s)
  else
    let va := remap s vf a
    let base := lineBase core vf va
    let base2 := lineBase (coreRow core) vf va
    let mine := cacheBytes s.icache base 128
    let useCache : Bool × State :=
      if cached s.icache base 128 then
        let now : Option (List Byte) :=
          if lineFull s.l2 base2 then some (cacheBytes s.l2 base2 128)
          else match translate s vf a (some .fetch) with
            | (.frame key _ _, _) =>
              let mbase := key - va57 va % 128
              some ((List.range 128).map fun i =>
                let e := s.l2.get (base2 + i)
                if entryValid e && entryDirty e then entryByte e else memByte s (mbase + i))
            | _ => none
        match now with
        | none => (true, s)
        | some bs => if bs = mine then (true, s) else let (c, s) := draw s 2; (c == 0, s)
      else (false, s)
    let s := useCache.2
    if useCache.1 then (.ok mine, s)
    else
      match translate s vf a (some .fetch) with
      | (.frame key _ _, s) =>
        let s := if lineFull s.l2 base2 then s else detect s (fetcher s) (key - va57 va % 128) 128
        let s := fillL2 s core vf va (some key)
        let bs := cacheBytes s.l2 base2 128
        (.ok bs, keepCode s core base bs)
      | (.notPresent, s) => (.error (.notPresent (pageOf a)), s)
      | (.prot, s) => (.error (.trap 0x11), s)

def codeWord (bs : List Byte) (a : DWord) : DWord := BitVec.ofNat 64 (ofBytes ((bs.drop (a.toNat % 128)).take 8))

/-- Eight bytes of code at `a`. -/
def fetchDword (s : State) (core vf : Nat) (a : DWord) : Except Trouble DWord × State :=
  match fetchLine s core vf a with
  | (.ok bs, s) => (.ok (codeWord bs a), s)
  | (.error e, s) => (.error e, s)

/-- The sixteen bytes of a word, or the failure with the address it failed at. Two lines are fetched one by one. -/
def fetchWord (s : State) (core vf : Nat) (a : DWord) : Except (Trouble × DWord) (BitVec 128) × State :=
  match fetchLine s core vf a with
  | (.error e, s) => (.error (e, a), s)
  | (.ok bs, s) =>
    if a.toNat % 128 ≤ 112 then (.ok (codeWord bs (a + 8) ++ codeWord bs a), s)
    else
      match fetchLine s core vf (a + 8) with
      | (.error e, s) => (.error (e, a + 8), s)
      | (.ok cs, s) => (.ok (codeWord cs (a + 8) ++ codeWord bs a), s)

end Sys2Proof.Machine
end

