-- ==== Sys2Proof/Machine/Operands.lean ====
section
/-! DEFINITION. What an instruction word reads and writes, by its opcode: operand widths (R21), predicates, latency
(Table 2-4), placement (R36, R55, R125). The picker reads it of the word it is about to issue (R63–R65, R315); the
meanings check operands against it. Then the reading and writing of registers, predicates and guards (01 R20–R25). -/

namespace Sys2Proof

/-- Registers of each operand field, 0 where the field names none; `imm` 1 when B may be an immediate, 2 when C may. -/
structure Widths where
  d : Nat
  a : Nat
  b : Nat
  c : Nat
  e : Nat
  imm : Nat
deriving DecidableEq, Repr

/-- Operand widths by opcode range (Tables 5-6 to 5-9, 6-2, 6-6, 7-2, 7-3 and the entries). -/
def widthRows : List (Nat × Nat × Widths) := [
  -- control
  (0x002, 0x002, ⟨0, 2, 0, 0, 0, 0⟩), (0x004, 0x004, ⟨0, 2, 0, 0, 0, 0⟩), (0x007, 0x007, ⟨0, 0, 8, 0, 0, 0⟩),
  (0x008, 0x008, ⟨1, 2, 0, 0, 0, 0⟩), (0x00A, 0x00A, ⟨1, 0, 0, 0, 0, 0⟩), (0x00B, 0x00B, ⟨0, 1, 0, 0, 0, 0⟩),
  (0x013, 0x013, ⟨0, 2, 1, 0, 0, 0⟩),
  -- integer
  (0x021, 0x021, ⟨2, 2, 2, 0, 0, 1⟩), (0x023, 0x023, ⟨2, 2, 2, 0, 0, 1⟩), (0x028, 0x029, ⟨2, 1, 1, 0, 0, 1⟩),
  (0x02A, 0x02A, ⟨1, 1, 1, 1, 0, 1⟩), (0x02B, 0x02C, ⟨2, 1, 1, 2, 0, 1⟩), (0x02D, 0x02D, ⟨2, 2, 2, 2, 0, 1⟩),
  (0x036, 0x037, ⟨1, 1, 0, 0, 0, 0⟩), (0x03B, 0x03B, ⟨1, 1, 0, 0, 0, 0⟩), (0x03C, 0x03C, ⟨1, 1, 1, 1, 0, 0⟩),
  (0x041, 0x042, ⟨1, 1, 1, 1, 0, 2⟩), (0x043, 0x045, ⟨1, 1, 0, 0, 0, 0⟩), (0x048, 0x048, ⟨1, 1, 1, 1, 0, 1⟩),
  (0x049, 0x04A, ⟨0, 1, 1, 0, 0, 1⟩), (0x04B, 0x04C, ⟨0, 2, 2, 0, 0, 1⟩), (0x04E, 0x04F, ⟨1, 1, 1, 1, 0, 0⟩),
  (0x05A, 0x05A, ⟨1, 1, 1, 1, 0, 0⟩), (0x05B, 0x05B, ⟨1, 1, 1, 1, 1, 0⟩), (0x05C, 0x05C, ⟨1, 1, 1, 1, 0, 2⟩),
  (0x060, 0x060, ⟨0, 0, 0, 0, 0, 0⟩), (0x061, 0x061, ⟨1, 0, 0, 0, 0, 0⟩), (0x062, 0x062, ⟨0, 1, 0, 0, 0, 0⟩),
  (0x063, 0x065, ⟨2, 2, 1, 0, 0, 1⟩), (0x020, 0x065, ⟨1, 1, 1, 0, 0, 1⟩),
  -- float
  (0x080, 0x080, ⟨2, 2, 2, 0, 0, 0⟩), (0x084, 0x084, ⟨2, 2, 2, 0, 0, 0⟩), (0x088, 0x088, ⟨2, 2, 2, 0, 0, 0⟩),
  (0x08C, 0x08C, ⟨2, 2, 2, 2, 0, 0⟩), (0x08D, 0x08F, ⟨1, 1, 1, 1, 0, 0⟩), (0x090, 0x090, ⟨2, 2, 2, 0, 0, 0⟩),
  (0x094, 0x094, ⟨2, 2, 2, 0, 0, 0⟩), (0x098, 0x098, ⟨0, 2, 2, 0, 0, 0⟩), (0x099, 0x09B, ⟨0, 1, 1, 0, 0, 0⟩),
  (0x09C, 0x09C, ⟨2, 2, 2, 0, 0, 0⟩), (0x09E, 0x09E, ⟨2, 2, 0, 0, 0, 0⟩), (0x0A0, 0x0A0, ⟨2, 2, 0, 0, 0, 0⟩),
  (0x0A2, 0x0A2, ⟨2, 2, 0, 0, 0, 0⟩), (0x09F, 0x0A8, ⟨1, 1, 0, 0, 0, 0⟩), (0x0A9, 0x0AC, ⟨2, 2, 0, 0, 0, 0⟩),
  (0x0AD, 0x0AD, ⟨2, 2, 1, 0, 0, 0⟩), (0x0AE, 0x0AE, ⟨1, 1, 1, 0, 0, 0⟩), (0x0AF, 0x0AF, ⟨2, 2, 0, 0, 0, 0⟩),
  (0x0B0, 0x0B0, ⟨1, 1, 0, 0, 0, 0⟩), (0x0B1, 0x0B1, ⟨1, 2, 0, 0, 0, 0⟩), (0x0B2, 0x0B2, ⟨1, 1, 0, 0, 0, 0⟩),
  (0x0B3, 0x0B3, ⟨2, 1, 0, 0, 0, 0⟩), (0x0B4, 0x0B4, ⟨1, 2, 0, 0, 0, 0⟩), (0x0B5, 0x0B6, ⟨1, 1, 1, 0, 0, 0⟩),
  (0x0B7, 0x0B8, ⟨2, 1, 0, 0, 0, 0⟩), (0x0B9, 0x0BA, ⟨1, 1, 0, 0, 0, 0⟩), (0x0BB, 0x0BB, ⟨2, 2, 0, 0, 0, 0⟩),
  (0x0BC, 0x0BC, ⟨2, 1, 0, 0, 0, 0⟩), (0x0BD, 0x0BE, ⟨1, 1, 0, 0, 0, 0⟩), (0x0BF, 0x0BF, ⟨2, 2, 0, 0, 0, 0⟩),
  (0x0C0, 0x0C0, ⟨1, 2, 0, 0, 0, 0⟩), (0x0C1, 0x0C5, ⟨2, 0, 1, 0, 0, 0⟩), (0x0C6, 0x0C7, ⟨1, 1, 0, 0, 0, 0⟩),
  (0x080, 0x0C7, ⟨1, 1, 1, 0, 0, 0⟩),
  -- cross-lane
  (0x0D0, 0x0D3, ⟨1, 1, 1, 0, 0, 1⟩), (0x0D5, 0x0D9, ⟨1, 1, 0, 0, 0, 0⟩),
  -- memory
  (0x0E0, 0x0E4, ⟨1, 2, 0, 0, 0, 0⟩), (0x0E5, 0x0E5, ⟨2, 2, 0, 0, 0, 0⟩), (0x0E6, 0x0E6, ⟨4, 2, 0, 0, 0, 0⟩),
  (0x0E7, 0x0E9, ⟨0, 2, 1, 0, 0, 0⟩), (0x0EA, 0x0EA, ⟨0, 2, 2, 0, 0, 0⟩), (0x0EB, 0x0EB, ⟨0, 2, 4, 0, 0, 0⟩),
  (0x0EC, 0x0EC, ⟨1, 2, 0, 0, 0, 0⟩), (0x0ED, 0x0ED, ⟨2, 2, 0, 0, 0, 0⟩), (0x0EE, 0x0EE, ⟨0, 2, 1, 0, 0, 0⟩),
  (0x0EF, 0x0EF, ⟨0, 2, 2, 0, 0, 0⟩), (0x0F0, 0x0F8, ⟨1, 2, 1, 0, 0, 0⟩), (0x0F9, 0x0F9, ⟨1, 2, 1, 1, 0, 0⟩),
  (0x0FC, 0x0FC, ⟨2, 2, 2, 2, 0, 0⟩), (0x0FA, 0x0FD, ⟨2, 2, 2, 0, 0, 0⟩), (0x0FE, 0x0FE, ⟨1, 2, 1, 0, 0, 0⟩),
  (0x0FF, 0x0FF, ⟨2, 2, 2, 0, 0, 0⟩), (0x100, 0x100, ⟨1, 2, 1, 0, 0, 0⟩), (0x101, 0x102, ⟨0, 2, 1, 0, 0, 0⟩),
  (0x104, 0x105, ⟨0, 2, 0, 0, 0, 0⟩), (0x106, 0x106, ⟨1, 1, 0, 0, 0, 0⟩), (0x107, 0x107, ⟨2, 1, 0, 0, 0, 0⟩),
  (0x108, 0x108, ⟨4, 1, 0, 0, 0, 0⟩), (0x109, 0x109, ⟨0, 1, 1, 0, 0, 0⟩), (0x10A, 0x10A, ⟨0, 1, 2, 0, 0, 0⟩),
  (0x10B, 0x10B, ⟨0, 1, 4, 0, 0, 0⟩), (0x10C, 0x10C, ⟨4, 2, 4, 4, 0, 0⟩), (0x10D, 0x10D, ⟨1, 2, 0, 0, 0, 0⟩),
  (0x10E, 0x10E, ⟨2, 2, 0, 0, 0, 0⟩), (0x10F, 0x10F, ⟨0, 2, 0, 0, 0, 0⟩),
  -- system
  (0x110, 0x110, ⟨1, 0, 0, 0, 0, 0⟩), (0x111, 0x111, ⟨0, 1, 0, 0, 0, 0⟩), (0x112, 0x112, ⟨1, 0, 0, 0, 0, 0⟩),
  (0x113, 0x113, ⟨2, 0, 0, 0, 0, 0⟩), (0x114, 0x114, ⟨0, 1, 0, 0, 0, 0⟩), (0x115, 0x115, ⟨2, 0, 0, 0, 0, 0⟩),
  (0x116, 0x117, ⟨1, 2, 0, 0, 0, 0⟩), (0x118, 0x118, ⟨0, 2, 0, 0, 0, 0⟩), (0x11A, 0x11A, ⟨2, 2, 1, 0, 0, 0⟩),
  (0x11B, 0x11B, ⟨0, 2, 1, 0, 0, 0⟩), (0x11C, 0x11C, ⟨0, 4, 0, 0, 0, 0⟩), (0x11D, 0x11D, ⟨1, 2, 0, 0, 0, 0⟩),
  -- engine commands
  (0x120, 0x120, ⟨1, 2, 0, 0, 0, 0⟩), (0x122, 0x124, ⟨0, 0, 1, 1, 0, 0⟩), (0x126, 0x126, ⟨2, 0, 0, 0, 0, 0⟩),
  (0x127, 0x12D, ⟨0, 2, 0, 0, 0, 0⟩), (0x12E, 0x12E, ⟨1, 2, 0, 0, 0, 0⟩), (0x12F, 0x12F, ⟨0, 2, 1, 1, 1, 0⟩),
  (0x130, 0x130, ⟨0, 2, 2, 0, 0, 0⟩), (0x131, 0x131, ⟨2, 2, 1, 0, 0, 0⟩), (0x132, 0x132, ⟨1, 2, 1, 0, 0, 0⟩),
  (0x133, 0x133, ⟨1, 2, 0, 0, 0, 0⟩), (0x134, 0x134, ⟨0, 2, 1, 1, 1, 0⟩), (0x135, 0x135, ⟨0, 2, 1, 0, 0, 0⟩),
  (0x136, 0x13B, ⟨0, 2, 0, 0, 0, 0⟩), (0x13C, 0x13C, ⟨2, 0, 0, 0, 0, 0⟩)]

def rowOf (op : Nat) : List (Nat × Nat × Widths) → Widths
  | [] => ⟨0, 0, 0, 0, 0, 0⟩
  | (lo, hi, w) :: rows => if lo ≤ op && op ≤ hi then w else rowOf op rows

/-- Widths of special registers (Table 1-4): 0 for an index not in the table. -/
def sregWidth (i : Nat) : Nat :=
  if i ≤ 0x08 || i = 0x0B || i = 0x13 || i = 0x14 || i = 0x16 || i = 0x18 || i = 0x19 then 32
  else if i = 0x09 || i = 0x0A || i = 0x10 || i = 0x11 || i = 0x12 || i = 0x15 || i = 0x17 || i = 0x1A || i = 0x1B then 64
  else 0
def sregWritable (i : Nat) : Bool := i == 0x10 || i == 0x11 || i == 0x12 || i == 0x13 || i == 0x14 || i == 0x18

/-- The operand widths of a word, with the modifiers that change them. -/
def Fields.widths (f : Fields) : Widths :=
  let op := f.op.toNat
  let w := rowOf op widthRows
  let immBit := f.mod1.getLsbD 4
  let w := if w.imm = 1 && immBit then { w with b := 0 } else if w.imm = 2 && immBit then { w with c := 0 } else w
  if op = 0x05D then { w with d := if f.mod0.getLsbD 0 then 2 else 1, a := if f.mod0.getLsbD 0 then 2 else 1, b := 0 }
  else if op = 0x05E then { w with d := if f.mod0.getLsbD 0 then 2 else 1, a := 0, b := 0 }
  else if op = 0x05F then { w with d := 2, a := if f.mod0.getLsbD 0 then 0 else 2, b := 0 }
  else if op = 0x0D4 then { w with d := boolBit (f.mod0.toNat % 4 == 2) }
  else if op = 0x0D9 then { w with a := if f.mod0.getLsbD 0 then 2 else 1 }
  else if op = 0x105 then { w with a := if f.mod0.getLsbD 1 then 0 else 2 }
  else if 0x106 ≤ op && op ≤ 0x10B then { w with a := boolBit (f.mod0.getLsbD 0) }
  else if 0x122 ≤ op && op ≤ 0x124 then (if f.mod1.getLsbD 3 then w else { w with b := 0, c := 0 })
  else if op = 0x130 then { w with b := if f.mod1.getLsbD 4 then 2 else 0 }
  else if op = 0x131 then { w with b := boolBit (f.mod0.toNat == 2 || f.mod0.toNat == 3) }
  else if op = 0x10D || op = 0x112 then { w with d := 2 ^ (f.mod0.toNat % 4) }
  else if op = 0x110 then { w with d := if f.mod0.getLsbD 0 || sregWidth f.imm.toNat = 64 then 2 else 1 }
  else if op = 0x111 then { w with a := if sregWidth f.imm.toNat = 64 then 2 else 1 }
  else w

/-- Fixed latency (Table 2-4); none for a variable one. -/
def Fields.latency (f : Fields) : Option Nat :=
  let op := f.op.toNat
  if op = 0x05D || op = 0x05E || (0x038 ≤ op && op ≤ 0x03C) || op = 0x04D || op = 0x05A || (0x060 ≤ op && op ≤ 0x062) then some 2
  else if (0x025 ≤ op && op ≤ 0x02D) || op = 0x04E || op = 0x04F then some 6
  else if 0x02E ≤ op && op ≤ 0x031 then none
  else if 0x020 ≤ op && op ≤ 0x065 then some 4
  else if 0x080 ≤ op && op ≤ 0x09B then some (if op % 4 = 0 then 8 else 4)
  else if 0x0AD ≤ op && op ≤ 0x0C5 then some 4
  else none

def Fields.isBranch (f : Fields) : Bool :=
  let op := f.op.toNat
  (decide (1 ≤ op) && decide (op ≤ 5)) || op == 0x013

/-- Words whose active lanes do not go on to the header that follows the block (R55, R116, R131). -/
def Fields.leaves (f : Fields) : Bool := f.isBranch || f.op == 0x006 || f.op == 0x00E

/-- The list of R36. -/
def Fields.nonIdem (f : Fields) : Bool :=
  let op := f.op.toNat
  op == 0x007 || op == 0x008 || (decide (0x0E7 ≤ op) && decide (op ≤ 0x0EB)) || op == 0x0EE || op == 0x0EF ||
  (decide (0x0F0 ≤ op) && decide (op ≤ 0x102)) || op == 0x10C || op == 0x10F ||
  (decide (0x116 ≤ op) && decide (op ≤ 0x119)) || (decide (0x11B ≤ op) && decide (op ≤ 0x11D)) ||
  (decide (0x120 ≤ op) && decide (op ≤ 0x13D))
/-- BAR.ARR and BAR.SYNC are placed by the same rule (R125). -/
def Fields.placedLast (f : Fields) : Bool := f.nonIdem || f.op == 0x00A || f.op == 0x00C

/-- Predicates written: pd, and for the two-element forms pd + 1; PPUT's mask. -/
def Fields.predDsts (f : Fields) : List Nat :=
  let op := f.op.toNat
  let pd0 := f.mod0.toNat % 8
  let pd1 := f.mod1.toNat % 8
  if op = 0x024 || (0x049 ≤ op && op ≤ 0x04C) || op = 0x060 || op = 0x098 || op = 0x099 then [pd0]
  else if op = 0x05B || op = 0x09A || op = 0x09B then [pd0, pd0 + 1]
  else if op = 0x062 then (List.range 7).filter fun i => f.imm.getLsbD i
  else if (0x0D0 ≤ op && op ≤ 0x0D4) || op = 0x0D9 || op = 0x10D || op = 0x13C then [pd1]
  else []

/-- Predicates read as operands; the guard's come beside them. -/
def Fields.predSrcs (f : Fields) : List Nat :=
  let op := f.op.toNat
  if op = 0x024 || op = 0x04D then [f.mod1.toNat % 8]
  else if op = 0x060 then [f.a.toNat % 8, f.b.toNat % 8]
  else if op = 0x061 then [0, 1, 2, 3, 4, 5, 6]
  else if op = 0x0D4 then [f.a.toNat % 8]
  else []

/-- Lane registers an operand covers. -/
def span (r : BitVec 8) (w : Nat) : List Nat :=
  if r.toNat < 0xE0 then (List.range w).map (r.toNat + ·) else []

/-- MXDQ's A covers a block packed in n registers (06). -/
def Fields.mxdqRegs (f : Fields) : Nat :=
  match f.op.toNat with
  | 0x0C1 => 8 | 0x0C2 => 8 | 0x0C3 => 6 | 0x0C4 => 6 | 0x0C5 => 4 | _ => 0

def Fields.regDsts (f : Fields) : List Nat := span f.d f.widths.d
def Fields.regSrcs (f : Fields) : List Nat :=
  let w := f.widths
  span f.a w.a ++ span f.b w.b ++ span f.c w.c ++ span f.e w.e ++ span f.a f.mxdqRegs ++
  (if f.op == 0x13D then span f.a f.imm.toNat else [])

/-- R21 on one operand of `w` registers. -/
def operandOk (budget : Nat) (isDst : Bool) (r : BitVec 8) (w : Nat) : Bool :=
  w == 0 ||
  (if r.toNat < 0xE0 then r.toNat % w == 0 && decide (r.toNat + w ≤ budget)
   else !isDst && (r.toNat - 0xE0) % w == 0)

/-- `n` registers from `r` on lie below the budget, or are block constants (R21). -/
def rangeOk (budget : Nat) (r : BitVec 8) (n : Nat) : Bool :=
  if r.toNat < 0xE0 then decide (r.toNat + n ≤ budget) else decide (r.toNat + n ≤ 0x100)

/-- The illegal-operand checks that depend on the word and the launch (R21, R26, the operands of MXDQ and MPOST). -/
def Fields.operandsOk (f : Fields) (budget : Nat) : Bool :=
  let w := f.widths
  operandOk budget true f.d w.d && operandOk budget false f.a w.a && operandOk budget false f.b w.b &&
  operandOk budget false f.c w.c && operandOk budget false f.e w.e &&
  (f.mxdqRegs == 0 || (f.a.toNat % 2 == 0 && rangeOk budget f.a f.mxdqRegs)) &&
  (f.op != 0x13D || decide (f.a.toNat + f.imm.toNat ≤ budget)) &&
  (f.op != 0x110 || sregWidth f.imm.toNat != 0) && (f.op != 0x111 || sregWritable f.imm.toNat)

end Sys2Proof

namespace Sys2Proof.Machine

/-! ### Register and predicate access -/

/-- v or k register of a thread. -/
def readReg (l : Launch) (t : Thread) (r : Reg) : Word :=
  if r.toNat < 0xE0 then t.regs.get r.toNat else l.consts.get (r.toNat - 0xE0)
def readPair (l : Launch) (t : Thread) (r : Reg) : DWord := mkPair (readReg l t r) (readReg l t (r + 1))
def readQuad (l : Launch) (t : Thread) (r : Reg) : BitVec 128 :=
  readPair l t (r + 2) ++ readPair l t r
/-- The operand marked I (R109), as 32 or 64 bits. -/
def readSrc (l : Launch) (t : Thread) : Src → Word
  | .reg r => readReg l t r
  | .imm v => sx 32 v
def readSrc64 (l : Launch) (t : Thread) : Src → DWord
  | .reg r => readPair l t r
  | .imm v => sx 64 v

def readPred (t : Thread) (p : Nat) : Bool := if p = 7 then true else t.preds.getLsbD p
def setPred (t : Thread) (p : Nat) (v : Bool) : Thread :=
  if 7 ≤ p then t
  else { t with preds := if v then t.preds ||| (1#7 <<< p) else t.preds &&& ~~~(1#7 <<< p) }
def setReg (t : Thread) (r : Nat) (v : Word) : Thread := { t with regs := t.regs.set r v }

/-- R25. -/
def guardHolds (g : Guard) (t : Thread) : Bool :=
  let x := readPred t g.g0.toNat != g.n0
  let y := readPred t g.g1.toNat != g.n1
  if g.orComb then x || y else x && y

/-- The write of a pair's two registers. -/
def pairWrites (r : Reg) (v : DWord) : List (Nat × Word) := [(r.toNat, pairLo v), (r.toNat + 1, pairHi v)]
def quadWrites (r : Reg) (v : BitVec 128) : List (Nat × Word) :=
  pairWrites r (v.setWidth 64) ++ pairWrites (r + 2) ((v >>> 64).setWidth 64)

/-- Counted commands outstanding in a class: sr.ecnt's field (R30). -/
def ecnt (t : Thread) (c : EngClass) : Nat := (t.ops.filter fun o => o.cls == c).length

end Sys2Proof.Machine
end

