-- ==== Sys2Proof/Machine/Access.lean ====
section
/-! DEFINITION. Accesses in flight (12 R283–R289). A thread's access is issued, and performed at some later time: what must
be performed before it is said once here, in `mustPrecede`. -/

namespace Sys2Proof.Machine

/-! ### Where accesses meet -/

/-- Where a place's first byte lies, to tell whether accesses meet. -/
def placeKey : Place → Nat
  | .vault k => k
  | .cachedAt va => va57 va + 2 ^ 70
  | .global va _ => va57 va + 2 ^ 70

def AccessAct.len : AccessAct → Nat
  | .load n _ _ _ => n
  | .store bs _ => bs.length
  | .rmw _ n _ _ _ _ _ => n
def AccessAct.rel? : AccessAct → Option Scope
  | .load _ _ _ _ => none
  | .store _ r => r
  | .rmw _ _ _ _ r _ _ => r

/-- The quad in whose vault a place lies. -/
def vaultOf : Place → Option Nat
  | .vault k => some ((k - vaultSpace) / 2 ^ 23)
  | _ => none

/-- Do `n` bytes at one key and `m` at another have a byte in common? -/
def rangesMeet (a n b m : Nat) : Bool := decide (a < b + m) && decide (b < a + n)
def Access.meets (x y : Access) : Bool := rangesMeet (placeKey x.place) x.act.len (placeKey y.place) y.act.len

/-- The page of a peer's memory in which a place lies. -/
def peerPage : Place → Option Nat
  | .global _ k => if peerSpace 0 ≤ k then some (k / 2 ^ 16) else none
  | _ => none
def samePeerPage (x y : Access) : Bool := (peerPage x.place).isSome && peerPage x.place == peerPage y.place
def sameVault (x y : Access) : Bool := (vaultOf x.place).isSome && vaultOf x.place == vaultOf y.place

/-- Must `x`, which was issued before `y`, be performed before it? In one thread, when they access one location, `y` is a
release (R283, R287), or they are the lower and the upper half of one access (07 R173); from one quad, when they go to one
vault (R289); from one core, when they go to one page of a peer (21 R371: a core is taken for its source, log 25). -/
def mustPrecede (x y : Access) : Bool :=
  (x.uid == y.uid && (x.meets y || y.act.rel?.isSome || (y.tail && x.id + 1 == y.id))) ||
  (coreQuad x.core == coreQuad y.core && sameVault x y) || (x.core == y.core && samePeerPage x y)

/-! ### Performing -/

def wordOf (bs : List Byte) : Word := BitVec.ofNat 32 (ofBytes bs)
/-- The registers a load writes from `d` on: words, lowest from the lowest address; or one extended value (Table 7-2). -/
def formRegs (form : LoadForm) (d : Nat) (bs : List Byte) : List (Nat × Word) :=
  match form with
  | .words => (List.range (bs.length / 4)).map fun i => (d + i, wordOf ((bs.drop (4 * i)).take 4))
  | .bits n signed =>
    let b : BitVec n := BitVec.ofNat n (ofBytes bs)
    [(d, if signed then sx 32 b else zx 32 b)]

/-- A result in flight receives what one of the accesses that give it has read. -/
def Pend.receive (regs : List (Nat × Word)) (q : Pend) : Pend :=
  { q with
    regs := q.regs.map fun w => ((regs.find? fun r => r.1 == w.1).getD w)
    due := match q.due with
      | .loading (n + 2) => .loading (n + 1)
      | .loading _ => .any
      | d => d }
def giveRegs (s : State) (uid pend seen : Nat) (regs : List (Nat × Word)) : State :=
  updThread s uid fun t =>
    { t with seen := max t.seen seen, pend := t.pend.map fun q => if q.id == pend then q.receive regs else q }

def seenBy (s : State) (uid : Nat) : Nat := ((s.thread? uid).map Thread.seen).getD 0

/-- The release that a write carries, once the thread's earlier accesses have been performed. A write to host memory under
.sy has the links flushed before it (21 R363). -/
def releaseNow (s : State) (uid core vf : Nat) (sc : Scope) (toHost : Bool := false) : State :=
  let s := carry (release s core vf sc) core (seenBy s uid) sc
  if toHost && sc == .sy then flushLinks s vf else s

def placeHost : Place → Bool
  | .global _ k => isHostKey k
  | _ => false

/-- The access takes effect. -/
def performOne (s : State) (x : Access) : State :=
  let s : State := { s with flight := s.flight.filter fun y => y.id != x.id }
  let s := match x.act.rel? with
    | some sc => releaseNow s x.uid x.core x.vf sc (placeHost x.place)
    | none => s
  match x.act with
  | .load n form d pend =>
    let seen := loadSeen s x.core x.vf x.place n x.hint
    let (bs, s) := loadAt s x.core x.lid x.vf x.place n x.hint x.first
    giveRegs s x.uid pend seen (formRegs form d bs)
  | .store bs _ => storeAt s x.core x.lid x.vf x.place bs x.hint x.first
  | .rmw op n b c _ d pend =>
    let seen := loadSeen s x.core x.vf x.place n x.hint
    let (old, s) := loadAt s x.core x.lid x.vf x.place n x.hint x.first true
    let s := storeAt s x.core x.lid x.vf x.place (bytesOf n (atomNew op n b c (ofBytes old))) x.hint false
    match d with
    | some d => giveRegs s x.uid pend seen (formRegs .words d old)
    | none => updThread s x.uid fun t => { t with seen := max t.seen seen }

/-- The wanted accesses of a list, with those that must be performed before them. -/
def needed (want : Access → Bool) : List Access → List Access
  | [] => []
  | x :: xs =>
    let ys := needed want xs
    if want x || ys.any (mustPrecede x) then x :: ys else ys

/-- The wanted accesses are performed now. -/
def settle (s : State) (want : Access → Bool) : State := (needed want s.flight).foldl performOne s
def settleThread (s : State) (uid : Nat) : State := settle s fun x => x.uid == uid
def settleBlock (s : State) (bid : Nat) : State := settle s fun x => x.bid == bid
/-- A thread's accesses to a location that it is about to access within an instruction (R283). -/
def settleAt (s : State) (uid key n : Nat) : State :=
  settle s fun x => x.uid == uid && rangesMeet (placeKey x.place) x.act.len key n

/-- May the access be performed now? -/
def performable (s : State) (id : Nat) : Bool :=
  match s.flight.find? fun x => x.id == id with
  | none => false
  | some x => !((s.flight.takeWhile fun y => y.id != id).any fun y => mustPrecede y x)

/-- A release by a thread: its earlier accesses are performed first (R289), and what it has read is carried (R287). -/
def releaseBy (s : State) (uid core vf : Nat) (sc : Scope) : State := releaseNow (settleThread s uid) uid core vf sc

/-- An access joins those in flight. One that the caches serve is performed at once, and so is one that must be: `now`. -/
def sendAccess (s : State) (x : Access) (now : Bool := false) : State :=
  let (id, s) := fresh s
  let s : State := { s with flight := s.flight ++ [{ x with id := id }] }
  match x.place with
  | .cachedAt _ => settle s fun y => y.id == id
  | _ => if now then settle s fun y => y.id == id else s

/-! ### What an instruction issues -/

/-- The place `k` bytes on. -/
def Place.plus (p : Place) (k : Nat) : Place :=
  match p with
  | .vault key => .vault (key + k)
  | .cachedAt va => .cachedAt (va + BitVec.ofNat 64 k)
  | .global va key => .global (va + BitVec.ofNat 64 k) (key + k)

/-- The single-copy atomic pieces of an access of `n` bytes: at most 8 bytes each (07 R173). -/
def pieces (n : Nat) : List (Nat × Nat) :=
  if n ≤ 8 then [(0, n)] else (List.range (n / 8)).map fun i => (8 * i, 8)

/-- The point at which a hint performs an access: L1, L2, beyond. -/
def hintPoint : Hint → Nat
  | .byl1 => 1 | .byl2 => 2 | _ => 0
def widerHint (h g : Hint) : Hint := if hintPoint h < hintPoint g then g else h

/-- The widest scope of a thread's release fences, once it has met one more (12 R288). At .cr the point is the core's L1, where
every store is performed. -/
def widerFence (o : Option Scope) (sc : Scope) : Option Scope :=
  if scopeLevel sc = 0 then o
  else match o with
    | some r => if scopeLevel r < scopeLevel sc then some sc else some r
    | none => some sc

/-- A store or atomic that follows a FENCE.rel in program order is performed at the fence's point at least (12 R288, log 81). -/
def fencedHint (t : Thread) (h : Hint) : Hint :=
  match t.relScope with
  | some sc => widerHint h (pointHint sc)
  | none => h
/-- One to host memory after a FENCE.rel under .sy has the links flushed before it (21 R363). -/
def flushFenced (s : State) (t : Thread) (vf : Nat) (p : Place) : State :=
  if t.relScope == some .sy && placeHost p then flushLinks s vf else s

/-- An access to the vault acts at quad scope at least (07 R175). -/
def placeScope (p : Place) (sc : Scope) : Scope :=
  match p with
  | .vault _ => if scopeLevel sc = 0 then .qd else sc
  | _ => sc

end Sys2Proof.Machine
end

