-- ==== Sys2Proof/Machine/Ops.lean ====
section
/-! DEFINITION. The shared operations on threads: results in flight and their landing (02 R62–R64), saves and restarts
(01 R32–R37), entering a header (02 R53), divergence and merge holds (14 R318, R320), barriers (01 R40, R41), cross-lane
arrivals withdrawn (06 R162), taking a trap (05 R129) and the issue of an instruction word (01 R25, 02 R61–R67). -/

namespace Sys2Proof.Machine

/-- The end of every step: a fault when an access met no memory, else the next state. -/
def done (s : State) : Host.Outcome State Fault Refusal :=
  match s.hole with
  | some a => .fault (.noSuchAddress a)
  | none => .next s

/-! ### Results in flight -/

/-- Has the value been given? -/
def Pend.known (p : Pend) : Bool :=
  match p.due with
  | .fixed _ | .any => true
  | _ => false

/-- Do two results write a register or predicate in common? -/
def sameTarget (p q : Pend) : Bool :=
  p.regs.any (fun v => q.regs.any fun w => v.1 == w.1) || p.preds.any fun v => q.preds.any fun w => v.1 == w.1
def Pend.isFixed (p : Pend) : Bool :=
  match p.due with
  | .fixed _ => true
  | _ => false
/-- Is an earlier write of fixed latency to a register or predicate of result `id` outstanding? Writes to one register land
in issue order (R63). -/
def behindFixed (t : Thread) (id : Nat) : Bool :=
  t.pend.any fun p => p.id == id && (t.pend.takeWhile fun q => q.id != id).any fun q => q.isFixed && sameTarget p q

def landOne (t : Thread) (p : Pend) : Thread :=
  let t := p.regs.foldl (fun t w => setReg t w.1 w.2) t
  p.preds.foldl (fun t w => setPred t w.1 w.2) t

/-- Every known result in flight written, in issue order: what a save holds (R33, R121). -/
def landKnown (t : Thread) : Thread := (t.pend.filter (·.known)).foldl landOne t

/-- Has its landing clock come? -/
def Pend.dueAt (p : Pend) (clk : Nat) : Bool :=
  match p.due with
  | .fixed c => decide (c ≤ clk)
  | _ => false

/-- Fixed-latency writes whose landing clock has come are written (R63). -/
def landDue (t : Thread) (clk : Nat) : Thread :=
  let t' := (t.pend.filter (·.dueAt clk)).foldl landOne t
  { t' with pend := t.pend.filter fun p => !p.dueAt clk }

/-- Adds a result in flight. -/
def addPend (s : State) (uid : Nat) (p : Pend) : State :=
  let (id, s) := fresh s
  updThread s uid fun t => { t with pend := t.pend ++ [{ p with id := id }] }

/-- The clock at which a write of fixed latency lands: its own, or that of an earlier write of the same register or
predicate which lands later (R63, log 76). -/
def landingClock (pend : List Pend) (own : Nat) (same : Pend → Bool) : Nat :=
  (pend.filter same).foldl (fun n p => match p.due with | .fixed c => max n c | _ => n) own

/-- The writes of one instruction of fixed latency, each with its own landing clock. -/
def fixedPends (id own : Nat) (pend : List Pend) (regs : List (Nat × Word)) (preds : List (Nat × Bool)) : List Pend :=
  (regs.map fun w => { id := id, due := .fixed (landingClock pend own fun p => p.regs.any fun v => v.1 == w.1), regs := [w] }) ++
  (preds.map fun w => { id := id, due := .fixed (landingClock pend own fun p => p.preds.any fun v => v.1 == w.1), preds := [w] })

/-- A write to p7 is discarded (R24). -/
def keptPreds (preds : List (Nat × Bool)) : List (Nat × Bool) := preds.filter fun w => decide (w.1 < 7)

/-- Writes of one instruction: at t + L, or as a variable-latency result. -/
def sendResult (s : State) (uid : Nat) (lat : Option Nat) (regs : List (Nat × Word)) (preds : List (Nat × Bool))
    (long : Bool := false) (ckpt : Bool := false) (load : Bool := false) : State :=
  let preds := keptPreds preds
  if regs.isEmpty && preds.isEmpty then s
  else
    match lat with
    | none => addPend s uid { id := 0, due := .any, regs := regs, preds := preds, long := long, ckpt := ckpt, load := load }
    | some n =>
      let (id, s) := fresh s
      updThread s uid fun t => { t with pend := t.pend ++ fixedPends id (s.clock + n) t.pend regs preds }

/-- A result that `n` accesses will give: its name, and the state in which its registers are marked. -/
def openResult (s : State) (uid n : Nat) (regs : List Nat) (preds : List (Nat × Bool)) (long ckpt load : Bool) : Nat × State :=
  let (id, s) := fresh s
  (id, updThread s uid fun t => { t with pend := t.pend ++
    [{ id := id, due := .loading n, regs := regs.map fun r => (r, 0), preds := keptPreds preds, long := long, ckpt := ckpt,
       load := load }] })

/-! ### Engine counters (01 R30, R31; 05 R124) -/

/-- Completed operations of a class leave the thread's list, oldest first: one whose older sibling is still out waits. -/
def retire (c : EngClass) : Bool → List EngOp → List EngOp
  | _, [] => []
  | blocked, o :: os =>
    if o.cls == c then (if o.done && !blocked then retire c blocked os else o :: retire c true os)
    else o :: retire c blocked os

/-- WAITC's acquire of the class's completed operations (R124, Table 8-3). -/
def acquireEngine (s : State) (uid : Nat) (c : EngClass) : State :=
  match s.thread? uid with
  | none => s
  | some t =>
    if !t.acq.contains c then s
    else
      let s := updThread s uid fun t => { t with acq := t.acq.filter (· != c) }
      acquire s (((s.block? t.bid).map Block.core).getD 0) (vfOf s t.lid) (if c == .mx then .qd else .sy)

/-- A counted operation of a thread completes; a WAITC that this satisfies ends, with its acquire. -/
def completeOp (s : State) (uid id : Nat) : State :=
  match s.thread? uid with
  | none => s
  | some t =>
    match t.ops.find? fun o => o.id == id with
    | none => s
    | some o =>
      let ops := retire o.cls false (t.ops.map fun x => if x.id == id then { x with done := true } else x)
      let acq := if ops.length < t.ops.length && !t.acq.contains o.cls then o.cls :: t.acq else t.acq
      let s := updThread s uid fun t => { t with ops := ops, acq := acq }
      match t.wait with
      | .counter c n =>
        if c == o.cls && (ops.filter fun x => x.cls == c).length ≤ n then
          updThread (acquireEngine s uid c) uid fun t => { t with wait := .none }
        else s
      | _ => s

/-- What a class's counter of a thread may come to: its operations, and for tr the TOPENs whose answer is still out (R30). -/
def claims (s : State) (t : Thread) (c : EngClass) : Nat :=
  let asks (o : EOp) : Bool := o.uid == some t.uid && (match o.work with | .topen _ _ => true | _ => false)
  ecnt t c + if c == .tr then (s.ops.filter asks).length else 0

/-- Issues a counted operation: its name, the thread's counter raised (R30). -/
def startOp (s : State) (t : Thread) (core vf : Nat) (pc : DWord) (c : EngClass) (pend : Nat) (work : Nat → Work) : State :=
  let (id, s) := fresh s
  let s := updThread s t.uid fun t => { t with ops := t.ops ++ [{ id := id, cls := c }] }
  { s with ops := s.ops ++ [{ id := id, vf := vf, lid := t.lid, bid := t.bid, uid := some t.uid, core := core, pc := pc,
                              pend := pend, work := work id }] }

/-- A thread's latest save receives a value it still awaited (R121). -/
def landPallet (x : Pallet) (p : Pend) : Pallet :=
  let regs := (p.regs.filter fun w => decide (w.1 < x.live)).foldl (fun m w => m.set w.1 w.2) x.regs
  let preds := p.preds.foldl (fun (m : BitVec 7) w =>
    if 7 ≤ w.1 then m else if w.2 then m ||| (1#7 <<< w.1) else m &&& ~~~(1#7 <<< w.1)) x.preds
  { x with regs := regs, preds := preds }

/-- The bytes of a pallet slot (Table 1-5, R33): the 48-byte header, then v_i at 48 + 4i. -/
def palletBytes (tid : Nat) (x : Pallet) : List Byte :=
  bytesOf 8 x.pc.toNat ++ bytesOf 8 x.rngc.toNat ++ bytesOf 8 x.stack.toNat ++ bytesOf 8 x.link.toNat ++
  bytesOf 4 (x.preds.toNat + x.fflags.toNat * 2 ^ 8 + boolBit x.part * 2 ^ 14 + x.live * 2 ^ 16) ++ bytesOf 4 tid ++ bytesOf 8 0 ++
  (List.range x.live).flatMap fun i => bytesOf 4 (x.regs.get i).toNat

/-- The save goes to the thread's pallet slot. -/
def putPallet (t : Thread) (x : Pallet) : Thread := { t with pallet := x, image := palletBytes t.tid x }

/-- A result in flight lands: its marks clear (R64), the save that awaited it is completed (R121), and the counted
operation it belongs to completes (R196). -/
def landNow (s : State) (uid id : Nat) : State :=
  match s.thread? uid with
  | none => s
  | some t =>
    match t.pend.find? fun p => p.id == id with
    | none => s
    | some p =>
      let s := updThread s uid fun t =>
        let pallet := if p.ckpt then landPallet t.pallet p else t.pallet
        let u := { landOne t p with pend := t.pend.filter fun q => q.id != id }
        let u := if p.ckpt then putPallet u pallet else u
        if t.life == .parked then { u with regs := pallet.regs, preds := pallet.preds } else u
      match p.op with
      | some o => completeOp s uid o
      | none => s

/-- The engine answers: the result in flight is known and lands at once (R196), unless an earlier write of its registers has
still to land (R63): then it lands later, and `op` is the operation that completes with it. -/
def answerPend (s : State) (uid id : Nat) (regs : List (Nat × Word)) (preds : List (Nat × Bool)) (op : Option Nat := none) : State :=
  let late := ((s.thread? uid).map fun t => behindFixed t id).getD false
  let s := updThread s uid fun t =>
    { t with pend := t.pend.map fun p =>
        if p.id == id then { p with due := .any, regs := regs, preds := keptPreds preds, op := if late then op else p.op } else p }
  if late then s else landNow s uid id

def State.op? (s : State) (id : Nat) : Option EOp := s.ops.find? fun o => o.id == id
def updOp (s : State) (id : Nat) (f : EOp → EOp) : State :=
  { s with ops := s.ops.map fun o => if o.id == id then f o else o }

/-- An engine operation is over: its result lands and its counter falls (R30, R31, R197). -/
def finishOp (s : State) (o : EOp) (regs : List (Nat × Word)) (preds : List (Nat × Bool)) : State :=
  let s := { s with ops := s.ops.filter fun x => x.id != o.id }
  match o.uid with
  | none => s
  | some u =>
    let late := ((s.thread? u).map fun t => behindFixed t o.pend).getD false
    let s := answerPend s u o.pend regs preds (some o.id)
    if late then s else completeOp s u o.id

/-- A result that an engine will give: marked from now on, awaited by the region checkpoint (R64, R121). -/
def awaitResult (s : State) (uid : Nat) (regs : List Nat) (preds : List Nat) : Nat × State :=
  let (id, s) := fresh s
  (id, updThread s uid fun t => { t with pend := t.pend ++
    [{ id := id, due := .unanswered, regs := regs.map fun r => (r, 0), preds := keptPreds (preds.map fun p => (p, false)),
       ckpt := true }] })

/-! ### Slots -/

def State.slotOf? (s : State) (uid : Nat) : Option Slot := s.slots.find? fun x => x.uids.contains uid

/-- Threads leave their slots; an empty slot is gone. -/
def leaveSlots (s : State) (uids : List Nat) : State :=
  let left := s.slots.map fun x => { x with uids := x.uids.filter fun u => !uids.contains u }
  { s with slots := left.filter fun x => !x.uids.isEmpty }

def coreOf (s : State) (t : Thread) : Nat := ((s.block? t.bid).map Block.core).getD 0

/-! ### Saves and restarts -/

/-- The save of a thread that will resume at header `pc` with `live` registers (R33). -/
def saveOf (t : Thread) (pc : DWord) (live : Nat) : Pallet :=
  let v := landKnown t
  { pc := pc, rngc := t.rngc, stack := t.stack, link := t.link, preds := v.preds, fflags := t.fflags, part := t.part,
    live := live, regs := v.regs.filter fun r => decide (r.1 < live), hash := t.hash }

/-- A save is written. The values that loads and engines have still to give are awaited by it (R121). -/
def writeSave (s : State) (uid : Nat) (pc : DWord) (live : Nat) : State :=
  match s.thread? uid with
  | none => s
  | some t =>
    let save (t : Thread) : Thread :=
      putPallet { t with pend := t.pend.map fun p => if p.known then p else { p with ckpt := true } } (saveOf t pc live)
    countEvent (updThread s uid save) (coreOf s t) t.lid 0x0B 1

/-- A thread goes to its pallet, live state as saved there. Its next word waits for the landing clocks of the writes that it
had outstanding (R63). An answer a checkpoint still needs stays awaited (R121).
R319's "parked earliest" counts from here, also for a discarded thread, whose pages may be answered later: R50 does not say
from when it does (DESIGN CHOICE, log 77). -/
def restored (t : Thread) (clk : Nat) : Thread :=
  { t with
    hdr := t.pallet.pc, idx := 0, regs := t.pallet.regs, preds := t.pallet.preds, stack := t.pallet.stack,
    link := t.pallet.link, rngc := t.pallet.rngc, fflags := t.pallet.fflags, part := t.pallet.part,
    hash := t.pallet.hash, pend := t.pend.filter fun p => !p.known && p.ckpt, gate := none, readyAt := landingClock t.pend t.readyAt fun _ => true,
    life := .parked, wait := .none, raised := false, split := none, parkedAt := clk }

/-- A thread leaves the cross-lane instances it is held in (R162). An MRECV, which R121 covers, keeps its arrival: the
discard takes effect once its value has landed. The instance stays open, with the clock of its first active arrival, also
when no arrival is left in it: R162 does not say (DESIGN CHOICE, log 78). -/
def withdraw (s : State) (uid bid : Nat) : State :=
  let drop (x : XInst) : XInst :=
    match x.kind with
    | .mrecv _ => x
    | _ => { x with arrivals := x.arrivals.filter fun a => !(a.uid == uid && a.active) }
  updBlock s bid fun b => { b with xinsts := b.xinsts.map drop }

/-- R34: a discard of running and waiting threads; R35: a parked thread stays as it is. -/
def discard (s : State) (uids : List Nat) : State :=
  uids.foldl (fun s u =>
    match s.thread? u with
    | some t =>
      if t.life == .inSlot then
        updThread (leaveSlots (withdraw s u t.bid) [u]) u fun t => { restored t s.clock with entering := true }
      else s
    | none => s) s

/-- A thread that leaves its course at a header is saved there and parked (R33, R318, R320). -/
def parkAt (s : State) (uid : Nat) (H : DWord) (live : Nat) (split : Option Nat) (held entering : Bool) : State :=
  let s := leaveSlots (writeSave s uid H live) [uid]
  updThread s uid fun t => { restored t s.clock with split := split, mergeHeld := held, entering := entering }

/-! ### Demand paging: a requester asks for a walk (11 R266, R272) -/

def askWalk (s : State) (vf page : Nat) (acc : Acc) (who : Requester) : State :=
  let (id, s) := fresh s
  { s with walks := s.walks ++ [{ id := id, vf := vf, page := page, acc := acc, who := who }] }

/-- R171, R272: the course is discarded and held on every page that faulted; `own` pairs the lanes with the addresses
that faulted in the word at `pc`. -/
def holdOnPages (s : State) (vf : Nat) (uids : List Nat) (own : List (Nat × DWord)) (pc : DWord) (acc : Acc) : State :=
  let pages := (own.map fun o => pageOf o.2).dedup
  let s := discard s uids
  let s := uids.foldl (fun s u => updThread s u fun t =>
    { t with heldPages := (t.heldPages ++ pages).dedup,
             ownFaults := (t.ownFaults ++ ((own.filter fun o => o.1 == u).map fun (o : Nat × DWord) => (⟨pageOf o.2, pc, o.2⟩ : OwnFault))).dedup }) s
  pages.foldl (fun s pg => askWalk s vf pg acc
    (.threads uids ((own.filter fun o => pageOf o.2 == pg).map (·.1)))) s

/-! ### Taking a trap (05 R129) -/

/-- A trap of one thread: its code, the word it is charged to, and the faulting address. -/
structure TrapOf where
  uid : Nat
  code : BitVec 8
  pc : DWord
  va : DWord
deriving DecidableEq, Repr

/-- The launch is terminating: the first cause stands, and among traps of one clock the lowest sr.tid. -/
def beginTerm (s : State) (lid : Nat) (tm : Term) : State :=
  match s.launch? lid with
  | none => s
  | some l =>
    match l.term with
    | none => updLaunch s lid fun l => { l with term := some tm }
    | some o =>
      if o.clock == tm.clock && o.kind == 1 && tm.kind == 1 && !o.stopped then
        let keep := if tm.tid < o.tid then { tm with stopAt := o.stopAt } else o
        updLaunch s lid fun l => { l with term := some { keep with nthr := o.nthr + tm.nthr } }
      else s

/-- One thread takes a trap: its record keeps the trap state, it issues nothing more, its launch terminates. -/
def takeTrap (s : State) (x : TrapOf) : State :=
  match s.thread? x.uid with
  | none => s
  | some t =>
    let s := leaveSlots (withdraw s x.uid t.bid) [x.uid]
    let life (t : Thread) : Life := if t.life == .exited then .exited else .stopped
    let s := updThread s x.uid fun t =>
      { t with trap := x.code, trappc := x.pc, trapva := x.va, wait := .none, gate := none, life := life t }
    let (d, s) := draw s 257
    let blk := ((s.block? t.bid).map Block.idx).getD 0
    beginTerm s t.lid { kind := 1, code := x.code, tid := t.tid, blk := blk, pc := x.pc, va := x.va, nthr := 1,
                        clock := s.clock, stopAt := s.clock + d }

def takeTraps (s : State) (xs : List TrapOf) : State := xs.foldl takeTrap s

def trapAll (s : State) (uids : List Nat) (code : BitVec 8) (pc va : DWord) : State :=
  takeTraps s (uids.map fun u => ⟨u, code, pc, va⟩)

/-- The return from a discard: the thread re-enters as a parked thread at its saved header once every page it is held on
has been answered (R50, R276). -/
def restartReady (t : Thread) : Bool := t.heldPages.isEmpty && !t.mergeHeld && !t.roundHeld && t.pend.all (·.known)

/-! ### Headers (02 R53) -/

/-- The header at an address, as fetched: the word, a page that is not present, or a trap with its address. -/
inductive HeaderAt where
  | ok (w : DWord)
  | notPresent (page : Nat)
  | trap (code : BitVec 8) (va : DWord)
deriving DecidableEq, Repr

def headerAt (s : State) (core vf budget : Nat) (H : DWord) : HeaderAt × State :=
  match fetchDword s core vf H with
  | (.ok w, s) =>
    match (Header.of w).check budget with
    | some c => (.trap (BitVec.ofNat 8 c) 0, s)
    | none => (.ok w, s)
  | (.error (.notPresent p), s) => (.notPresent p, s)
  | (.error (.trap c), s) => (.trap (if c == 0x06 then 0x03 else c) (if c == 0x06 then 0 else H), s)

/-- The trap of a header for a thread that enters it, the lowest number of several; a SPAWN child's entry needs the region
flag too (05 R118, R67). -/
def entryTrap (budget : Nat) (spawned : Bool) (w : DWord) : Option (BitVec 8) :=
  let h := Header.of w
  match h.check budget with
  | some c => some (if c = 2 && spawned && !h.region then 0x01 else BitVec.ofNat 8 c)
  | none => if spawned && !h.region then some 0x01 else none

/-- Threads of a block still outside a merge hold's reach: running or waiting (R320). -/
def outsideThreads (s : State) (bid : Nat) : List Thread := s.threads.filter fun t => t.bid == bid && t.life == .inSlot

def heldAt (s : State) (bid : Nat) (H : DWord) : List Thread :=
  s.threads.filter fun t => t.bid == bid && t.mergeHeld && t.pallet.pc == H

/-- R320: the hold closes and its threads are eligible. -/
def closeHold (s : State) (bid : Nat) (H : DWord) : State :=
  let s := updBlock s bid fun b => { b with holds := b.holds.filter fun h => h.hdr != H }
  { s with threads := s.threads.map fun t =>
      if t.bid == bid && t.mergeHeld && t.pallet.pc == H then { t with mergeHeld := false } else t }

/-- Must the hold close in this clock? -/
def holdDue (s : State) (bid : Nat) (h : Hold) : Bool :=
  decide (32 ≤ (heldAt s bid h.hdr).length) || (outsideThreads s bid).isEmpty || decide (h.opened + h.wait ≤ s.clock)

/-- A thread enters a merge header: it is saved and held; the first opens the hold, which takes in the pallets that splits
have parked there (R320). -/
def enterMerge (s : State) (bid uid : Nat) (H : DWord) (h : Header) : State :=
  let isOpen := ((s.block? bid).map fun b => b.holds.any fun x => x.hdr == H).getD false
  let s := if isOpen then s else
    let s := updBlock s bid fun b => { b with holds := b.holds ++ [⟨H, s.clock, h.waitClocks⟩] }
    { s with threads := s.threads.map fun t =>
        if t.bid == bid && t.life == .parked && t.split.isSome && t.pallet.pc == H && t.uid != uid then { t with mergeHeld := true } else t }
  parkAt s uid H h.live none true false

/-! ### A tournament's rounds (19 R350, R351) -/

def State.scope? (s : State) (sid : Nat) : Option Tourn := s.scopes.find? fun x => x.sid == sid
def updScope (s : State) (sid : Nat) (f : Tourn → Tourn) : State :=
  { s with scopes := s.scopes.map fun x => if x.sid == sid then f x else x }
def updEntrant (s : State) (sid idx : Nat) (f : Entrant → Entrant) : State :=
  updScope s sid fun x => { x with entrants := x.entrants.map fun e => if e.idx == idx then f e else e }

/-- The allowance of the scope's current round (R349). -/
def Tourn.allowance (x : Tourn) : Nat :=
  if x.x then x.sched.getD (x.round - 1) 0 else x.a0 * 2 ^ (x.round - 1)

/-- The scope and entrant a launch belongs to, while the scope runs. -/
def entrantOf (s : State) (lid : Nat) : Option (Tourn × Entrant) :=
  match (s.launch? lid).map Launch.parent with
  | some (.entrant sid idx) =>
    match s.scope? sid with
    | some x => if x.ended then none else (x.entrants.find? fun e => e.idx == idx).map fun e => (x, e)
    | none => none
  | _ => none

/-- An entrant's threads that wait go to their latest saves and stay there until the next round (R351). -/
def parkWaiting (s : State) (uids : List Nat) : State :=
  uids.foldl (fun s u => updThread s u fun t => { t with roundHeld := true }) (discard s uids)

/-- An entrant's round closes (R351): waiting threads go to their latest saves, and every thread in a pallet stays there
until the next round. -/
def closeRound (s : State) (sid idx lid : Nat) : State :=
  let s := updEntrant s sid idx fun e => { e with isOpen := false }
  let s := discard s ((s.threads.filter fun t => t.lid == lid && t.life == .inSlot && t.wait != .none).map Thread.uid)
  { s with
    blocks := s.blocks.map fun b => if b.lid == lid then { b with holds := [] } else b
    threads := s.threads.map fun t =>
      if t.lid == lid && t.life == .parked then { t with mergeHeld := false, roundHeld := true, entering := true } else t }

/-- Has the round of the entrant that a launch is closed? -/
def roundShut (s : State) (lid : Nat) : Bool := ((entrantOf s lid).map fun x => !x.2.isOpen).getD false

/-- A split's reconvergence header has been entered (R318). -/
def noteReconv (s : State) (bid : Nat) (uids : List Nat) (H : DWord) : State :=
  let mark (x : Split) : Split := if x.reconv == H && uids.any x.keepers.contains then { x with reached := true } else x
  updBlock s bid fun b => { b with splits := b.splits.map mark }

/-- Threads in ascending sr.tid (R350). -/
def byTid (s : State) (uids : List Nat) : List Nat :=
  ((uids.filterMap s.thread?).mergeSort fun x y => decide (x.tid ≤ y.tid)).map Thread.uid

/-- A thread enters a checked header: the merge hold, the region checkpoint (R53, R320, R33). -/
def standOne (s : State) (bid core lid uid : Nat) (H w : DWord) : State :=
  let h := Header.of w
  let s := countEvent s core lid 3 1
  let s := updThread s uid fun t => { t with hdr := H, hword := w, idx := 0, entering := false, gate := none }
  if h.merge then enterMerge s bid uid H h
  else if h.region then writeSave s uid H h.live
  else s

/-- A thread parks at the checked header that a split sends it to (R318, R320). -/
def parkOne (s : State) (bid core lid uid : Nat) (H w : DWord) (sid : Nat) : State :=
  let h := Header.of w
  let isOpen := ((s.block? bid).map fun b => b.holds.any fun x => x.hdr == H).getD false
  parkAt (countEvent s core lid 3 1) uid H h.live (some sid) (h.merge && isOpen) false

def passGate (s : State) (bid core lid uid : Nat) (g : Gate) : State :=
  match g.park with
  | none => standOne s bid core lid uid g.hdr g.word
  | some sid => parkOne s bid core lid uid g.hdr g.word sid

/-- A thread goes to a checked header. An entrant's stands before it until the scope unit has made the charges of the clock. -/
def enterOne (s : State) (bid core lid uid : Nat) (g : Gate) : State :=
  match entrantOf s lid with
  | none => passGate s bid core lid uid g
  | some _ => updThread s uid fun t => { t with hdr := g.hdr, hword := g.word, idx := 0, gate := some g }

/-- The charge of R350 for one thread; a refused thread is saved at the header and parks. -/
def chargeOne (s : State) (uid : Nat) : State :=
  match s.thread? uid with
  | none => s
  | some t =>
    match t.gate, s.block? t.bid with
    | some g, some b =>
      let h := Header.of g.word
      match entrantOf s t.lid with
      | none => passGate s b.bid b.core t.lid uid g
      | some (x, e) =>
        if e.isOpen && decide (e.charge + h.length ≤ x.allowance) then
          passGate (updEntrant s x.sid e.idx fun e => { e with charge := e.charge + h.length }) b.bid b.core t.lid uid g
        else
          let s := updThread (parkAt s uid g.hdr h.live none false true) uid fun t => { t with roundHeld := true }
          if e.isOpen then closeRound s x.sid e.idx t.lid else s
    | _, _ => s

/-- The scope unit's charges of a clock, in ascending sr.tid (R350). -/
def chargeGates (s : State) : State :=
  (byTid s ((s.threads.filter fun t => t.gate.isSome).map Thread.uid)).foldl chargeOne s

/-- Threads that go to one checked header. -/
def standAt (s : State) (bid core lid : Nat) (uids : List Nat) (H w : DWord) : State :=
  (byTid s uids).foldl (fun s u => enterOne s bid core lid u ⟨H, w, none⟩) (noteReconv s bid uids H)

/-- The link registers that CALL and CALLX write once the target is checked (R111). -/
def linkAll (s : State) (uids : List Nat) (links : List (Nat × DWord)) : State :=
  links.foldl (fun s x => if uids.contains x.1 then updThread s x.1 fun t => { t with link := x.2 } else s) s

/-- Control enters header `H` (R53). The trap is charged to `pc`, or to the header itself when there is none. -/
def enterHeader (s : State) (uids : List Nat) (H : DWord) (pc : Option DWord) (links : List (Nat × DWord)) : State :=
  match uids.filterMap s.thread? with
  | [] => s
  | t0 :: _ =>
    match s.block? t0.bid, s.launch? t0.lid with
    | some b, some l =>
      match headerAt s b.core l.vf l.rcd.budget H with
      | (.notPresent _, s) => holdOnPages s l.vf uids (uids.map fun u => (u, H)) (pc.getD H) .fetch
      | (.trap c va, s) => trapAll s uids c (pc.getD H) va
      | (.ok w, s) => standAt (linkAll s uids links) b.bid b.core l.lid uids H w
    | _, _ => s

/-! ### Divergence (14 R318) -/

/-- Threads grouped by target. -/
def groupBy (dst : Nat → DWord) : List Nat → List (DWord × List Nat)
  | [] => []
  | u :: us =>
    let gs := groupBy dst us
    if gs.any (fun g => g.1 == dst u) then gs.map fun g => if g.1 == dst u then (g.1, u :: g.2) else g
    else (dst u, [u]) :: gs

/-- Does group `x` keep the slot rather than `y`? -/
def keepsSlot (Hn : DWord) (x y : DWord × List Nat) : Bool :=
  decide (y.2.length < x.2.length) ||
  (x.2.length == y.2.length && ((x.1 != Hn && y.1 == Hn) || ((x.1 != Hn || y.1 == Hn) && x.1.toNat ≤ y.1.toNat)))

def bestGroup (Hn : DWord) : List (DWord × List Nat) → Option (DWord × List Nat)
  | [] => none
  | g :: gs =>
    match bestGroup Hn gs with
    | none => some g
    | some o => some (if keepsSlot Hn g o then g else o)

/-- The header that threads go to; `next` is the header at `Hn`, where the word's decode has checked it already. -/
def targetAt (s : State) (b : Block) (l : Launch) (H Hn : DWord) (next : Option DWord) : HeaderAt × State :=
  match next with
  | some w => if H = Hn then (.ok w, s) else headerAt s b.core l.vf l.rcd.budget H
  | none => headerAt s b.core l.vf l.rcd.budget H

/-- The groups of a split whose headers may be entered, each with its header; the others trap, or are held on the page. A
target with bad fields, or a live count above the budget, gives R53's code, where R55 speaks of a bad branch target for every
header that is not valid (DESIGN CHOICE, log 94). -/
def checkGroups (b : Block) (l : Launch) (pc Hn : DWord) (next : Option DWord) (links : List (Nat × DWord)) :
    List (DWord × List Nat) → State → List (DWord × List Nat × DWord) × State
  | [], s => ([], s)
  | g :: gs, s =>
    let (x, s) := targetAt s b l g.1 Hn next
    let s := match x with
      | .notPresent _ => holdOnPages s l.vf g.2 (g.2.map fun u => (u, g.1)) pc .fetch
      | .trap c va => trapAll s g.2 c pc va
      | .ok _ => linkAll s g.2 links
    let (ok, s) := checkGroups b l pc Hn next links gs s
    (match x with | .ok w => (g.1, g.2, w) :: ok | _ => ok, s)

/-- The threads of a split go to their headers in ascending sr.tid (R350): the keepers enter, the others park. -/
def enterSplit (s : State) (b : Block) (l : Launch) (ok : List (DWord × List Nat × DWord)) (keep : DWord) (sid : Nat) : State :=
  let one (s : State) (u : Nat) : State :=
    match ok.find? fun g => g.2.1.contains u with
    | some g => enterOne s b.bid b.core l.lid u ⟨g.1, g.2.2, if g.1 == keep then none else some sid⟩
    | none => s
  (byTid s (ok.flatMap fun g => g.2.1)).foldl one s

/-- The lanes of a split whose own target has a trap of number `most` or below take it; the others are left (R67). -/
def trapTargets (b : Block) (l : Launch) (pc Hn : DWord) (next : Option DWord) (most : Nat) :
    List (DWord × List Nat) → State → List Nat × State
  | [], s => ([], s)
  | g :: gs, s =>
    match targetAt s b l g.1 Hn next with
    | (.trap c _, s) =>
      if c.toNat ≤ most then trapTargets b l pc Hn next most gs (trapAll s g.2 c pc 0)
      else let (us, s) := trapTargets b l pc Hn next most gs s; (g.2 ++ us, s)
    | (_, s) => let (us, s) := trapTargets b l pc Hn next most gs s; (g.2 ++ us, s)

/-- Where the block's header puts the reconvergence header (R54). -/
def reconvOf (H hword : DWord) : DWord := H + BitVec.ofInt 64 (8 * (Header.of hword).reconv)

/-- The threads that leave a block go to their headers; a course that goes to more than one is split. The reconvergence
header is checked then, and one that fails strikes the whole course; a lane whose own target has a trap of a lower number
takes that one (R54, R67, 11 R262). -/
def transfer (s : State) (b : Block) (l : Launch) (H hword pc : DWord) (uids : List Nat) (dst : Nat → DWord)
    (Hn : DWord) (next : Option DWord) (links : List (Nat × DWord)) : State :=
  match groupBy dst uids with
  | [] => s
  | [g] =>
    match targetAt s b l g.1 Hn next with
    | (.notPresent _, s) => holdOnPages s l.vf g.2 (g.2.map fun u => (u, g.1)) pc .fetch
    | (.trap c va, s) => trapAll s g.2 c pc va
    | (.ok w, s) => standAt (linkAll s g.2 links) b.bid b.core l.lid g.2 g.1 w
  | gs =>
    let none_ := (Header.of hword).reconv == 0
    let R := reconvOf H hword
    match (if none_ then (HeaderAt.ok 0, s) else headerAt s b.core l.vf l.rcd.budget R) with
    | (.notPresent _, s) =>
      let (held, s) := trapTargets b l pc Hn next 3 gs s
      holdOnPages s l.vf held (held.map fun u => (u, R)) pc .fetch
    | (.trap c va, s) =>
      let code : BitVec 8 := if c == 0x11 then 0x11 else 0x03
      let (rest, s) := trapTargets b l pc Hn next (if c == 0x11 then 3 else 2) gs s
      trapAll s rest code pc va
    | (.ok _, s) =>
      match bestGroup Hn gs with
      | none => s
      | some keep =>
        let (sid, s) := fresh s
        let s := if none_ then s else updBlock s b.bid fun b => { b with splits := b.splits ++ [⟨sid, R, keep.2, false⟩] }
        let (ok, s) := checkGroups b l pc Hn next links gs s
        let s := if ok.any fun g => g.1 == keep.1 then noteReconv s b.bid keep.2 keep.1 else s
        enterSplit s b l ok keep.1 sid

/-! ### Barriers (01 R40, R41; 05 R126) -/

def getBarrier (b : Block) (n : Nat) : Barrier := b.barriers.toList.getD n {}
def setBarrier (s : State) (bid n : Nat) (x : Barrier) : State :=
  updBlock s bid fun b => { b with barriers := b.barriers.setIfInBounds n x }

/-- Need(b): the expected count, or under ALL the threads that have not exited. -/
def barrierNeed (s : State) (bid : Nat) (x : Barrier) : Nat :=
  if x.expected = 0 then (s.threads.filter fun t => t.bid == bid && t.life != .exited).length else x.expected

/-- A completed barrier flips its phase, clears its arrivals and releases every waiter of the old phase (R41), whose waits
end with an acquire (R126, 09 R251). -/
def completeBarrier (s : State) (bid n : Nat) : State :=
  match s.block? bid with
  | none => s
  | some b =>
    let x := getBarrier b n
    let s := setBarrier s bid n { x with arrived := [], seq := 0, phase := !x.phase }
    let freed (t : Thread) : Bool :=
      t.bid == bid && (t.wait == .bar n x.phase || t.wait == .barSync n x.phase)
    let s : State := { s with threads := s.threads.map fun t => if freed t then { t with wait := .none } else t }
    let met := (b.stream.map fun y => y.wait == .bar n x.phase).getD false
    let go (y : Stream) : Stream := { y with wait := .none }
    let s := if met then updBlock s bid fun b => { b with stream := b.stream.map go } else s
    acquire s b.core (vfOf s b.lid) (if met then .qd else .cr)

/-- Completes the barrier when its arrivals have reached its need. -/
def checkBarrier (s : State) (bid n : Nat) : State :=
  match s.block? bid with
  | none => s
  | some b =>
    let x := getBarrier b n
    if x.arrived.length + x.seq = barrierNeed s bid x && x.arrived.length + x.seq != 0 then completeBarrier s bid n else s

/-- Arrive(t, b, c) of R126: the phase token, or none for a count mismatch. The first thread of a phase sets the count, also
after the sequencer has arrived. -/
def arriveBarrier (s : State) (bid uid n c : Nat) : Option (Bool × State) :=
  match s.block? bid with
  | none => none
  | some b =>
    let x := getBarrier b n
    if x.arrived.contains uid then some (x.phase, s)
    else if x.arrived.isEmpty || x.expected == c then
      some (x.phase, checkBarrier (setBarrier s bid n { x with expected := c, arrived := x.arrived ++ [uid] }) bid n)
    else none

/-- A thread exits: it counts as exited for barriers from this clock (R16, R40). -/
def exitThread (s : State) (uid : Nat) : State :=
  match s.thread? uid with
  | none => s
  | some t =>
    let s := leaveSlots (withdraw s uid t.bid) [uid]
    let s := updThread s uid fun t =>
      { t with life := .exited, wait := .none, gate := none, pend := t.pend.filter fun p => p.op.isSome }
    let s := (List.range 16).foldl (fun s n =>
      match s.block? t.bid with
      | some b => if (getBarrier b n).expected = 0 then checkBarrier s t.bid n else s
      | none => s) s
    -- R351: an entrant all of whose threads have exited closes its round, once every block of it has had a slot
    match entrantOf s t.lid, s.launch? t.lid with
    | some (x, e), some l =>
      if e.isOpen && l.placed == l.rcd.nblk && s.threads.all (fun t' => t'.lid != t.lid || t'.life == .exited)
      then closeRound s x.sid e.idx t.lid else s
    | _, _ => s

/-! ### The issue of an instruction word -/

/-- What a meaning knows of the course it runs for. -/
structure Ctx where
  f : Fields
  uids : List Nat                  -- the course
  act : List Nat                   -- its active lanes, in gang-lane order
  b : Block
  l : Launch
  core : Nat
  vf : Nat
  H : DWord                        -- header of the block
  pc : DWord                       -- the instruction word
  Hn : DWord                       -- header that follows the block
  next : Option DWord              -- that header, where the decode has read and checked it
  isLast : Bool

/-- What a meaning answers: the state with its effects, the lanes that trapped (no effect in them), the lanes whose page
is not present (then no lane has an effect), and the lanes that branch. -/
structure Fx where
  s : State
  traps : List TrapOf := []
  faults : List (Nat × DWord) := []
  acc : Acc := .load
  targets : List (Nat × DWord) := []
  links : List (Nat × DWord) := []

/-- One thread's state, by name, for a per-lane meaning. -/
def lanes (s : State) (c : Ctx) : List Thread := c.act.filterMap s.thread?

/-- R65: does the word touch a register or predicate of the thread whose fixed-latency write has not landed? -/
def touchesUnlanded (f : Fields) (p : Guard) (t : Thread) : Bool :=
  let rs := f.regSrcs ++ f.regDsts
  let ps := f.predSrcs ++ f.predDsts ++ [p.g0.toNat, p.g1.toNat]
  t.pend.any fun x =>
    match x.due with
    | .fixed _ => x.regs.any (fun w => rs.contains w.1) || x.preds.any (fun w => ps.contains w.1)
    | _ => false

/-- R323: entering a header updates the path hash. -/
def hashStep (h a : DWord) : DWord := ((h <<< 7 ||| h >>> 57) ^^^ a) * 0x9E3779B97F4A7C15#64

def isLive (s : State) (uid : Nat) : Bool := ((s.thread? uid).map fun t => t.life == .inSlot).getD false

/-- Members in ascending gang lane (R7). Lanes of one gang lane in several gangs: the lower gang first, which no rule says
(DESIGN CHOICE, log 80). -/
def byLane (ts : List Thread) : List Thread :=
  ts.mergeSort fun x y => decide (x.lane * 32 + x.gang ≤ y.lane * 32 + y.gang)

def waitsNow (s : State) (uid : Nat) : Bool := ((s.thread? uid).map fun t => t.wait != .none).getD false

/-- A thread that waits at the last word of its block stays there until its wait ends (R125, 06 R162). The checkpoint of a
non-idempotent word is written at once (R36). -/
def stayAtEnd (c : Ctx) (s : State) (uid : Nat) : State :=
  let s := if c.f.nonIdem then writeSave s uid c.Hn (Header.of (c.next.getD 0)).live else s
  updThread s uid fun t => { t with idx := t.idx + 1 }

/-- What an issue counts (Table 7-6). -/
def countIssue (c : Ctx) (s : State) : State :=
  let s := countEvent (countEvent s c.core c.l.lid 1 c.uids.length) c.core c.l.lid 2 c.act.length
  let s := countEvent s c.core c.l.lid 0x0C 1
  if (0x120 ≤ c.f.op.toNat ∧ c.f.op.toNat ≤ 0x13D) ∨ c.f.op = 0x116 then countEvent s c.core c.l.lid 0x10 c.act.length else s

/-- Where each lane of a course goes. -/
def laneTarget (c : Ctx) (fx : Fx) (u : Nat) : DWord := ((fx.targets.find? fun x => x.1 == u).map (·.2)).getD c.Hn

/-- After the effects: traps, or a page fault's discard, or the advance of the course. -/
def advance (p : Pre) (c : Ctx) (fx : Fx) : State :=
  let s := { fx.s with cur := .none }
  let s := takeTraps s fx.traps
  if !fx.faults.isEmpty then
    holdOnPages s c.vf (c.uids.filter (isLive s)) fx.faults c.pc fx.acc
  else
    let s := countIssue c s
    let s := c.uids.foldl (fun s u => updThread s u fun t =>
      { t with readyAt := s.clock + max p.stall.toNat 1, lastIssue := s.clock, raised := false }) s
    let s := { s with slots := s.slots.map fun x =>
                        if x.uids.any c.uids.contains then { x with stamp := s.clock, issued := true } else x }
    let live := c.uids.filter (isLive s)
    let s :=
      if !c.isLast then live.foldl (fun s u => updThread s u fun t => { t with idx := t.idx + 1 }) s
      else
        let stays := live.filter (waitsNow s)
        let goes := live.filter fun u => !waitsNow s u
        let dst (u : Nat) : DWord := laneTarget c fx u
        let hw := ((live.filterMap s.thread?).head?.map Thread.hword).getD 0
        transfer (stays.foldl (stayAtEnd c) s) c.b c.l c.H hw c.pc goes dst c.Hn c.next fx.links
    if roundShut s c.l.lid then parkWaiting s (live.filter (waitsNow s)) else s

/-- The traps of priorities 1 to 3 that lanes have of themselves: at a branch's targets (R55), and of SSET's value (R27). -/
def laneTraps (c : Ctx) (s : State) (fx : Fx) : List TrapOf :=
  if !c.f.isBranch && c.f.op != 0x111 then []
  else
    (fx.traps.filter fun x => decide (x.code.toNat ≤ 3)) ++
    fx.targets.filterMap fun x =>
      match (headerAt s c.core c.vf c.l.rcd.budget x.2).1 with
      | .trap code _ => if code.toNat ≤ 3 then some ⟨x.1, code, c.pc, 0⟩ else none
      | _ => none

/-- Does a branch split the course towards a reconvergence header that is not valid (R54)? -/
def reconvBad (c : Ctx) (hword : DWord) (s : State) (fx : Fx) : Bool :=
  c.f.isBranch && (Header.of hword).reconv != 0 &&
  decide (1 < (groupBy (laneTarget c fx) (c.uids.filter fun u => !fx.traps.any fun x => x.uid == u)).length) &&
  (match (headerAt s c.core c.vf c.l.rcd.budget (reconvOf c.H hword)).1 with
    | .trap code _ => code != 0x11
    | _ => false)

/-- The lanes' own traps that rank before one of number `code` that strikes the course (R67); translation faults rank after
the address traps. -/
def ownTraps (c : Ctx) (code : Nat) (s : State) (fx : Fx) : List TrapOf :=
  (laneTraps c s fx).filter (fun x => decide (x.code.toNat ≤ min code 3)) ++
  (if code = 0x11 then fx.traps.filter fun x => x.code == 0x05 || x.code == 0x06 else [])

/-- Each lane of a course takes its own trap of `own`, or else the one that strikes the course. -/
def trapEach (s : State) (uids : List Nat) (own : List TrapOf) (code : BitVec 8) (pc va : DWord) : State :=
  takeTraps s (uids.map fun u => (own.find? fun x => x.uid == u).getD ⟨u, code, pc, va⟩)

/-- The header that follows the block, where the word's decode checks it (R53, R61): a word of R36 or R125 needs it, and so
do lanes that fall through. -/
def followAt (s : State) (core vf : Nat) (Hn : DWord) (need : Bool) : Except Trouble (Option DWord) × State :=
  if need then
    match fetchDword s core vf Hn with
    | (.ok w, s) => (.ok (some w), s)
    | (.error e, s) => (.error e, s)
  else (.ok none, s)

/-- The encoding trap of the lowest number that a word has by its header, its operands and the header after it (R67); 0 for
none. -/
def encodingTrap (placed : Bool) (budget : Nat) (operands : Bool) (next : Except Trouble (Option DWord)) : Nat :=
  let least (x y : Nat) : Nat := if x = 0 then y else if y = 0 then x else min x y
  least (if operands then 0 else 2)
    (match next with
      | .ok none => 0
      | .ok (some w) => if placed && !(Header.of w).region then 1 else ((Header.of w).check budget).getD 0
      | .error (.trap 0x06) => if placed then 1 else 3
      | .error _ => 0)

/-- The issue of one word of thread code for the course in progress: encoding traps first (R61, R67), then the stall
check (R65), which looks at every thread of the course (R65 does not say whether an inactive lane's registers count:
DESIGN CHOICE, log 79), then what the header after the block needs of translation, then the effect in the active lanes (R25).
With no course in progress there is nothing to issue. -/
def issue (f : Fields) (p : Pre) (body : Ctx → State → Fx) (s : State) : Host.Outcome State Fault Refusal :=
  match s.cur with
  | .course us =>
    let s := us.foldl (fun s u => updThread s u fun t => landDue t s.clock) s
    let ts := byLane (us.filterMap s.thread?)
    match ts with
    | [] => done { s with cur := .none }
    | t0 :: _ =>
      match s.block? t0.bid, s.launch? t0.lid with
      | some b, some l =>
        let h := Header.of t0.hword
        let pc := t0.hdr + 8 + BitVec.ofNat 64 (16 * t0.idx)
        let Hn := t0.hdr + 8 + BitVec.ofNat 64 (16 * h.length)
        let isLast := t0.idx + 1 == h.length
        let uids := ts.map Thread.uid
        let act := (ts.filter (guardHolds p.g)).map Thread.uid
        if (f.isBranch || f.placedLast) && !isLast then done (trapAll { s with cur := .none } uids 0x01 pc 0)
        else
          let (next, s) := followAt s b.core l.vf Hn
            (isLast && (f.placedLast || uids.any fun u => !(f.leaves && act.contains u)))
          let code := encodingTrap f.placedLast l.rcd.budget (f.operandsOk l.rcd.budget) next
          if code != 0 then done (trapAll { s with cur := .none } uids (BitVec.ofNat 8 code) pc 0)
          else
            let c : Ctx := ⟨f, uids, act, b, l, b.core, l.vf, t0.hdr, pc, Hn, (next.toOption).join, isLast⟩
            if l.rcd.chk && !act.isEmpty && ts.any (touchesUnlanded f p.g) then
              let fx := body c s
              let code := if reconvBad c t0.hword s fx then 3 else 4
              done (trapEach { s with cur := .none } uids (ownTraps c code s fx) (BitVec.ofNat 8 code) pc 0)
            else
              match next with
              | .error e =>
                let fx := body c s
                if reconvBad c t0.hword s fx then done (trapEach { s with cur := .none } uids (ownTraps c 3 s fx) 0x03 pc 0)
                else
                  let own := ownTraps c 0x11 s fx
                  match e with
                  | .trap code => done (trapEach { s with cur := .none } uids own code pc Hn)
                  | .notPresent _ =>
                    let s := takeTraps { s with cur := .none } own
                    let held := uids.filter fun u => !own.any fun x => x.uid == u
                    done (holdOnPages s l.vf held (held.map fun u => (u, Hn)) pc .fetch)
              | .ok _ =>
                let s := if t0.idx = 0 then
                    uids.foldl (fun s u => updThread s u fun t => { t with hash := hashStep t.hash t.hdr }) s
                  else s
                let offer (x : Slot) : Slot := if x.uids.any uids.contains then { x with offer := true } else x
                let s := if p.yld then { s with slots := s.slots.map offer } else s
                done (advance p c (body c s))
      | _, _ => done { s with cur := .none }
  | _ => .next s

/-- The course's word is an encoding trap: every thread of it traps, whatever the guard (R61, R67). -/
def trapCourse (code : BitVec 8) (s : State) : Host.Outcome State Fault Refusal :=
  match s.cur with
  | .course us =>
    match us.filterMap s.thread? with
    | [] => done { s with cur := .none }
    | t0 :: _ => done (trapAll { s with cur := .none } us code (t0.hdr + 8 + BitVec.ofNat 64 (16 * t0.idx)) 0)
  | _ => .next s

/-- A per-lane meaning: each active lane's writes, flags raised, and the rest of the lane's state. -/
structure LaneFx where
  regs : List (Nat × Word) := []
  preds : List (Nat × Bool) := []
  flags : BitVec 6 := 0

/-- An instruction with effects only in each lane's registers, predicates and flags. -/
def alu (f : Fields) (p : Pre) (lane : Launch → Thread → LaneFx) (s : State) : Host.Outcome State Fault Refusal :=
  issue f p (fun c s =>
    { s := c.act.foldl (fun s u =>
        match s.thread? u with
        | none => s
        | some t =>
          let r := lane c.l t
          let s := sendResult s u f.latency r.regs r.preds
          updThread s u fun t => { t with fflags := t.fflags ||| r.flags }) s }) s

end Sys2Proof.Machine
end

