-- ==== Sys2Proof/Machine/Float.lean ====
section
/-! DEFINITION. The float class and the MX elements in lanes (06 R146–R157): per-element results of Flags.lean over the
shared issue. f64 operands are pairs; the x2 forms compute each half by itself and OR the flags (R87). -/

namespace Sys2Proof.Machine

def fBin64 (f : Fields) (p : Pre) (d a b : Reg) (fn : Fn2) (s : State) : Host.Outcome State Fault Refusal :=
  alu f p (fun l t =>
    let r := fn (readPair l t a).toNat (readPair l t b).toNat
    { regs := pairWrites d (BitVec.ofNat 64 r.1), flags := r.2 }) s
def fBin32 (f : Fields) (p : Pre) (d a b : Reg) (fn : Fn2) (s : State) : Host.Outcome State Fault Refusal :=
  alu f p (fun l t =>
    let r := fn (readReg l t a).toNat (readReg l t b).toNat
    { regs := [(d.toNat, BitVec.ofNat 32 r.1)], flags := r.2 }) s
def fBin16 (f : Fields) (p : Pre) (d a b : Reg) (fn : Fn2) (s : State) : Host.Outcome State Fault Refusal :=
  alu f p (fun l t =>
    let x := readReg l t a; let y := readReg l t b
    let r := join16 (fn (lo16 x) (lo16 y)) (fn (hi16 x) (hi16 y))
    { regs := [(d.toNat, r.1)], flags := r.2 }) s
def fTri64 (f : Fields) (p : Pre) (d a b c : Reg) (fn : Fn3) (s : State) : Host.Outcome State Fault Refusal :=
  alu f p (fun l t =>
    let r := fn (readPair l t a).toNat (readPair l t b).toNat (readPair l t c).toNat
    { regs := pairWrites d (BitVec.ofNat 64 r.1), flags := r.2 }) s
def fTri32 (f : Fields) (p : Pre) (d a b c : Reg) (fn : Fn3) (s : State) : Host.Outcome State Fault Refusal :=
  alu f p (fun l t =>
    let r := fn (readReg l t a).toNat (readReg l t b).toNat (readReg l t c).toNat
    { regs := [(d.toNat, BitVec.ofNat 32 r.1)], flags := r.2 }) s
def fTri16 (f : Fields) (p : Pre) (d a b c : Reg) (fn : Fn3) (s : State) : Host.Outcome State Fault Refusal :=
  alu f p (fun l t =>
    let x := readReg l t a; let y := readReg l t b; let z := readReg l t c
    let r := join16 (fn (lo16 x) (lo16 y) (lo16 z)) (fn (hi16 x) (hi16 y) (hi16 z))
    { regs := [(d.toNat, r.1)], flags := r.2 }) s
def fUn64 (f : Fields) (p : Pre) (d a : Reg) (fn : Fn1) (s : State) : Host.Outcome State Fault Refusal :=
  alu f p (fun l t =>
    let r := fn (readPair l t a).toNat
    { regs := pairWrites d (BitVec.ofNat 64 r.1), flags := r.2 }) s
def fUn32 (f : Fields) (p : Pre) (d a : Reg) (fn : Fn1) (s : State) : Host.Outcome State Fault Refusal :=
  alu f p (fun l t =>
    let r := fn (readReg l t a).toNat
    { regs := [(d.toNat, BitVec.ofNat 32 r.1)], flags := r.2 }) s
/-- A pair in, one register out, and the reverse. -/
def fDown (f : Fields) (p : Pre) (d a : Reg) (fn : Fn1) (s : State) : Host.Outcome State Fault Refusal :=
  alu f p (fun l t =>
    let r := fn (readPair l t a).toNat
    { regs := [(d.toNat, BitVec.ofNat 32 r.1)], flags := r.2 }) s
def fUp (f : Fields) (p : Pre) (d a : Reg) (fn : Fn1) (s : State) : Host.Outcome State Fault Refusal :=
  alu f p (fun l t =>
    let r := fn (readReg l t a).toNat
    { regs := pairWrites d (BitVec.ofNat 64 r.1), flags := r.2 }) s

/-! ### Element functions -/

def fSub (m : Fmt) (rm : Rm) (z : Bool) : Fn2 := fun x y => m.flushOut z (m.addV rm (m.read z x) (m.read z y).negate)
def fMul (m : Fmt) (rm : Rm) (z : Bool) : Fn2 := fun x y => m.flushOut z (m.mul rm (m.read z x) (m.read z y))
def fFma (m : Fmt) (rm : Rm) (z : Bool) : Fn3 := fun x y w => m.flushOut z (m.fma rm (m.read z x) (m.read z y) (m.read z w))
def fDiv (m : Fmt) (rm : Rm) (z : Bool) : Fn2 := fun x y => m.flushOut z (m.div rm (m.read z x) (m.read z y))
def fSqrt (m : Fmt) (rm : Rm) (z : Bool) : Fn1 := fun x => m.flushOut z (m.sqrt rm (m.read z x))
def fMinMax (m : Fmt) (isMax z : Bool) : Fn2 := fun x y => m.minmax isMax (m.flushIn z x) (m.flushIn z y)
def fScale (m : Fmt) (rm : Rm) (z : Bool) (x : Nat) (b : Int) : Nat × Flags := m.flushOut z (m.scale rm (m.read z x) b)
def fRnd (m : Fmt) (rm : Rm) (z : Bool) : Fn1 := fun x => m.flushOut z (m.roundIntegral rm (m.read z x))
def fConv (src dst : Fmt) (rm : Rm) (zin zout : Bool) : Fn1 := fun x => dst.flushOut zout (dst.convert rm (src.read zin x))
/-- To an integer of `w` bits, in two's complement or plain binary (R93). -/
def fToInt (m : Fmt) (rm : Rm) (z signed : Bool) (w : Nat) : Fn1 := fun x =>
  let lo : Int := if signed then -(2 ^ (w - 1) : Nat) else 0
  let hi : Int := if signed then (2 ^ (w - 1) : Nat) - 1 else (2 ^ w : Nat) - 1
  let r := toInteger rm lo hi (m.read z x)
  ((BitVec.ofInt w r.1).toNat, r.2)
def fOfInt (m : Fmt) (rm : Rm) (signed : Bool) (w : Nat) : Fn1 := fun x =>
  m.ofInteger rm (if signed then (BitVec.ofNat w x).toInt else (x : Int))
/-- Compare (R150): .sig raises invalid on any NaN operand. -/
def fCmp (m : Fmt) (c : FCmp) (sig z : Bool) (x y : Nat) : Bool × Flags :=
  let a := m.read z x; let b := m.read z y
  (fcompare c a b, flagIf (sig && (a.isNan || b.isNan)) fInvalid)
def fCmpReg (f : Fields) (p : Pre) (pd : BitVec 3) (a b : Reg) (fn : Nat → Nat → Bool × Flags) (s : State) :
    Host.Outcome State Fault Refusal :=
  alu f p (fun l t =>
    let r := fn (readReg l t a).toNat (readReg l t b).toNat
    { preds := [(pd.toNat, r.1)], flags := r.2 }) s
def fCmpHalves (f : Fields) (p : Pre) (pd : BitVec 3) (a b : Reg) (fn : Nat → Nat → Bool × Flags) (s : State) :
    Host.Outcome State Fault Refusal :=
  alu f p (fun l t =>
    let x := readReg l t a; let y := readReg l t b
    let r0 := fn (lo16 x) (lo16 y); let r1 := fn (hi16 x) (hi16 y)
    { preds := [(pd.toNat, r0.1), (pd.toNat + 1, r1.1)], flags := r0.2 ||| r1.2 }) s

/-! ### The instructions -/

def execFaddF64 (p : Pre) (d a b : Reg) (rm : Rm) (s : State) :=
  fBin64 (enFRR 0x080 p d a b rm) p d a b (fAdd f64 rm false) s
def execFaddF32 (p : Pre) (d a b : Reg) (rm : Rm) (ftz : Bool) (s : State) :=
  fBin32 (enFRRz 0x081 p d a b rm ftz) p d a b (fAdd f32 rm ftz) s
def execFaddF16x2 (p : Pre) (d a b : Reg) (rm : Rm) (ftz : Bool) (s : State) :=
  fBin16 (enFRRz 0x082 p d a b rm ftz) p d a b (fAdd f16 rm ftz) s
def execFaddBf16x2 (p : Pre) (d a b : Reg) (rm : Rm) (s : State) :=
  fBin16 (enFRR 0x083 p d a b rm) p d a b (fAdd bf16 rm false) s
def execFsubF64 (p : Pre) (d a b : Reg) (rm : Rm) (s : State) :=
  fBin64 (enFRR 0x084 p d a b rm) p d a b (fSub f64 rm false) s
def execFsubF32 (p : Pre) (d a b : Reg) (rm : Rm) (ftz : Bool) (s : State) :=
  fBin32 (enFRRz 0x085 p d a b rm ftz) p d a b (fSub f32 rm ftz) s
def execFsubF16x2 (p : Pre) (d a b : Reg) (rm : Rm) (ftz : Bool) (s : State) :=
  fBin16 (enFRRz 0x086 p d a b rm ftz) p d a b (fSub f16 rm ftz) s
def execFsubBf16x2 (p : Pre) (d a b : Reg) (rm : Rm) (s : State) :=
  fBin16 (enFRR 0x087 p d a b rm) p d a b (fSub bf16 rm false) s
def execFmulF64 (p : Pre) (d a b : Reg) (rm : Rm) (s : State) :=
  fBin64 (enFRR 0x088 p d a b rm) p d a b (fMul f64 rm false) s
def execFmulF32 (p : Pre) (d a b : Reg) (rm : Rm) (ftz : Bool) (s : State) :=
  fBin32 (enFRRz 0x089 p d a b rm ftz) p d a b (fMul f32 rm ftz) s
def execFmulF16x2 (p : Pre) (d a b : Reg) (rm : Rm) (ftz : Bool) (s : State) :=
  fBin16 (enFRRz 0x08A p d a b rm ftz) p d a b (fMul f16 rm ftz) s
def execFmulBf16x2 (p : Pre) (d a b : Reg) (rm : Rm) (s : State) :=
  fBin16 (enFRR 0x08B p d a b rm) p d a b (fMul bf16 rm false) s
def execFfmaF64 (p : Pre) (d a b c : Reg) (rm : Rm) (s : State) :=
  fTri64 (enFRRR 0x08C p d a b c rm) p d a b c (fFma f64 rm false) s
def execFfmaF32 (p : Pre) (d a b c : Reg) (rm : Rm) (ftz : Bool) (s : State) :=
  fTri32 (enFRRRz 0x08D p d a b c rm ftz) p d a b c (fFma f32 rm ftz) s
def execFfmaF16x2 (p : Pre) (d a b c : Reg) (rm : Rm) (ftz : Bool) (s : State) :=
  fTri16 (enFRRRz 0x08E p d a b c rm ftz) p d a b c (fFma f16 rm ftz) s
def execFfmaBf16x2 (p : Pre) (d a b c : Reg) (rm : Rm) (s : State) :=
  fTri16 (enFRRR 0x08F p d a b c rm) p d a b c (fFma bf16 rm false) s
def execFminF64 (p : Pre) (d a b : Reg) (s : State) :=
  fBin64 (enMM 0x090 p d a b) p d a b (fMinMax f64 false false) s
def execFminF32 (p : Pre) (d a b : Reg) (ftz : Bool) (s : State) :=
  fBin32 (enMMz 0x091 p d a b ftz) p d a b (fMinMax f32 false ftz) s
def execFminF16x2 (p : Pre) (d a b : Reg) (ftz : Bool) (s : State) :=
  fBin16 (enMMz 0x092 p d a b ftz) p d a b (fMinMax f16 false ftz) s
def execFminBf16x2 (p : Pre) (d a b : Reg) (s : State) :=
  fBin16 (enMM 0x093 p d a b) p d a b (fMinMax bf16 false false) s
def execFmaxF64 (p : Pre) (d a b : Reg) (s : State) :=
  fBin64 (enMM 0x094 p d a b) p d a b (fMinMax f64 true false) s
def execFmaxF32 (p : Pre) (d a b : Reg) (ftz : Bool) (s : State) :=
  fBin32 (enMMz 0x095 p d a b ftz) p d a b (fMinMax f32 true ftz) s
def execFmaxF16x2 (p : Pre) (d a b : Reg) (ftz : Bool) (s : State) :=
  fBin16 (enMMz 0x096 p d a b ftz) p d a b (fMinMax f16 true ftz) s
def execFmaxBf16x2 (p : Pre) (d a b : Reg) (s : State) :=
  fBin16 (enMM 0x097 p d a b) p d a b (fMinMax bf16 true false) s
def execFcmpF64 (p : Pre) (cmp : FCmp) (pd : BitVec 3) (a b : Reg) (sig : Bool) (s : State) :=
  alu (enFC 0x098 p cmp pd a b sig) p (fun l t =>
    let r := fCmp f64 cmp sig false (readPair l t a).toNat (readPair l t b).toNat
    { preds := [(pd.toNat, r.1)], flags := r.2 }) s
def execFcmpF32 (p : Pre) (cmp : FCmp) (pd : BitVec 3) (a b : Reg) (sig ftz : Bool) (s : State) :=
  fCmpReg (enFCz 0x099 p cmp pd a b sig ftz) p pd a b (fCmp f32 cmp sig ftz) s
def execFcmpF16x2 (p : Pre) (cmp : FCmp) (pd : BitVec 3) (a b : Reg) (sig ftz : Bool) (s : State) :=
  fCmpHalves (enFCz 0x09A p cmp pd a b sig ftz) p pd a b (fCmp f16 cmp sig ftz) s
def execFcmpBf16x2 (p : Pre) (cmp : FCmp) (pd : BitVec 3) (a b : Reg) (sig : Bool) (s : State) :=
  fCmpHalves (enFC 0x09B p cmp pd a b sig) p pd a b (fCmp bf16 cmp sig false) s
def execFdivF64 (p : Pre) (d a b : Reg) (rm : Rm) (s : State) :=
  fBin64 (enFRR 0x09C p d a b rm) p d a b (fDiv f64 rm false) s
def execFdivF32 (p : Pre) (d a b : Reg) (rm : Rm) (ftz : Bool) (s : State) :=
  fBin32 (enFRRz 0x09D p d a b rm ftz) p d a b (fDiv f32 rm ftz) s
def execFsqrtF64 (p : Pre) (d a : Reg) (rm : Rm) (s : State) :=
  fUn64 (enFU 0x09E p d a rm) p d a (fSqrt f64 rm false) s
def execFsqrtF32 (p : Pre) (d a : Reg) (rm : Rm) (ftz : Bool) (s : State) :=
  fUn32 (enFUz 0x09F p d a rm ftz) p d a (fSqrt f32 rm ftz) s
def execFrcpF64 (p : Pre) (d a : Reg) (rm : Rm) (s : State) :=
  fUn64 (enFU 0x0A0 p d a rm) p d a (f64.rcp rm false 0x0A0) s
def execFrcpF32 (p : Pre) (d a : Reg) (rm : Rm) (ftz : Bool) (s : State) :=
  fUn32 (enFUz 0x0A1 p d a rm ftz) p d a (f32.rcp rm ftz 0x0A1) s
def execFrsqF64 (p : Pre) (d a : Reg) (rm : Rm) (s : State) :=
  fUn64 (enFU 0x0A2 p d a rm) p d a (f64.rsq rm false 0x0A2) s
def execFrsqF32 (p : Pre) (d a : Reg) (rm : Rm) (ftz : Bool) (s : State) :=
  fUn32 (enFUz 0x0A3 p d a rm ftz) p d a (f32.rsq rm ftz 0x0A3) s
def execFexp2F32 (p : Pre) (d a : Reg) (rm : Rm) (ftz : Bool) (s : State) :=
  fUn32 (enFUz 0x0A4 p d a rm ftz) p d a (f32.exp2 rm ftz 0x0A4) s
def execFlog2F32 (p : Pre) (d a : Reg) (rm : Rm) (ftz : Bool) (s : State) :=
  fUn32 (enFUz 0x0A5 p d a rm ftz) p d a (f32.flog2 rm ftz 0x0A5) s
def execFsinF32 (p : Pre) (d a : Reg) (rm : Rm) (ftz : Bool) (s : State) :=
  fUn32 (enFUz 0x0A6 p d a rm ftz) p d a (f32.trig false rm ftz 0x0A6) s
def execFcosF32 (p : Pre) (d a : Reg) (rm : Rm) (ftz : Bool) (s : State) :=
  fUn32 (enFUz 0x0A7 p d a rm ftz) p d a (f32.trig true rm ftz 0x0A7) s
def execFtanhF32 (p : Pre) (d a : Reg) (rm : Rm) (ftz : Bool) (s : State) :=
  fUn32 (enFUz 0x0A8 p d a rm ftz) p d a (f32.tanh rm ftz 0x0A8) s
def execFexp2F64 (p : Pre) (d a : Reg) (rm : Rm) (s : State) :=
  fUn64 (enFU 0x0A9 p d a rm) p d a (f64.exp2 rm false 0x0A9) s
def execFlog2F64 (p : Pre) (d a : Reg) (rm : Rm) (s : State) :=
  fUn64 (enFU 0x0AA p d a rm) p d a (f64.flog2 rm false 0x0AA) s
def execFsinF64 (p : Pre) (d a : Reg) (rm : Rm) (s : State) :=
  fUn64 (enFU 0x0AB p d a rm) p d a (f64.trig false rm false 0x0AB) s
def execFcosF64 (p : Pre) (d a : Reg) (rm : Rm) (s : State) :=
  fUn64 (enFU 0x0AC p d a rm) p d a (f64.trig true rm false 0x0AC) s
def execFscaleF64 (p : Pre) (d a b : Reg) (rm : Rm) (s : State) :=
  alu (enFRR 0x0AD p d a b rm) p (fun l t =>
    let r := fScale f64 rm false (readPair l t a).toNat (readReg l t b).toInt
    { regs := pairWrites d (BitVec.ofNat 64 r.1), flags := r.2 }) s
def execFscaleF32 (p : Pre) (d a b : Reg) (rm : Rm) (ftz : Bool) (s : State) :=
  alu (enFRRz 0x0AE p d a b rm ftz) p (fun l t =>
    let r := fScale f32 rm ftz (readReg l t a).toNat (readReg l t b).toInt
    { regs := [(d.toNat, BitVec.ofNat 32 r.1)], flags := r.2 }) s
def execFrndF64 (p : Pre) (d a : Reg) (rm : Rm) (s : State) :=
  fUn64 (enFU 0x0AF p d a rm) p d a (fRnd f64 rm false) s
def execFrndF32 (p : Pre) (d a : Reg) (rm : Rm) (ftz : Bool) (s : State) :=
  fUn32 (enFUz 0x0B0 p d a rm ftz) p d a (fRnd f32 rm ftz) s
def execFclassF64 (p : Pre) (d a : Reg) (s : State) := fDown (enRR 0x0B1 p d a) p d a (fun x => (f64.classify x, 0)) s
def execFclassF32 (p : Pre) (d a : Reg) (s : State) := fUn32 (enRR 0x0B2 p d a) p d a (fun x => (f32.classify x, 0)) s
def execFcvtF64F32 (p : Pre) (d a : Reg) (rm : Rm) (s : State) :=
  fUp (enFU 0x0B3 p d a rm) p d a (fConv f32 f64 rm false false) s
def execFcvtF32F64 (p : Pre) (d a : Reg) (rm : Rm) (s : State) :=
  fDown (enFU 0x0B4 p d a rm) p d a (fConv f64 f32 rm false false) s
/-- Two f32 packed into two elements. -/
def fPack (f : Fields) (p : Pre) (d a b : Reg) (fn : Fn1) (s : State) : Host.Outcome State Fault Refusal :=
  alu f p (fun l t =>
    let r := join16 (fn (readReg l t a).toNat) (fn (readReg l t b).toNat)
    { regs := [(d.toNat, r.1)], flags := r.2 }) s
def execFcvtF16x2F32 (p : Pre) (d a b : Reg) (rm : Rm) (ftz : Bool) (s : State) :=
  fPack (enFRRz 0x0B5 p d a b rm ftz) p d a b (fConv f32 f16 rm ftz ftz) s
def execFcvtBf16x2F32 (p : Pre) (d a b : Reg) (rm : Rm) (s : State) :=
  fPack (enFRR 0x0B6 p d a b rm) p d a b (fConv f32 bf16 rm false false) s
/-- Two elements to a pair of f32. -/
def fUnpack (f : Fields) (p : Pre) (d a : Reg) (fn : Fn1) (s : State) : Host.Outcome State Fault Refusal :=
  alu f p (fun l t =>
    let x := readReg l t a
    let r0 := fn (lo16 x); let r1 := fn (hi16 x)
    { regs := [(d.toNat, BitVec.ofNat 32 r0.1), (d.toNat + 1, BitVec.ofNat 32 r1.1)], flags := r0.2 ||| r1.2 }) s
def execFcvtF32F16x2 (p : Pre) (d a : Reg) (rm : Rm) (ftz : Bool) (s : State) :=
  fUnpack (enFUz 0x0B7 p d a rm ftz) p d a (fConv f16 f32 rm ftz ftz) s
def execFcvtF32Bf16x2 (p : Pre) (d a : Reg) (rm : Rm) (s : State) :=
  fUnpack (enFU 0x0B8 p d a rm) p d a (fConv bf16 f32 rm false false) s
def execFcvtF32S32 (p : Pre) (d a : Reg) (rm : Rm) (ftz : Bool) (s : State) :=
  fUn32 (enFUz 0x0B9 p d a rm ftz) p d a (fOfInt f32 rm true 32) s
def execFcvtF32N32 (p : Pre) (d a : Reg) (rm : Rm) (ftz : Bool) (s : State) :=
  fUn32 (enFUz 0x0BA p d a rm ftz) p d a (fOfInt f32 rm false 32) s
def execFcvtF64S64 (p : Pre) (d a : Reg) (rm : Rm) (s : State) :=
  fUn64 (enFU 0x0BB p d a rm) p d a (fOfInt f64 rm true 64) s
def execFcvtF64S32 (p : Pre) (d a : Reg) (rm : Rm) (s : State) :=
  fUp (enFU 0x0BC p d a rm) p d a (fOfInt f64 rm true 32) s
def execFcvtS32F32 (p : Pre) (d a : Reg) (rm : Rm) (ftz : Bool) (s : State) :=
  fUn32 (enFUz 0x0BD p d a rm ftz) p d a (fToInt f32 rm ftz true 32) s
def execFcvtN32F32 (p : Pre) (d a : Reg) (rm : Rm) (ftz : Bool) (s : State) :=
  fUn32 (enFUz 0x0BE p d a rm ftz) p d a (fToInt f32 rm ftz false 32) s
def execFcvtS64F64 (p : Pre) (d a : Reg) (rm : Rm) (s : State) :=
  fUn64 (enFU 0x0BF p d a rm) p d a (fToInt f64 rm false true 64) s
def execFcvtS32F64 (p : Pre) (d a : Reg) (rm : Rm) (s : State) :=
  fDown (enFU 0x0C0 p d a rm) p d a (fToInt f64 rm false true 32) s

/-! ### MXDQ (R156) -/

/-- The block packed from register A on: bit b is bit (b mod 32) of register A + b div 32. -/
def blockBits (l : Launch) (t : Thread) (a : Reg) (n : Nat) : Nat :=
  (List.range n).foldl (fun r i => r + (readReg l t (a + BitVec.ofNat 8 i)).toNat * 2 ^ (32 * i)) 0

def mxdq (m : MxFmt) (f : Fields) (p : Pre) (d a b : Reg) (j : BitVec 4) (sel : BitVec 2) (rm : Rm) (ftz : Bool)
    (s : State) : Host.Outcome State Fault Refusal :=
  alu f p (fun l t =>
    let w := mxWidth m
    let bits := blockBits l t a w
    let sc := bitsN (readReg l t b).toNat (8 * sel.toNat) 8
    let one (i : Nat) : Nat × Flags :=
      f32.flushOut ftz (dequantise m f32 rm (bitsN bits (w * (2 * j.toNat + i)) w) sc)
    let r0 := one 0; let r1 := one 1
    { regs := [(d.toNat, BitVec.ofNat 32 r0.1), (d.toNat + 1, BitVec.ofNat 32 r1.1)], flags := r0.2 ||| r1.2 }) s
def execMxdqE4m3 (p : Pre) (d a b : Reg) (j : BitVec 4) (sel : BitVec 2) (rm : Rm) (ftz : Bool) (s : State) :=
  mxdq .e4m3 (enMxdq 0x0C1 p d a b j sel rm ftz) p d a b j sel rm ftz s
def execMxdqE5m2 (p : Pre) (d a b : Reg) (j : BitVec 4) (sel : BitVec 2) (rm : Rm) (ftz : Bool) (s : State) :=
  mxdq .e5m2 (enMxdq 0x0C2 p d a b j sel rm ftz) p d a b j sel rm ftz s
def execMxdqE2m3 (p : Pre) (d a b : Reg) (j : BitVec 4) (sel : BitVec 2) (rm : Rm) (ftz : Bool) (s : State) :=
  mxdq .e2m3 (enMxdq 0x0C3 p d a b j sel rm ftz) p d a b j sel rm ftz s
def execMxdqE3m2 (p : Pre) (d a b : Reg) (j : BitVec 4) (sel : BitVec 2) (rm : Rm) (ftz : Bool) (s : State) :=
  mxdq .e3m2 (enMxdq 0x0C4 p d a b j sel rm ftz) p d a b j sel rm ftz s
def execMxdqE2m1 (p : Pre) (d a b : Reg) (j : BitVec 4) (sel : BitVec 2) (rm : Rm) (ftz : Bool) (s : State) :=
  mxdq .e2m1 (enMxdq 0x0C5 p d a b j sel rm ftz) p d a b j sel rm ftz s

end Sys2Proof.Machine
end

