-- ==== Sys2Proof/Machine/Integer.lean ====
section
/-! DEFINITION. The integer class (05 R132–R145). Every meaning is one lane function over the shared issue. -/

namespace Sys2Proof.Machine

/-! ### Shapes of lane functions -/

/-- D := f A B on 32 bits, B marked I. -/
def alu32 (f : Fields) (p : Pre) (d a : Reg) (b : Src) (fn : Word → Word → Word) (s : State) :
    Host.Outcome State Fault Refusal :=
  alu f p (fun l t => { regs := [(d.toNat, fn (readReg l t a) (readSrc l t b))] }) s

/-- D pair := f (A pair) (B pair). -/
def alu64 (f : Fields) (p : Pre) (d a : Reg) (b : Src) (fn : DWord → DWord → DWord) (s : State) :
    Host.Outcome State Fault Refusal :=
  alu f p (fun l t => { regs := pairWrites d (fn (readPair l t a) (readSrc64 l t b)) }) s

/-- D := f A. -/
def alu1 (f : Fields) (p : Pre) (d a : Reg) (fn : Word → Word) (s : State) : Host.Outcome State Fault Refusal :=
  alu f p (fun l t => { regs := [(d.toNat, fn (readReg l t a))] }) s

/-- D := f A B C, three registers. -/
def alu3 (f : Fields) (p : Pre) (d a b c : Reg) (fn : Word → Word → Word → Word) (s : State) :
    Host.Outcome State Fault Refusal :=
  alu f p (fun l t => { regs := [(d.toNat, fn (readReg l t a) (readReg l t b) (readReg l t c))] }) s

/-! ### Add and subtract (R132) -/

def execIadd32 (p : Pre) (d a : Reg) (b : Src) (s : State) := alu32 (enRRI 0x020 p d a b) p d a b (· + ·) s
def execIadd64 (p : Pre) (d a : Reg) (b : Src) (s : State) := alu64 (enRRI 0x021 p d a b) p d a b (· + ·) s
def execIsub32 (p : Pre) (d a : Reg) (b : Src) (s : State) := alu32 (enRRI 0x022 p d a b) p d a b (· - ·) s
def execIsub64 (p : Pre) (d a : Reg) (b : Src) (s : State) := alu64 (enRRI 0x023 p d a b) p d a b (· - ·) s

/-- The exact sum with carry in, 33 bits. -/
def addCarry (a b : Word) (cin : Bool) : BitVec 33 := zx 33 a + zx 33 b + (if cin then 1 else 0)
def execIaddc (p : Pre) (d a : Reg) (b : Src) (pd ps : BitVec 3) (nps : Bool) (s : State) :=
  alu (enAddc 0x024 p d a b pd ps nps) p (fun l t =>
    let r := addCarry (readReg l t a) (readSrc l t b) (readPred t ps.toNat != nps)
    { regs := [(d.toNat, r.setWidth 32)], preds := [(pd.toNat, r.getLsbD 32)] }) s
def execIabs (p : Pre) (d a : Reg) (s : State) := alu1 (enRR 0x036 p d a) p d a (fun x => if x.msb then 0 - x else x) s
def execIneg (p : Pre) (d a : Reg) (s : State) := alu1 (enRR 0x037 p d a) p d a (fun x => 0 - x) s

/-! ### Multiply (R133) -/

def execImulLo (p : Pre) (d a : Reg) (b : Src) (s : State) := alu32 (enRRI 0x025 p d a b) p d a b (· * ·) s
def mulWideS (a b : Word) : DWord := sx 64 a * sx 64 b
def mulWideN (a b : Word) : DWord := zx 64 a * zx 64 b
def execImulhS (p : Pre) (d a : Reg) (b : Src) (s : State) :=
  alu32 (enRRI 0x026 p d a b) p d a b (fun x y => pairHi (mulWideS x y)) s
def execImulhN (p : Pre) (d a : Reg) (b : Src) (s : State) :=
  alu32 (enRRI 0x027 p d a b) p d a b (fun x y => pairHi (mulWideN x y)) s
def aluWide (f : Fields) (p : Pre) (d a : Reg) (b : Src) (fn : Word → Word → DWord) (s : State) :
    Host.Outcome State Fault Refusal :=
  alu f p (fun l t => { regs := pairWrites d (fn (readReg l t a) (readSrc l t b)) }) s
def execImulwS (p : Pre) (d a : Reg) (b : Src) (s : State) := aluWide (enRRI 0x028 p d a b) p d a b mulWideS s
def execImulwN (p : Pre) (d a : Reg) (b : Src) (s : State) := aluWide (enRRI 0x029 p d a b) p d a b mulWideN s
def execImadLo (p : Pre) (d a : Reg) (b : Src) (c : Reg) (s : State) :=
  alu (enRRIR 0x02A p d a b c) p (fun l t =>
    { regs := [(d.toNat, readReg l t a * readSrc l t b + readReg l t c)] }) s
def madWide (f : Fields) (p : Pre) (d a : Reg) (b : Src) (c : Reg) (fn : Word → Word → DWord) (s : State) :
    Host.Outcome State Fault Refusal :=
  alu f p (fun l t => { regs := pairWrites d (fn (readReg l t a) (readSrc l t b) + readPair l t c) }) s
def execImadwS (p : Pre) (d a : Reg) (b : Src) (c : Reg) (s : State) := madWide (enRRIR 0x02B p d a b c) p d a b c mulWideS s
def execImadwN (p : Pre) (d a : Reg) (b : Src) (c : Reg) (s : State) := madWide (enRRIR 0x02C p d a b c) p d a b c mulWideN s
def execImad64 (p : Pre) (d a : Reg) (b : Src) (c : Reg) (s : State) :=
  alu (enRRIR 0x02D p d a b c) p (fun l t =>
    { regs := pairWrites d (readPair l t a * readSrc64 l t b + readPair l t c) }) s

/-! ### Divide (R134) -/

/-- Quotient, remainder, and whether the divisor was zero. -/
def divS (a b : Word) : Word × Word × Bool :=
  if b = 0 then (if a.msb then 0x80000000#32 else 0x7FFFFFFF#32, a, true)
  else if a = 0x80000000#32 && b = 0xFFFFFFFF#32 then (0x80000000#32, 0, false)
  else let q := a.sdiv b; (q, a - q * b, false)
def divN (a b : Word) : Word × Word × Bool :=
  if b = 0 then (0xFFFFFFFF#32, a, true) else let q := a.udiv b; (q, a - q * b, false)
def aluDiv (f : Fields) (p : Pre) (d a : Reg) (b : Src) (fn : Word → Word → Word × Word × Bool) (rem : Bool) (s : State) :
    Host.Outcome State Fault Refusal :=
  alu f p (fun l t =>
    let r := fn (readReg l t a) (readSrc l t b)
    { regs := [(d.toNat, if rem then r.2.1 else r.1)], flags := flagIf r.2.2 fIdz }) s
def execIdivS (p : Pre) (d a : Reg) (b : Src) (s : State) := aluDiv (enRRI 0x02E p d a b) p d a b divS false s
def execIdivN (p : Pre) (d a : Reg) (b : Src) (s : State) := aluDiv (enRRI 0x02F p d a b) p d a b divN false s
def execIremS (p : Pre) (d a : Reg) (b : Src) (s : State) := aluDiv (enRRI 0x030 p d a b) p d a b divS true s
def execIremN (p : Pre) (d a : Reg) (b : Src) (s : State) := aluDiv (enRRI 0x031 p d a b) p d a b divN true s

/-! ### Minimum and maximum (R135) -/

def execIminS (p : Pre) (d a : Reg) (b : Src) (s : State) := alu32 (enRRI 0x032 p d a b) p d a b minS s
def execIminN (p : Pre) (d a : Reg) (b : Src) (s : State) := alu32 (enRRI 0x033 p d a b) p d a b minN s
def execImaxS (p : Pre) (d a : Reg) (b : Src) (s : State) := alu32 (enRRI 0x034 p d a b) p d a b maxS s
def execImaxN (p : Pre) (d a : Reg) (b : Src) (s : State) := alu32 (enRRI 0x035 p d a b) p d a b maxN s

/-! ### Logic (R136) -/

def execAndB (p : Pre) (d a : Reg) (b : Src) (s : State) := alu32 (enRRI 0x038 p d a b) p d a b (· &&& ·) s
def execOrB (p : Pre) (d a : Reg) (b : Src) (s : State) := alu32 (enRRI 0x039 p d a b) p d a b (· ||| ·) s
def execXorB (p : Pre) (d a : Reg) (b : Src) (s : State) := alu32 (enRRI 0x03A p d a b) p d a b (· ^^^ ·) s
def execNotB (p : Pre) (d a : Reg) (s : State) := alu1 (enRR 0x03B p d a) p d a (fun x => ~~~x) s
/-- One truth table at every bit position. -/
def lut3 (tbl : BitVec 8) (x y z : Word) : Word :=
  (List.range 32).foldl (fun r i =>
    let k := boolBit (x.getLsbD i) + 2 * boolBit (y.getLsbD i) + 4 * boolBit (z.getLsbD i)
    if tbl.getLsbD k then r ||| (1#32 <<< i) else r) 0
def execLut3 (p : Pre) (d a b c : Reg) (tbl : BitVec 8) (s : State) := alu3 (enLut 0x03C p d a b c tbl) p d a b c (lut3 tbl) s

/-! ### Shifts (R137) -/

def shlW {w : Nat} (x : BitVec w) (n : Word) : BitVec w := x <<< n.toNat
def shrW {w : Nat} (x : BitVec w) (n : Word) : BitVec w := x >>> n.toNat
def sarW {w : Nat} (x : BitVec w) (n : Word) : BitVec w := x.sshiftRight (min n.toNat (w - 1))
def execShl (p : Pre) (d a : Reg) (b : Src) (s : State) := alu32 (enRRI 0x03D p d a b) p d a b shlW s
def execShr (p : Pre) (d a : Reg) (b : Src) (s : State) := alu32 (enRRI 0x03E p d a b) p d a b shrW s
def execSar (p : Pre) (d a : Reg) (b : Src) (s : State) := alu32 (enRRI 0x03F p d a b) p d a b sarW s
def execRot (p : Pre) (d a : Reg) (b : Src) (s : State) :=
  alu32 (enRRI 0x040 p d a b) p d a b (fun x n => x.rotateLeft (n.toNat % 32)) s
def funnelL (a b n : Word) : Word := pairHi (mkPair b a <<< min n.toNat 32)
def funnelR (a b n : Word) : Word := pairLo (mkPair b a >>> min n.toNat 32)
def aluFunnel (f : Fields) (p : Pre) (d a b : Reg) (c : Src) (fn : Word → Word → Word → Word) (s : State) :
    Host.Outcome State Fault Refusal :=
  alu f p (fun l t => { regs := [(d.toNat, fn (readReg l t a) (readReg l t b) (readSrc l t c))] }) s
def execFshfL (p : Pre) (d a b : Reg) (c : Src) (s : State) := aluFunnel (enRRRI 0x041 p d a b c) p d a b c funnelL s
def execFshfR (p : Pre) (d a b : Reg) (c : Src) (s : State) := aluFunnel (enRRRI 0x042 p d a b c) p d a b c funnelR s
/-- The 64-bit shifts take a pair and a 32-bit amount. -/
def aluShift64 (f : Fields) (p : Pre) (d a : Reg) (b : Src) (fn : DWord → Word → DWord) (s : State) :
    Host.Outcome State Fault Refusal :=
  alu f p (fun l t => { regs := pairWrites d (fn (readPair l t a) (readSrc l t b)) }) s
def execShl64 (p : Pre) (d a : Reg) (b : Src) (s : State) := aluShift64 (enRRI 0x063 p d a b) p d a b shlW s
def execShr64 (p : Pre) (d a : Reg) (b : Src) (s : State) := aluShift64 (enRRI 0x064 p d a b) p d a b shrW s
def execSar64 (p : Pre) (d a : Reg) (b : Src) (s : State) := aluShift64 (enRRI 0x065 p d a b) p d a b sarW s

/-! ### Bit operations (R138) -/

def bitsList (x : Word) : List Nat := (List.range 32).map fun i => boolBit (x.getLsbD i)
def popc (x : Word) : Word := BitVec.ofNat 32 (bitsList x).sum
def clz (x : Word) : Word := if x = 0 then 32 else BitVec.ofNat 32 (31 - Nat.log2 x.toNat)
def brev (x : Word) : Word := (List.range 32).foldl (fun r i => if x.getLsbD i then r ||| (1#32 <<< (31 - i)) else r) 0
def execPopc (p : Pre) (d a : Reg) (s : State) := alu1 (enRR 0x043 p d a) p d a popc s
def execClz (p : Pre) (d a : Reg) (s : State) := alu1 (enRR 0x044 p d a) p d a clz s
def execBrev (p : Pre) (d a : Reg) (s : State) := alu1 (enRR 0x045 p d a) p d a brev s

def fieldPos (b : Word) : Nat := min (bitsN b.toNat 0 8) 32
def fieldLen (b : Word) : Nat := min (bitsN b.toNat 8 8) 32
def bfe (signed : Bool) (a b : Word) : Word :=
  let x : DWord := if signed then sx 64 a else zx 64 a
  let len := fieldLen b
  let fld := (x >>> fieldPos b).toNat % 2 ^ len
  if len = 0 then 0
  else if signed && fld.testBit (len - 1) then BitVec.ofInt 32 ((fld : Int) - 2 ^ len) else BitVec.ofNat 32 fld
def bfi (a b c : Word) : Word :=
  let m := BitVec.ofNat 32 ((2 ^ fieldLen b - 1) * 2 ^ fieldPos b)
  (c &&& ~~~m) ||| ((a <<< fieldPos b) &&& m)
def execBfeS (p : Pre) (d a : Reg) (b : Src) (s : State) := alu32 (enRRI 0x046 p d a b) p d a b (bfe true) s
def execBfeN (p : Pre) (d a : Reg) (b : Src) (s : State) := alu32 (enRRI 0x047 p d a b) p d a b (bfe false) s
def execBfi (p : Pre) (d a : Reg) (b : Src) (c : Reg) (s : State) :=
  alu (enRRIR 0x048 p d a b c) p (fun l t =>
    { regs := [(d.toNat, bfi (readReg l t a) (readSrc l t b) (readReg l t c))] }) s

/-! ### Compare and select (R139) -/

def compareS {w : Nat} (c : Cmp) (x y : BitVec w) : Bool :=
  match c with
  | .eq => x == y | .ne => x != y | .lt => x.slt y | .le => !y.slt x | .gt => y.slt x | .ge => !x.slt y
def compareN {w : Nat} (c : Cmp) (x y : BitVec w) : Bool :=
  match c with
  | .eq => x == y | .ne => x != y | .lt => x.ult y | .le => !y.ult x | .gt => y.ult x | .ge => !x.ult y
def icmp32 (f : Fields) (p : Pre) (pd : BitVec 3) (a : Reg) (b : Src) (fn : Word → Word → Bool) (s : State) :
    Host.Outcome State Fault Refusal :=
  alu f p (fun l t => { preds := [(pd.toNat, fn (readReg l t a) (readSrc l t b))] }) s
def icmp64 (f : Fields) (p : Pre) (pd : BitVec 3) (a : Reg) (b : Src) (fn : DWord → DWord → Bool) (s : State) :
    Host.Outcome State Fault Refusal :=
  alu f p (fun l t => { preds := [(pd.toNat, fn (readPair l t a) (readSrc64 l t b))] }) s
def execIcmpS32 (p : Pre) (cmp : Cmp) (pd : BitVec 3) (a : Reg) (b : Src) (s : State) :=
  icmp32 (enIcmp 0x049 p cmp pd a b) p pd a b (compareS cmp) s
def execIcmpN32 (p : Pre) (cmp : Cmp) (pd : BitVec 3) (a : Reg) (b : Src) (s : State) :=
  icmp32 (enIcmp 0x04A p cmp pd a b) p pd a b (compareN cmp) s
def execIcmpS64 (p : Pre) (cmp : Cmp) (pd : BitVec 3) (a : Reg) (b : Src) (s : State) :=
  icmp64 (enIcmp 0x04B p cmp pd a b) p pd a b (compareS cmp) s
def execIcmpN64 (p : Pre) (cmp : Cmp) (pd : BitVec 3) (a : Reg) (b : Src) (s : State) :=
  icmp64 (enIcmp 0x04C p cmp pd a b) p pd a b (compareN cmp) s
def execIpick (p : Pre) (d a : Reg) (b : Src) (ps : BitVec 3) (nps : Bool) (s : State) :=
  alu (enIpick 0x04D p d a b ps nps) p (fun l t =>
    { regs := [(d.toNat, if readPred t ps.toNat != nps then readReg l t a else readSrc l t b)] }) s

/-! ### Packed arithmetic (R95, R140–R143) -/

def byteAt (x : Word) (j : Nat) : Byte := x.extractLsb' (8 * j) 8
def halfAt (x : Word) (j : Nat) : BitVec 16 := x.extractLsb' (16 * j) 16
def ofHalves (h0 h1 : BitVec 16) : Word := h1 ++ h0
def ofBytes4 (b : Nat → Byte) : Word := b 3 ++ b 2 ++ b 1 ++ b 0
def dot4 (signed : Bool) (a b c : Word) : Word :=
  let ext (x : Byte) : Word := if signed then sx 32 x else zx 32 x
  (List.range 4).foldl (fun r j => r + ext (byteAt a j) * ext (byteAt b j)) c
def execIdp4S (p : Pre) (d a b c : Reg) (s : State) := alu3 (enRRRR 0x04E p d a b c) p d a b c (dot4 true) s
def execIdp4N (p : Pre) (d a b c : Reg) (s : State) := alu3 (enRRRR 0x04F p d a b c) p d a b c (dot4 false) s

/-- Clamp of an exact element result (R95). -/
def clampTo {w : Nat} (m : SatMode) (x y : BitVec w) (fn : Int → Int → Int) : BitVec w :=
  match m with
  | .wrap => BitVec.ofInt w (fn x.toInt y.toInt)
  | .satS => BitVec.ofInt w (max (-(2 ^ (w - 1) : Nat)) (min ((2 ^ (w - 1) : Nat) - 1) (fn x.toInt y.toInt)))
  | .satN => BitVec.ofInt w (max 0 (min ((2 ^ w : Nat) - 1) (fn x.toNat y.toNat)))
def map16 (fn : BitVec 16 → BitVec 16 → BitVec 16) (a b : Word) : Word :=
  ofHalves (fn (halfAt a 0) (halfAt b 0)) (fn (halfAt a 1) (halfAt b 1))
def map8 (fn : Byte → Byte → Byte) (a b : Word) : Word := ofBytes4 fun j => fn (byteAt a j) (byteAt b j)
def execPadd16 (p : Pre) (d a : Reg) (b : Src) (m : SatMode) (s : State) :=
  alu32 (enPadd 0x050 p d a b m) p d a b (map16 fun x y => clampTo m x y (· + ·)) s
def execPadd8 (p : Pre) (d a : Reg) (b : Src) (m : SatMode) (s : State) :=
  alu32 (enPadd 0x051 p d a b m) p d a b (map8 fun x y => clampTo m x y (· + ·)) s
def execPsub16 (p : Pre) (d a : Reg) (b : Src) (m : SatMode) (s : State) :=
  alu32 (enPadd 0x052 p d a b m) p d a b (map16 fun x y => clampTo m x y (· - ·)) s
def execPsub8 (p : Pre) (d a : Reg) (b : Src) (m : SatMode) (s : State) :=
  alu32 (enPadd 0x053 p d a b m) p d a b (map8 fun x y => clampTo m x y (· - ·)) s
def execPmaxS16 (p : Pre) (d a : Reg) (b : Src) (s : State) := alu32 (enRRI 0x054 p d a b) p d a b (map16 maxS) s
def execPmaxN16 (p : Pre) (d a : Reg) (b : Src) (s : State) := alu32 (enRRI 0x055 p d a b) p d a b (map16 maxN) s
def execPminS16 (p : Pre) (d a : Reg) (b : Src) (s : State) := alu32 (enRRI 0x056 p d a b) p d a b (map16 minS) s
def execPminN16 (p : Pre) (d a : Reg) (b : Src) (s : State) := alu32 (enRRI 0x057 p d a b) p d a b (map16 minN) s
def cmpMask {w : Nat} (uns : Bool) (c : Cmp) (x y : BitVec w) : BitVec w :=
  if (if uns then compareN c x y else compareS c x y) then BitVec.allOnes w else 0
def execPcmp16 (p : Pre) (d a : Reg) (b : Src) (cmp : Cmp) (uns : Bool) (s : State) :=
  alu32 (enPcmp 0x058 p d a b cmp uns) p d a b (map16 (cmpMask uns cmp)) s
def execPcmp8 (p : Pre) (d a : Reg) (b : Src) (cmp : Cmp) (uns : Bool) (s : State) :=
  alu32 (enPcmp 0x059 p d a b cmp uns) p d a b (map8 (cmpMask uns cmp)) s
def execPsel (p : Pre) (d a b c : Reg) (s : State) :=
  alu3 (enRRRR 0x05A p d a b c) p d a b c (fun x y z => (x &&& z) ||| (y &&& ~~~z)) s

/-- One half of PACS: the sum kept, and whether it is the second (R142). -/
def pacsHalf (m : SatMode) (a b c e : BitVec 16) : BitVec 16 × Bool :=
  let s0 := clampTo m a b (· + ·)
  let s1 := clampTo m c e (· + ·)
  let take := if m = .satN then s0.ult s1 else s0.slt s1
  (if take then s1 else s0, take)
def execPacs (p : Pre) (d a b c e : Reg) (m : SatMode) (pd : BitVec 3) (s : State) :=
  alu (enPacs 0x05B p d a b c e m pd) p (fun l t =>
    let h (j : Nat) := pacsHalf m (halfAt (readReg l t a) j) (halfAt (readReg l t b) j) (halfAt (readReg l t c) j)
      (halfAt (readReg l t e) j)
    { regs := [(d.toNat, ofHalves (h 0).1 (h 1).1)], preds := [(pd.toNat, (h 0).2), (pd.toNat + 1, (h 1).2)] }) s

/-- PERM (R143). -/
def perm (a b c : Word) : Word :=
  ofBytes4 fun j =>
    let n := bitsN c.toNat (4 * j) 4
    if 8 ≤ n then 0 else if n < 4 then byteAt a n else byteAt b (n - 4)
def execPerm (p : Pre) (d a b : Reg) (c : Src) (s : State) := aluFunnel (enRRRI 0x05C p d a b c) p d a b c perm s

/-! ### Moves and predicates (R144, R145) -/

def execMov (p : Pre) (d a : Reg) (w64 : Bool) (s : State) :=
  alu (enMov 0x05D p d a w64) p (fun l t =>
    { regs := if w64 then pairWrites d (readPair l t a) else [(d.toNat, readReg l t a)] }) s
def execMovi (p : Pre) (d : Reg) (w64 : Bool) (imm : BitVec 48) (s : State) :=
  alu (enMovi 0x05E p d w64 imm) p (fun _ _ =>
    { regs := if w64 then pairWrites d (sx 64 imm) else [(d.toNat, imm.setWidth 32)] }) s
def execLea (p : Pre) (d a : Reg) (pcrel : Bool) (imm : BitVec 48) (s : State) :=
  alu (enLea 0x05F p d a pcrel imm) p (fun l t =>
    { regs := pairWrites d ((if pcrel then t.hdr else readPair l t a) + sx 64 imm) }) s
def plogOp (op : PlogOp) (x y : Bool) : Bool :=
  match op with
  | .and => x && y | .or => x || y | .xor => x != y
def execPlog (p : Pre) (pd pa : BitVec 3) (na : Bool) (pb : BitVec 3) (nb : Bool) (op : PlogOp) (s : State) :=
  alu (enPlog 0x060 p pd pa na pb nb op) p (fun _ t =>
    { preds := [(pd.toNat, plogOp op (readPred t pa.toNat != na) (readPred t pb.toNat != nb))] }) s
def execPget (p : Pre) (d : Reg) (s : State) :=
  alu (enD 0x061 p d) p (fun _ t => { regs := [(d.toNat, zx 32 (1#1 ++ t.preds))] }) s
def execPput (p : Pre) (a : Reg) (mask : BitVec 7) (s : State) :=
  alu (enPput 0x062 p a mask) p (fun l t =>
    { preds := ((List.range 7).filter fun i => mask.getLsbD i).map fun i => (i, (readReg l t a).getLsbD i) }) s

end Sys2Proof.Machine
end

