-- ==== Sys2Proof/Machine/Cross.lean ====
section
/-! DEFINITION. Gang convergence and the cross-lane instructions (06 R158–R168; GSYNC of 05 R127). -/

namespace Sys2Proof.Machine

/-! ### Reduction trees (R166, R167) -/

/-- Values at the nodes of one level of the tree, with the flags of every ⊕ below. -/
abbrev Node := Word × Flags

def pairUp (op : Node → Node → Node) : List Node → List Node
  | x :: y :: r => op x y :: pairUp op r
  | r => r
/-- Levels 0 to k of the tree over the leaves. -/
def treeLevels (op : Node → Node → Node) : Nat → List Node → List (List Node)
  | 0, xs => [xs]
  | k + 1, xs => xs :: treeLevels op k (pairUp op xs)
def nodeAt (levels : List (List Node)) (k j : Nat) : Node := (levels.getD k []).getD j (0, 0)

/-- The aligned runs of [0, l]: level and index of each node, in lane order. -/
def prefixRuns (l : Nat) : Nat → Nat → List (Nat × Nat)
  | 0, start => if (l + 1).testBit 0 then [(0, start)] else []
  | k + 1, start =>
    if (l + 1).testBit (k + 1) then (k + 1, start / 2 ^ (k + 1)) :: prefixRuns l k (start + 2 ^ (k + 1)) else prefixRuns l k start
def inclusive (op : Node → Node → Node) (levels : List (List Node)) (l : Nat) : Node :=
  match (prefixRuns l 5 0).map fun r => nodeAt levels r.1 r.2 with
  | [] => (0, 0)
  | n :: ns => ns.foldl op n

/-- Table 6-9. -/
def redId (op : RedOp) : Word :=
  match op with
  | .minS => 0x7FFFFFFF#32 | .minN => 0xFFFFFFFF#32 | .maxS => 0x80000000#32 | .and => 0xFFFFFFFF#32 | _ => 0
def redNode (op : RedOp) (x y : Node) : Node := (redOp op x.1 y.1, 0)
def fredNode (op : FRedOp) (rm : Rm) (z : Bool) (x y : Node) : Node :=
  let r := match op with
    | .add => fAdd f32 rm z x.1.toNat y.1.toNat
    | .min => fMinMax f32 false z x.1.toNat y.1.toNat
    | .max => fMinMax f32 true z x.1.toNat y.1.toNat
  (BitVec.ofNat 32 r.1, x.2 ||| y.2 ||| r.2)
def fredId (op : FRedOp) : Word :=
  match op with
  | .add => 0 | .min => 0x7F800000#32 | .max => 0xFF800000#32

/-! ### What an instance computes -/

def contrib (xs : List Arrival) (j : Nat) : Option Arrival := xs.find? fun a => a.active && a.lane == j

/-- A lane's results: register, predicate, flags. -/
structure XRes where
  reg : Option Word := none
  hi : Option Word := none         -- the pair's upper register
  pred : Option Bool := none
  flags : Flags := 0

/-- SHFL (R164): modes idx, up, down, xor. -/
def shflLane (mode n : Nat) (xs : List Arrival) (a : Arrival) : XRes :=
  let l := a.lane; let b := a.b.toNat; let base := l - l % n
  let src : Option Nat :=
    match mode with
    | 0 => some (base + b % n)
    | 1 => if b ≤ l - base then some (l - b) else none
    | 2 => if l + b < base + n then some (l + b) else none
    | _ => some (Nat.xor l (b % n))
  match src.bind (contrib xs) with
  | some x => ⟨some (pairLo x.a), none, some true, 0⟩
  | none => ⟨some (pairLo a.a), none, some false, 0⟩

def voteAll (m : VoteMode) (xs : List Arrival) : XRes :=
  let c := xs.filter (·.active)
  let ps := c.filter (·.pa)
  match m with
  | .ballot => ⟨some (BitVec.ofNat 32 ((ps.map fun a => 2 ^ a.lane).sum)), none, none, 0⟩
  | .all => ⟨none, none, some (ps.length == c.length), 0⟩
  | .any => ⟨none, none, some (!ps.isEmpty), 0⟩
  | .eq => ⟨none, none, some (ps.isEmpty || ps.length == c.length), 0⟩

/-- The 32 leaves. -/
def leaves (xs : List Arrival) (ident : Word) (f : Word → Word) : List Node :=
  (List.range 32).map fun j => (match contrib xs j with | some a => f (pairLo a.a) | none => ident, 0)

def scanLane (op : Node → Node → Node) (ident : Word) (exc : Bool) (levels : List (List Node)) (l : Nat) : XRes :=
  let r := if exc then (if l = 0 then (ident, 0) else inclusive op levels (l - 1)) else inclusive op levels l
  ⟨some r.1, none, none, r.2⟩

/-- MXQ (R158): codes and scale of the gang's 32 values. -/
def mxqLane (fmt : MxFmt) (xs : List Arrival) (l : Nat) : XRes :=
  let vals := (List.range 32).map fun j => match contrib xs j with | some a => (pairLo a.a).toNat | none => 0
  let q := quantise fmt vals
  ⟨some (BitVec.ofNat 32 (q.1.getD l 0 + q.2.1 * 256)), none, none, q.2.2⟩

/-- The result of each contributing lane. -/
def xCompute (k : XKind) (xs : List Arrival) (beat : Option Beat) : Arrival → XRes :=
  match k with
  | .shfl mode n => shflLane mode n xs
  | .vote m => fun _ => voteAll m xs
  | .reduxI op =>
    let r := nodeAt (treeLevels (redNode op) 5 (leaves xs (redId op) id)) 5 0
    fun _ => ⟨some r.1, none, none, 0⟩
  | .reduxF op rm z =>
    let r := nodeAt (treeLevels (fredNode op rm z) 5
      (leaves xs (fredId op) fun w => BitVec.ofNat 32 (f32.flushIn z w.toNat))) 5 0
    fun _ => ⟨some r.1, none, none, r.2⟩
  | .scanI op exc =>
    let lv := treeLevels (redNode op) 5 (leaves xs (redId op) id)
    fun a => scanLane (redNode op) (redId op) exc lv a.lane
  | .scanF op exc rm z =>
    let lv := treeLevels (fredNode op rm z) 5 (leaves xs (fredId op) fun w => BitVec.ofNat 32 (f32.flushIn z w.toNat))
    fun a => scanLane (fredNode op rm z) (fredId op) exc lv a.lane
  | .matchAny => fun a =>
    let same := xs.filter fun x => x.active && x.a == a.a
    ⟨some (BitVec.ofNat 32 ((same.map fun x => 2 ^ x.lane).sum)), none, some (same.length == (xs.filter (·.active)).length), 0⟩
  | .mxq e2m1 => fun a => mxqLane (if e2m1 then .e2m1 else .e4m3) xs a.lane
  | .mrecv _ => fun a =>
    match beat with
    | some x => ⟨some (x.data.getD a.lane 0), some (BitVec.ofNat 32 (x.row + x.beat * 2 ^ 16)), some true, 0⟩
    | none => ⟨some 0, some 0, some false, 0⟩
  | .gsync => fun _ => {}

/-! ### Convergence (R159–R161) -/

/-- Members of a gang that have not exited. -/
def gangMembers (s : State) (bid gang : Nat) : List Thread :=
  s.threads.filter fun t => t.bid == bid && t.gang == gang && t.life != .exited

def xFull (s : State) (bid : Nat) (x : XInst) : Bool :=
  (gangMembers s bid x.gang).all fun t => x.arrivals.any fun a => a.uid == t.uid

/-- MRECV's beat, if the instance is one and its gang's queue holds one (08 R232). -/
def beatFor (b : Block) (k : XKind) : Option Beat :=
  match k with
  | .mrecv g => ((b.beats.find? fun q => q.1 == g).map (·.2)).bind List.head?
  | _ => none

/-- No more beats come to this block: it has no stream, or its stream has ended or stopped (R232, R238; log 23). -/
def streamOver (b : Block) : Bool :=
  match b.stream with
  | none => true
  | some x => x.ended || x.stopped

def isRecv : XKind → Bool
  | .mrecv _ => true | _ => false

/-- The instance executes over its contributing lanes and closes; one with none closes without effect. MRECV takes its
gang's oldest beat, and with none and the stream over gives zeros and a false predicate (R232). -/
def xExecute (s : State) (bid : Nat) (x : XInst) : State :=
  match s.block? bid with
  | none => s
  | some b =>
    let act := x.arrivals.filter (·.active)
    let full := xFull s bid x
    let beat := beatFor b x.kind
    let takes (g : Nat) : Bool := match x.kind with | .mrecv h => g == h && !act.isEmpty | _ => false
    let s := updBlock s bid fun b =>
      { b with xinsts := b.xinsts.filter fun y => y.id != x.id,
               beats := b.beats.map fun q => if takes q.1 then (q.1, q.2.drop 1) else q }
    if act.isEmpty then s
    else
      let f := xCompute x.kind x.arrivals beat
      let s := countEvent s b.core b.lid 0x11 1
      let s := if full then s else countEvent s b.core b.lid 0x0D 1
      act.foldl (fun s a =>
        let r := f a
        let regs := (r.reg.map fun v => (x.d, v)).toList ++ (r.hi.map fun v => (x.d + 1, v)).toList
        let preds := (r.pred.map fun v => (x.pd, v)).toList
        let s := if isRecv x.kind then
            match (s.thread? a.uid).bind fun t => (t.pend.find? fun p => p.id == a.pend).bind Pend.op with
            | some o => (match s.op? o with | some o => finishOp s o regs preds | none => s)
            | none => s
          else sendResult s a.uid none regs preds
        updThread s a.uid fun t =>
          { t with wait := if t.wait == .xlane x.id then .none else t.wait, fflags := t.fflags ||| r.flags,
                   part := t.part || !full }) s

/-- Executes an instance whose members have all arrived. An MRECV also waits for a beat (R232). -/
def xTry (s : State) (bid id : Nat) : State :=
  match s.block? bid with
  | none => s
  | some b =>
    match b.xinsts.find? fun x => x.id == id with
    | none => s
    | some x =>
      let ready := !isRecv x.kind || (beatFor b x.kind).isSome || streamOver b || !(x.arrivals.any (·.active))
      if (xFull s bid x || x.expired) && ready then xExecute s bid x else s

/-- The instance executes now (R159, R161); an MRECV that must wait for a beat takes no more arrivals and waits. -/
def xClose (s : State) (bid : Nat) (x : XInst) : State :=
  let mark (y : XInst) : XInst := if y.id == x.id then { y with expired := true } else y
  xTry (updBlock s bid fun b => { b with xinsts := b.xinsts.map mark }) bid x.id

/-- One member arrives (R159): a second arrival at a word whose open instance records it executes that instance first. The
members of one course arrive one after the other, in gang-lane order, so that in a course with a member that the instance
records and others that it does not, those before it still join that instance: R159 does not say (DESIGN CHOICE, log 84). It executes at the re-arrival, in the order of issue
within the clock: an exit or an arrival that a later issue of that clock brings does not count (DESIGN CHOICE, log 98). -/
def xArrive (s : State) (bid gang : Nat) (pc : DWord) (k : XKind) (d pd bound : Nat) (a : Arrival) : State :=
  let open? (s : State) := (s.block? bid).bind fun b => b.xinsts.find? fun x => x.gang == gang && x.pc == pc && !x.expired
  let s := match open? s with
    | some x => if x.arrivals.any (fun y => y.uid == a.uid) then xClose s bid x else s
    | none => s
  let opened (o : Option Nat) : Option Nat := if a.active then (match o with | some c => some c | none => some s.clock) else o
  let clk := opened none
  match open? s with
  | some x =>
    let s := updBlock s bid fun b => { b with xinsts := b.xinsts.map fun y =>
                                        if y.id == x.id then { y with arrivals := y.arrivals ++ [a], opened := opened y.opened } else y }
    if a.active then updThread s a.uid fun t => { t with wait := .xlane x.id } else s
  | none =>
    let (id, s) := fresh s
    let s := updBlock s bid fun b =>
      { b with xinsts := b.xinsts ++ [{ id := id, gang := gang, pc := pc, kind := k, d := d, pd := pd, bound := bound,
                                        opened := clk, arrivals := [a] }] }
    if a.active then updThread s a.uid fun t => { t with wait := .xlane id } else s

/-- A member exits or leaves: instances that now have every member execute. -/
def xRecheck (s : State) (bid gang : Nat) : State :=
  match s.block? bid with
  | none => s
  | some b => (b.xinsts.filter fun x => x.gang == gang).foldl (fun s x => xTry s bid x.id) s

def waitBound (cw : BitVec 2) : Nat :=
  match cw.toNat with
  | 0 => 256 | 1 => 1024 | 2 => 4096 | _ => 0

/-- A cross-lane instruction's issue: every member of the course arrives, then complete instances execute. -/
def xlane (f : Fields) (p : Pre) (k : Nat → XKind) (d pd bound : Nat) (opnd : Launch → Thread → Arrival) (s : State) :
    Host.Outcome State Fault Refusal :=
  issue f p (fun c s =>
    let ts := c.uids.filterMap s.thread?
    let s := ts.foldl (fun s t =>
      xArrive s t.bid t.gang c.pc (k t.gang) d pd bound { opnd c.l t with active := c.act.contains t.uid }) s
    { s := (ts.map Thread.gang).dedup.foldl (fun s g => xRecheck s c.b.bid g) s }) s

def arrival (t : Thread) (a : DWord) (b : Word) (pa : Bool) : Arrival :=
  { uid := t.uid, lane := t.lane, active := true, a := a, b := b, pa := pa }

/-! ### The instructions -/

def readSh (l : Launch) (t : Thread) : ShSrc → Word
  | .reg r => readReg l t r
  | .imm v => zx 32 v
def shflIssue (mode : Nat) (f : Fields) (p : Pre) (d a : Reg) (b : ShSrc) (lg : BitVec 3) (cw : BitVec 2) (pd : BitVec 3)
    (s : State) : Host.Outcome State Fault Refusal :=
  xlane f p (fun _ => .shfl mode (2 ^ lg.toNat)) d.toNat pd.toNat (waitBound cw)
    (fun l t => arrival t (zx 64 (readReg l t a)) (readSh l t b) false) s
def execShflIdx (p : Pre) (d a : Reg) (b : ShSrc) (lg : BitVec 3) (cw : BitVec 2) (pd : BitVec 3) (s : State) :=
  shflIssue 0 (enShfl 0x0D0 p d a b lg cw pd) p d a b lg cw pd s
def execShflUp (p : Pre) (d a : Reg) (b : ShSrc) (lg : BitVec 3) (cw : BitVec 2) (pd : BitVec 3) (s : State) :=
  shflIssue 1 (enShfl 0x0D1 p d a b lg cw pd) p d a b lg cw pd s
def execShflDown (p : Pre) (d a : Reg) (b : ShSrc) (lg : BitVec 3) (cw : BitVec 2) (pd : BitVec 3) (s : State) :=
  shflIssue 2 (enShfl 0x0D2 p d a b lg cw pd) p d a b lg cw pd s
def execShflXor (p : Pre) (d a : Reg) (b : ShSrc) (lg : BitVec 3) (cw : BitVec 2) (pd : BitVec 3) (s : State) :=
  shflIssue 3 (enShfl 0x0D3 p d a b lg cw pd) p d a b lg cw pd s
def execVote (p : Pre) (m : VoteMode) (d : Reg) (pd pa : BitVec 3) (na : Bool) (cw : BitVec 2) (s : State) :=
  xlane (enVote 0x0D4 p m d pd pa na cw) p (fun _ => .vote m) d.toNat pd.toNat (waitBound cw)
    (fun _ t => arrival t 0 0 (readPred t pa.toNat != na)) s
def execReduxI (p : Pre) (d a : Reg) (op : RedOp) (cw : BitVec 2) (s : State) :=
  xlane (enRedI 0x0D5 p d a op cw) p (fun _ => .reduxI op) d.toNat 7 (waitBound cw)
    (fun l t => arrival t (zx 64 (readReg l t a)) 0 false) s
def execReduxF32 (p : Pre) (d a : Reg) (op : FRedOp) (rm : Rm) (ftz : Bool) (cw : BitVec 2) (s : State) :=
  xlane (enRedF 0x0D6 p d a op rm ftz cw) p (fun _ => .reduxF op rm ftz) d.toNat 7 (waitBound cw)
    (fun l t => arrival t (zx 64 (readReg l t a)) 0 false) s
def execScanI (p : Pre) (d a : Reg) (op : RedOp) (exc : Bool) (cw : BitVec 2) (s : State) :=
  xlane (enScanI 0x0D7 p d a op exc cw) p (fun _ => .scanI op exc) d.toNat 7 (waitBound cw)
    (fun l t => arrival t (zx 64 (readReg l t a)) 0 false) s
def execScanF32 (p : Pre) (d a : Reg) (op : FRedOp) (exc : Bool) (rm : Rm) (ftz : Bool) (cw : BitVec 2) (s : State) :=
  xlane (enScanF 0x0D8 p d a op exc rm ftz cw) p (fun _ => .scanF op exc rm ftz) d.toNat 7 (waitBound cw)
    (fun l t => arrival t (zx 64 (readReg l t a)) 0 false) s
def execMatchAny (p : Pre) (d a : Reg) (w64 : Bool) (cw : BitVec 2) (pd : BitVec 3) (s : State) :=
  xlane (enMatch 0x0D9 p d a w64 cw pd) p (fun _ => .matchAny) d.toNat pd.toNat (waitBound cw)
    (fun l t => arrival t (if w64 then readPair l t a else zx 64 (readReg l t a)) 0 false) s
def execMxqE4m3 (p : Pre) (d a : Reg) (cw : BitVec 2) (s : State) :=
  xlane (enMxq 0x0C6 p d a cw) p (fun _ => .mxq false) d.toNat 7 (waitBound cw)
    (fun l t => arrival t (zx 64 (readReg l t a)) 0 false) s
def execMxqE2m1 (p : Pre) (d a : Reg) (cw : BitVec 2) (s : State) :=
  xlane (enMxq 0x0C7 p d a cw) p (fun _ => .mxq true) d.toNat 7 (waitBound cw)
    (fun l t => arrival t (zx 64 (readReg l t a)) 0 false) s
/-- GSYNC converges with the bound of 256 clocks and no data (R161, R127). -/
def execGsync (p : Pre) (s : State) :=
  xlane (enP 0x010 p) p (fun _ => .gsync) 0 7 256 (fun _ t => arrival t 0 0 false) s

end Sys2Proof.Machine
end

