-- ==== Sys2Proof/Machine/Device.lean ====
section
/-! DEFINITION. What the device and its engines do outside a thread's instruction: accesses through a function's page
tables straight to memory (08 R197, R198), MSI-X vectors (21 R369), the error queue (07 R194, R385) and the ring writes
of the device. -/

namespace Sys2Proof.Machine

/-! ### Accesses of the device and of engines -/

/-- The pieces of `n` bytes at `va` that lie in one 64 KiB page each. -/
def pagePieces : Nat → DWord → Nat → List (DWord × Nat)
  | 0, _, _ => []
  | fuel + 1, va, n =>
    if n = 0 then []
    else
      let k := min n (2 ^ 16 - va.toNat % 2 ^ 16)
      (va, k) :: pagePieces fuel (va + BitVec.ofNat 64 k) (n - k)
def piecesOf (va : DWord) (n : Nat) : List (DWord × Nat) := pagePieces (n / 2 ^ 16 + 2) va n

/-- Where an engine's access goes: the window check for a vault address, else a translation (R198). `b` is the block on
whose behalf the engine works, if any. -/
def engPiece (s : State) (b : Option Block) (vf : Nat) (va : DWord) (n : Nat) (acc : Acc) : Except Trouble Nat × State :=
  if !canonicalVa va then (.error (.trap 0x06), s)
  else if inAperture va then
    match b with
    | some b => (if inWindow b va n then .ok (vaultSpace + (va.toNat - vaultBase)) else .error (.trap 0x09), s)
    | none => (.error (.trap 0x09), s)
  else if inVaultRange va then (.error (.trap 0x11), s)
  else
    match translate s vf va (some acc) with
    | (.frame key _ _, s) => (.ok key, s)
    | (.notPresent, s) => (.error (.notPresent (pageOf va)), s)
    | (.prot, s) => (.error (.trap 0x11), s)

/-- An access that fails, and the address it fails at. -/
structure Trip where
  why : Trouble
  va : DWord
deriving DecidableEq, Repr

/-- The keys and lengths of an access, or its first failure. -/
def engResolve (b : Option Block) (vf : Nat) (acc : Acc) : List (DWord × Nat) → State → Except Trip (List (Nat × Nat)) × State
  | [], s => (.ok [], s)
  | (va, n) :: ps, s =>
    match engPiece s b vf va n acc with
    | (.error e, s) => (.error ⟨e, va⟩, s)
    | (.ok key, s) =>
      match engResolve b vf acc ps s with
      | (.error e, s) => (.error e, s)
      | (.ok ks, s) => (.ok ((key, n) :: ks), s)

/-- `n` bytes at a key as one access of the operation in progress finds them: as they stand, or as one of its earlier
looks at memory found them (R197, log 39). -/
def lookAt (s : State) (key n : Nat) : List Byte × State :=
  let now := memRead s key n
  let olds := ((s.lens.map fun m => memRead { s with mem := m } key n).dedup).filter fun x => x != now
  let (i, s) := draw s (olds.length + 1)
  ((now :: olds).getD i now, s)

/-- The aligned 4-byte words, whole or in part, of `n` bytes at a key. -/
def wordPieces : Nat → Nat → Nat → List (Nat × Nat)
  | 0, _, _ => []
  | fuel + 1, key, n =>
    if n = 0 then []
    else
      let k := min n (4 - key % 4)
      (key, k) :: wordPieces fuel (key + k) (n - k)

def lookAll : List (Nat × Nat) → State → List Byte × State
  | [], s => ([], s)
  | x :: xs, s =>
    let (b, s) := lookAt s x.1 x.2
    let (bs, s) := lookAll xs s
    (b ++ bs, s)

/-- What an engine reads. Each aligned 4-byte word is independent of the others (R197), but for an element that is
single-copy atomic: `whole` (R210). -/
def readKeys (s : State) (ks : List (Nat × Nat)) (whole : Bool := false) : List Byte × State :=
  let s := ks.foldl (fun s k => noteRequest s k.1) s
  if s.lens.isEmpty then (ks.flatMap fun k => memRead s k.1 k.2, s)
  else if whole then lookAll ks s
  else lookAll (ks.flatMap fun k => wordPieces (k.2 + 1) k.1 k.2) s

/-- Bytes that an operation writes: it has them too in its earlier looks at memory. -/
def putKey (s : State) (key : Nat) (bs : List Byte) : State :=
  { memWrite s key bs with lens := s.lens.map fun m => Sparse.setList (w := 8) m key bs }
/-- Bytes written for launch `lid`: their pages join the write set of its replay first, unless a ring's (R322). -/
def writeKeys (s : State) (lid vf : Nat) (note : Bool) : List (Nat × Nat) → List Byte → State
  | [], _ => s
  | (key, n) :: ks, bs =>
    let s := notePosted s vf key
    writeKeys (putKey (if note then noteWrite s lid key else s) key (bs.take n)) lid vf note ks (bs.drop n)

/-- The write of a release at system scope to these keys comes after the flush of the function's links, when it goes to
host memory (21 R363). -/
def flushFor (s : State) (vf : Nat) (ks : List (Nat × Nat)) : State :=
  if ks.any fun k => isHostKey k.1 then flushLinks s vf else s

def engRead (s : State) (b : Option Block) (vf : Nat) (va : DWord) (n : Nat) (whole : Bool := false) :
    Except Trip (List Byte) × State :=
  match engResolve b vf .engineRead (piecesOf va n) s with
  | (.ok ks, s) =>
    let s := ks.foldl (fun s k => detect s (b.map Block.lid) k.1 k.2) s
    let (bs, s) := readKeys s ks whole
    (.ok bs, s)
  | (.error e, s) => (.error e, s)
def engWrite (s : State) (b : Option Block) (lid vf : Nat) (va : DWord) (bs : List Byte) : Except Trip Unit × State :=
  match engResolve b vf .engineWrite (piecesOf va bs.length) s with
  | (.ok ks, s) => (.ok (), writeKeys s lid vf true ks bs)
  | (.error e, s) => (.error e, s)

/-- An operation does its work with its earlier looks at memory at hand. -/
def withLooks (s : State) (o : EOp) (work : State → State) : State :=
  let s := work { s with lens := o.past, lensId := o.id }
  { updOp s o.id (fun x => { x with past := s.lens }) with lens := [], lensId := 0 }

/-- What one member of an operation with several reads, with its own looks at hand. -/
def looking {α : Type} (s : State) (o : EOp) (read : State → α × State) : α × State :=
  let (x, s) := read { s with lens := o.past, lensId := o.id }
  (x, { s with lens := [], lensId := 0 })

/-- A read or write of the device itself (rings, records, status entries), through a function's page tables: none when
the address has no such page (log 15). No launch owns the write. -/
def devRead (s : State) (vf : Nat) (va : DWord) (n : Nat) : Option (List Byte) × State :=
  match engResolve none vf .load (piecesOf va n) s with
  | (.ok ks, s) =>
    let s := ks.foldl (fun s k => noteRequest s k.1) s
    (some (ks.flatMap fun k => memRead s k.1 k.2), s)
  | (.error _, s) => (none, s)
/-- `rel` when the write is a release at system scope. -/
def devWrite (s : State) (vf : Nat) (va : DWord) (bs : List Byte) (rel : Bool := false) : Bool × State :=
  match engResolve none vf .store (piecesOf va bs.length) s with
  | (.ok ks, s) =>
    let s := if rel then flushFor s vf ks else s
    (true, ks.foldl (fun (x : State × List Byte) k =>
      (memWrite (notePosted x.1 vf k.1) k.1 (x.2.take k.2), x.2.drop k.2)) (s, bs) |>.1)
  | (.error _, s) => (false, s)
def natAt (bs : List Byte) (off n : Nat) : Nat := ofBytes ((bs.drop off).take n)
/-- A number read by the device; 0 when its page cannot be read. -/
def devNat (s : State) (vf : Nat) (va : DWord) (n : Nat) : Nat × State :=
  match devRead s vf va n with
  | (some bs, s) => (ofBytes bs, s)
  | (none, s) => (0, s)
def devPut (s : State) (vf : Nat) (va : DWord) (n v : Nat) (rel : Bool := false) : State :=
  (devWrite s vf va (bytesOf n v) rel).2
def addrAt (va : DWord) (n : Nat) : DWord := va + BitVec.ofNat 64 n

/-! ### MSI-X (R369): a vector is raised once for each event; while masked its pending bit is kept -/

def send (s : State) (m : Msg) : State := { s with outbox := s.outbox ++ [m] }
def raiseMsix (s : State) (vf vec : Nat) : State :=
  if s.msixMask.contains (vf, vec) then send s (.msix vf vec)
  else if s.msixPend.contains (vf, vec) then s
  else { s with msixPend := s.msixPend ++ [(vf, vec)] }

/-! ### The error queue (R194, R385) -/

/-- A record enters the function's queue; a full queue drops it and counts it. -/
def postErr (s : State) (vf : Nat) (r : ErrRec) : State :=
  let add (q : ErrQueue) : ErrQueue :=
    if q.recs.length < 256 then { q with recs := q.recs ++ [r] } else { q with lost := min (q.lost + 1) (2 ^ 32 - 1) }
  let had := s.errqs.any fun q => q.vf == vf
  let full := s.errqs.any fun q => q.vf == vf && decide (256 ≤ q.recs.length)
  let s := if had then { s with errqs := s.errqs.map fun q => if q.vf == vf then add q else q }
           else { s with errqs := s.errqs ++ [⟨vf, [r], 0⟩] }
  if full then s else raiseMsix s vf 2

/-- Table 12 of chapter 7 as 64 bytes. -/
def ErrRec.bytes (r : ErrRec) (lost : Nat) : List Byte :=
  bytesOf 8 (r.kind + r.code.toNat * 2 ^ 8 + r.unit * 2 ^ 16) ++ bytesOf 8 r.addr.toNat ++ bytesOf 8 r.time ++
  bytesOf 4 lost ++ bytesOf 4 r.nthr ++ bytesOf 4 r.blk ++ bytesOf 4 r.tid ++ bytesOf 8 r.tag.toNat ++
  bytesOf 8 r.pc.toNat ++ bytesOf 8 r.va.toNat

/-- The oldest record of a function's queue leaves it, with the drops counted before it. -/
def takeErr (s : State) (vf : Nat) : Option (List Byte) × State :=
  match s.errqs.find? fun q => q.vf == vf with
  | some q =>
    match q.recs with
    | [] => (none, s)
    | r :: rs =>
      (some (r.bytes q.lost),
        { s with errqs := s.errqs.map fun x => if x.vf == vf then { x with recs := rs, lost := 0 } else x })
  | none => (none, s)

def noThread : Nat := 0xFFFFFFFF

/-! ### An engine's failed access (08 R198) -/

/-- The requester kind of Table 11-5. A scope's accesses have none of their own and take the replay unit's (log 16). -/
def reqKind : Work → Nat
  | .fill _ _ _ => 1 | .store _ _ _ _ => 1 | .gather _ => 2 | .slot _ _ => 3 | .coll _ => 4 | .mpost => 5 | .mrecv => 5
  | .ring _ => 6 | .ropen _ _ => 6 | .replay _ => 7 | .topen _ _ => 7 | .scope _ => 7

/-- The issuing thread traps, even if it has exited since: its record keeps the trap and its launch terminates. The service
that terminates a launch traps no thread of it (R276). -/
def trapOwner (s : State) (o : EOp) (code : BitVec 8) (va : DWord) : State :=
  match o.uid with
  | some u => if o.quiet then s else takeTrap s ⟨u, code, o.pc, va⟩
  | none => s

/-- The operation waits for the page's answer (R198). -/
def holdOp (s : State) (o : EOp) (page : Nat) (va : DWord) (acc : Acc) (n : Nat) : State :=
  if o.held.contains page then s
  else askWalk (updOp s o.id fun o => { o with held := o.held ++ [page], heldVa := va }) o.vf page acc (.engine o.id (reqKind o.work) n)

end Sys2Proof.Machine
end

