-- ==== Sys2Proof/Machine/Launch.lean ====
section
/-! DEFINITION. From a launch record to its end: Table 1-7 read, the record checks of Table 5-3 (05 R123, 01 R42–R44,
R18, R32), contracts and room (14 R305, R308–R311), placement (14 R313, R314), the start of threads (01 R22, R45),
SPAWN's children (05 R117–R119), and the ends of threads, blocks and launches (01 R16, R45, R384; 05 R129, R130). -/

namespace Sys2Proof.Machine

/-! ### Launch records -/

def LaunchRec.ofBytes (bs : List Byte) : LaunchRec :=
  let x := Sys2Proof.ofBytes bs
  let f (lo w : Nat) : Nat := bitsN x lo w
  let d (lo : Nat) : DWord := BitVec.ofNat 64 (f lo 64)
  { tag := d 704, compval := d 640, compaddr := d 576, stackbytes := f 544 32, stackbase := d 448, mstream := d 384,
    seed := d 320, planes := f 294 2, det := f 293 1 = 1, chk := f 292 1 = 1, prio := f 288 4, pallet := f 272 16,
    vault := f 256 16, tier := f 240 8, budget := f 232 8, group := f 208 16, ntid := f 192 16, nblk := f 128 32,
    kptr := d 64, entry := d 0,
    zeros := f 768 256 = 0 && f 512 32 = 0 && f 296 24 = 0 && f 248 8 = 0 && f 224 8 = 0 && f 160 32 = 0 }

def recGangs (r : LaunchRec) : Nat := (r.ntid + 31) / 32
def recPlanes (r : LaunchRec) : Nat := if r.mstream = 0 then 0 else r.planes + 1
def recRegs (r : LaunchRec) : Nat := recGangs r * 32 * r.budget

/-! ### Room (R28, R44, R236) -/

/-- What a block occupies: its core, its gangs at its budget, its runs of pages (first page of the device, length) and its
quad's accumulator planes. -/
structure Occ where
  core : Nat
  gangs : Nat
  budget : Nat
  vrun : Nat × Nat
  prun : Nat × Nat
  planes : Nat
deriving DecidableEq, Repr

def unitCores : Nat → Nat
  | 0 => 1 | 1 => 4 | 2 => 16 | 3 => 48 | _ => 384
def unitCount (tier : Nat) : Nat := 384 / unitCores tier
def coresOf (tier unit : Nat) : List Nat := (List.range (unitCores tier)).map (unit * unitCores tier + ·)

/-- Gangs of a block in use: those with a thread record, and open packs (R119). -/
def gangsInUse (s : State) (b : Block) : List Nat :=
  ((s.threads.filter fun t => t.bid == b.bid && decide (t.gang < 32)).map Thread.gang).dedup
def gangCount (s : State) (b : Block) : Nat := (gangsInUse s b).length + b.packs.length

def occOf (s : State) (b : Block) : Occ :=
  let r := ((s.launch? b.lid).map Launch.rcd).getD {}
  ⟨b.core, gangCount s b, r.budget, (b.vpage, b.vspan), (b.ppage, b.ppages), recPlanes r⟩
def occupants (s : State) (keep : Block → Bool) : List Occ := (s.blocks.filter fun b => b.res != .saved && keep b).map (occOf s)

def freeRegs (occ : List Occ) (core : Nat) : Nat :=
  131072 - ((occ.filter fun o => o.core == core).map fun o => o.gangs * 32 * o.budget).sum

/-- May `gangs` more gangs of a budget, in `blocks` more blocks, live on the core (R28)? -/
def coreHolds (occ : List Occ) (core budget gangs blocks : Nat) : Bool :=
  let on := occ.filter fun o => o.core == core
  decide (on.length + blocks ≤ 8) &&
  decide ((on.map Occ.gangs).sum + gangs ≤ 64) &&
  decide (((on.filter fun o => o.budget == budget).map Occ.gangs).sum + gangs ≤ 4096 / budget) &&
  decide ((on.map fun o => o.gangs * 32 * o.budget).sum + gangs * 32 * budget ≤ 131072)

/-- The lowest run of `n` free pages of a quad, at page `p` or above. -/
def findRun (used : List (Nat × Nat)) (quad n : Nat) : Nat → Nat → Option Nat
  | 0, _ => none
  | fuel + 1, p =>
    if p + n > 128 then none
    else
      let lo := quad * 128 + p
      match used.find? fun r => r.2 != 0 && decide (r.1 < lo + n) && decide (lo < r.1 + r.2) with
      | none => some lo
      | some r => findRun used quad n fuel (r.1 + r.2 - quad * 128)
def runs (occ : List Occ) : List (Nat × Nat) := occ.flatMap fun o => [o.vrun, o.prun]

/-- A quad gives room only above state 1 (R381); its state byte is in the power registers. -/
def islandState (s : State) (i : Nat) : Nat := barField s 0 0x30000 (832 + 8 * i) 3
/-- A scope that is pre-empted has given its unit up (R278, R356). -/
def scopeAway (s : State) (x : Tourn) : Bool := s.blocks.any fun b => b.res == .saved && x.entrants.any fun e => e.lid == b.lid
/-- Cores that tournament scopes hold (R348). -/
def scopeCores (s : State) : List Nat :=
  (s.scopes.filter fun x => !x.ended && !scopeAway s x).flatMap fun x => coresOf x.tier x.unit
def coreUp (s : State) (core : Nat) : Bool :=
  decide (1 < islandState s (coreQuad core)) && !(s.changes.any fun c => c.island == coreQuad core && decide (c.code ≤ 1))
def coreOpen (s : State) (core : Nat) : Bool := coreUp s core && !(scopeCores s).contains core

/-- A block of a record on a core, its pages taken from the lowest free runs of the quad. -/
def fitOn (occ : List Occ) (r : LaunchRec) (core : Nat) : Option Occ :=
  let q := coreQuad core
  let used := runs occ
  if !coreHolds occ core r.budget (recGangs r) 1 then none
  else if ((occ.filter fun o => coreQuad o.core == q).map Occ.planes).sum + recPlanes r > 4 then none
  else
    match findRun used q r.vault 260 0 with
    | none => none
    | some v =>
      match findRun ((v, r.vault) :: used) q r.pallet 260 0 with
      | none => none
      | some p => some ⟨core, recGangs r, r.budget, (v, r.vault), (p, r.pallet), recPlanes r⟩

/-- R313: the core with the most free lane registers among those with room, ties to the lowest. -/
def bestCore (occ : List Occ) (r : LaunchRec) : List Nat → Option Occ
  | [] => none
  | c :: cs =>
    match fitOn occ r c, bestCore occ r cs with
    | some o, some p => some (if freeRegs occ p.core ≤ freeRegs occ o.core then o else p)
    | some o, none => some o
    | none, p => p

/-- All `n` blocks of a group in ascending block index, or none of them. -/
def placeAll (r : LaunchRec) (cores : List Nat) : Nat → List Occ → Option (List Occ)
  | 0, _ => some []
  | n + 1, occ =>
    match bestCore occ r cores with
    | none => none
    | some o => (placeAll r cores n (o :: occ)).map fun os => o :: os

/-! ### Philox4x32-10 (07 R188) -/

def philoxRound (c : List Nat) (k0 k1 : Nat) : List Nat :=
  let p := 0xD2511F53 * c.getD 0 0
  let q := 0xCD9E8D57 * c.getD 2 0
  [Nat.xor (Nat.xor (q / 2 ^ 32) (c.getD 1 0)) k0, q % 2 ^ 32, Nat.xor (Nat.xor (p / 2 ^ 32) (c.getD 3 0)) k1, p % 2 ^ 32]
def philoxLoop : Nat → List Nat → Nat → Nat → List Nat
  | 0, c, _, _ => c
  | n + 1, c, k0, k1 => philoxLoop n (philoxRound c k0 k1) ((k0 + 0x9E3779B9) % 2 ^ 32) ((k1 + 0xBB67AE85) % 2 ^ 32)
def philox (c : List Nat) (seed : DWord) : List Nat := philoxLoop 10 c (pairLo seed).toNat (pairHi seed).toNat

/-- R314: block `j` on core E[x mod |E|]; a later block that finds no core fails the attempt. -/
def placeDet (r : LaunchRec) (cores : List Nat) (a first : Nat) : Nat → List Occ → Option (List Occ)
  | 0, _ => some []
  | n + 1, occ =>
    let E := cores.filter fun c => (fitOn occ r c).isSome
    let x := (philox [first, a, 0, 1] r.seed).getD 0 0
    match (E[x % max E.length 1]?).bind (fitOn occ r) with
    | none => none
    | some o => (placeDet r cores a (first + 1) n (o :: occ)).map fun os => o :: os
def detAttempts (r : LaunchRec) (cores : List Nat) (first : Nat) (occ : List Occ) : List Nat → Option (List Occ)
  | [] => none
  | a :: as =>
    match placeDet r cores a first r.group occ with
    | some os => some os
    | none => detAttempts r cores first occ as

/-- A group in the lowest-numbered unit whose allowed cores can hold it (R313, R314). -/
def placeIn (r : LaunchRec) (first : Nat) (occ : List Occ) (allowed : Nat → Bool) : List Nat → Option (List Occ)
  | [] => none
  | u :: us =>
    let cores := (coresOf r.tier u).filter allowed
    match placeAll r cores r.group occ with
    | none => placeIn r first occ allowed us
    | some os => if r.det then (match detAttempts r cores first occ (List.range 16) with | some d => some d | none => some os) else some os
def placeGroup (r : LaunchRec) (first : Nat) (occ : List Occ) (allowed : Nat → Bool) : Option (List Occ) :=
  placeIn r first occ allowed (List.range (unitCount r.tier))

/-! ### The record checks (R123) -/

/-- The launch's share of the reserve: pallet slots beyond the pallet pages (R32), stream save areas (R255). -/
def overflowBytes (r : LaunchRec) : Nat :=
  r.nblk * ((r.ntid - r.pallet * 65536 / slotBytes r) * slotBytes r +
    (if r.mstream = 0 then 0 else 512 * 1024 + 256 * 1024 * (r.planes + 1) + 4096))
/-- A block's save area (R278). -/
def saveBytes (r : LaunchRec) : Nat := (r.vault + r.pallet) * 65536 + 16384
/-- R18: blocks of one unit, otherwise empty. -/
def groupCap (r : LaunchRec) : Nat :=
  let perCore := min (min 8 (64 / recGangs r)) (min (4096 / r.budget / recGangs r) (131072 / recRegs r))
  let pages := r.vault + r.pallet
  let perQuad := min (if pages = 0 then 32 else 128 / pages) (if recPlanes r = 0 then 32 else 4 / recPlanes r)
  if r.tier = 0 then min perCore perQuad else unitCores r.tier / 4 * min (4 * perCore) perQuad

/-- Eight bytes of code as admission sees them, without a fault: absent, forbidden, or the word (R42). -/
inductive Peek where
  | absent | bad | word (w : DWord)
deriving DecidableEq, Repr
def peekCode (s : State) (vf : Nat) (a : DWord) : Peek × State :=
  if !canonicalVa a || inVaultRange a then (.bad, s)
  else
    match translate s vf a (some .fetch) with
    | (.notPresent, s) => (.absent, s)
    | (.prot, s) => (.bad, s)
    | (.frame key pte _, s) => if pte.getLsbD 1 then (.word (memWord s key), noteRequest s key) else (.bad, s)

/-- Status 0x01 of Table 5-3. -/
def badRecord (s : State) (vf : Nat) (r : LaunchRec) : Bool × State :=
  let plain := !r.zeros || r.ntid == 0 || decide (1024 < r.ntid) || r.nblk == 0 || decide (2 ^ 31 < r.nblk) ||
    (r.group != 0 && r.nblk % r.group != 0) || decide (2 ^ 31 < r.nblk * r.ntid) || (r.mstream == 0 && r.planes != 0) ||
    decide (128 < r.vault + r.pallet) || decide (128 < r.vault) || decide (128 < r.pallet) || r.compaddr.toNat % 8 != 0 ||
    r.stackbase.toNat % 16 != 0 || r.kptr.toNat % 16 != 0 || r.stackbytes % 16 != 0 || decide (2 ^ 20 < r.stackbytes)
  if plain then (true, s)
  else if r.mstream = 0 then (false, s)
  else if r.mstream.toNat % 8 ≠ 0 then (true, s)
  else
    match peekCode s vf r.mstream with
    | (.absent, s) => (false, s)
    | (.bad, s) => (true, s)
    | (.word w, s) => ((Header.of w).marker != 0b1011, s)

def badEntry (s : State) (vf : Nat) (r : LaunchRec) : Bool × State :=
  if r.entry.toNat % 8 ≠ 0 || !canonicalVa r.entry then (true, s)
  else
    match peekCode s vf r.entry with
    | (.absent, s) => (false, s)
    | (.bad, s) => (true, s)
    | (.word w, s) => ((Header.of w).marker != 0b1011 || !(Header.of w).region, s)

/-- The lowest of the causes 0x01 to 0x06 that a record meets; 0 when it meets none. -/
def recordStatus (s : State) (vf : Nat) (r : LaunchRec) : Nat × State :=
  let (bad, s) := badRecord s vf r
  if bad then (0x01, s)
  else if 4 < r.tier then (0x02, s)
  else if r.budget < 16 || 224 < r.budget || r.budget % 8 ≠ 0 then (0x03, s)
  else if r.group = 0 || 3072 < r.group || groupCap r < r.group then (0x04, s)
  else
    let (bad, s) := badEntry s vf r
    if bad then (0x05, s)
    else if (reserveFit s vf [overflowBytes r]).isNone then (0x06, s)
    else (0, s)

/-! ### Contracts (R305, R308–R311) -/

def queueOff (q : Nat) : Nat := 0x1000 + 64 * q
def qField (s : State) (vf q lo w : Nat) : Nat := barField s vf (queueOff q) lo w
def setQField (s : State) (vf q lo w v : Nat) : State := setBarField s vf (queueOff q) lo w v
def homesOf (s : State) (vf q : Nat) : List Nat := ((s.homes.find? fun h => h.vf == vf && h.q == q).map QueueHome.quads).getD []
/-- The contract's queue of a quad, if it is a home quad. -/
def homeOwner (s : State) (quad : Nat) : Option (Nat × Nat) :=
  (s.homes.find? fun h => h.quads.contains quad).map fun h => (h.vf, h.q)

def isQueue (l : Launch) (vf q : Nat) : Bool := l.vf == vf && l.queue == some q

/-- Room that reservations of held launches keep, as occupants. -/
def reservedOcc (s : State) (not : Option Nat) : List Occ :=
  (s.launches.filter fun l => some l.lid != not).flatMap fun l => l.reserved.map fun (x : Nat × Nat) =>
    ⟨x.1, recGangs l.rcd, l.rcd.budget, (x.2 / 1024, l.rcd.vault), (x.2 % 1024 + coreQuad x.1 * 128, l.rcd.pallet), recPlanes l.rcd⟩

/-- Does a block borrow the room it holds (R310)? In a home quad that is so of other work than the queue's, and of groups
of the queue itself that no reservation placed. -/
def borrows (s : State) (b : Block) : Bool :=
  match homeOwner s (coreQuad b.core) with
  | none => false
  | some (vf, q) => b.borrowed || !((s.launch? b.lid).map fun l => isQueue l vf q).getD false

/-- The unit of the running scope that a launch is an entrant of: the scope holds every core of it (19 R348). -/
def scopeUnit (s : State) (lid : Nat) : List Nat :=
  match entrantOf s lid with
  | some (x, _) => coresOf x.tier x.unit
  | none => []

/-- R309: a unit's room in the queue's home quads that its own blocks do not hold and that is not reserved for its held
launches. Borrowers' room counts as free. -/
def contractRoom (s : State) (vf q : Nat) (r : LaunchRec) : Option (List Occ) :=
  let home := homesOf s vf q
  let own : State := { s with launches := s.launches.filter fun l => isQueue l vf q }
  let occ := occupants s (fun b => !borrows s b) ++ reservedOcc own none
  placeGroup r 0 occ fun c => home.contains (coreQuad c) && coreUp s c

/-- Does a borrower hold room that a reserved block `o` takes: its core's, its quad's planes, a page of its runs, or a core
of its scope's unit? -/
def takesRoom (s : State) (occ : List Occ) (o : Occ) (b : Block) : Bool :=
  (scopeUnit s b.lid).contains o.core ||
  (o.core == b.core && !coreHolds occ o.core o.budget 0 0) ||
  (coreQuad o.core == coreQuad b.core &&
    ((o.planes != 0 && (occOf s b).planes != 0 && decide (4 < ((occ.filter fun p => coreQuad p.core == coreQuad o.core).map Occ.planes).sum)) ||
      ([o.vrun, o.prun].any fun x => ([(b.vpage, b.vspan), (b.ppage, b.ppages)] : List (Nat × Nat)).any fun y =>
        x.2 != 0 && y.2 != 0 && decide (x.1 < y.1 + y.2) && decide (y.1 < x.1 + x.2))))

def groupOf (s : State) (b : Block) : Nat × Nat := (b.lid, b.idx / max (((s.launch? b.lid).map fun l => l.rcd.group).getD 1) 1)

/-- Blocks of chosen groups are to be pre-empted, whole groups at a time (R278). -/
def wantGroups (s : State) (groups : List (Nat × Nat)) : State :=
  { s with blocks := s.blocks.map fun b =>
      if groups.contains (groupOf s b) && b.res == .resident then { b with wanted := true } else b }

/-- Bytes of the save areas of one group. -/
def groupSave (r : LaunchRec) : Nat := r.group * saveBytes r

/-- B of R310: save bytes of all borrowing groups with a block in the quad. -/
def borrowedBytes (s : State) (quad : Nat) : Nat :=
  let gs := ((s.blocks.filter fun b => borrows s b && b.res != .saved && coreQuad b.core == quad).map (groupOf s)).dedup
  (gs.map fun g => ((s.launch? g.1).map fun (l : Launch) => groupSave l.rcd).getD 0).sum

/-- R310: may a group borrow room in a quad? -/
def mayBorrow (s : State) (quad bytes : Nat) : Bool :=
  match homeOwner s quad with
  | none => true
  | some (vf, q) =>
    let clocks := 256 + (borrowedBytes s quad + bytes + 127) / 128
    decide (160 + 5 * clocks ≤ 8 * qField s vf q 352 32)

/-- Borrowing groups whose room a reservation takes are to be pre-empted whole (R311). -/
def reclaim (s : State) (room : List Occ) : State :=
  let occ := occupants s (fun _ => true) ++ reservedOcc s none
  wantGroups s ((s.blocks.filter fun b => borrows s b && b.res == .resident && room.any fun o => takesRoom s occ o b).map (groupOf s)).dedup

/-- R23: the constants, read once; a page that cannot be read gives words the manual leaves open (log 17). -/
def readConsts (s : State) (vf : Nat) (kptr : DWord) : Sparse 32 × State :=
  match devRead s vf kptr 128 with
  | (some bs, s) => (Sparse.setList ([] : Sparse 32) 0 ((List.range 32).map fun i => BitVec.ofNat 32 (natAt bs (4 * i) 4)), s)
  | (none, s) =>
    (Sparse.setList ([] : Sparse 32) 0 ((List.range 32).map fun i => Config.freeWord (s.free + i)), { s with free := s.free + 32 })

/-- An accepted launch comes to exist. -/
def newLaunch (s : State) (vf : Nat) (queue : Option Nat) (parent : Parent) (r : LaunchRec) (res : List (Nat × Nat)) : Nat × State :=
  let (k, s) := readConsts s vf r.kptr
  let spot := ((reserveFit s vf [overflowBytes r]).getD []).headD 0
  let (lid, s) := fresh s
  (lid, { s with launches := s.launches ++
    [{ lid := lid, vf := vf, queue := queue, parent := parent, rcd := r, consts := k, nextTid := r.nblk * r.ntid,
       acceptedAt := s.clock, reserved := res, overflowAt := spot, overflow := overflowBytes r }] })

def queueEnabled (s : State) (vf q : Nat) : Bool := qField s vf q 128 1 == 1
def share (s : State) (vf q : Nat) : Nat := qField s vf q 336 8

/-- Admission of a record to a queue: the status of Table 5-3 in the order of R123; an accepted record is a launch that is
held until it starts. -/
def admitRecord (s : State) (vf q : Nat) (bs : List Byte) : Nat × State :=
  let r := LaunchRec.ofBytes bs
  let refuse (code : Nat) (s : State) : Nat × State :=
    (code, setQField s vf q 160 32 (min (qField s vf q 160 32 + 1) (2 ^ 32 - 1)))
  if !queueEnabled s vf q then refuse 0x09 s
  else if 64 ≤ qField s vf q 192 32 then refuse 0x08 s
  else
    let (st, s) := recordStatus s vf r
    if st ≠ 0 then refuse st s
    else
      let held (s : State) : State := setQField s vf q 192 32 (qField s vf q 192 32 + 1)
      if share s vf q = 0 then (0, held (newLaunch s vf (some q) .queue r []).2)
      else
        match contractRoom s vf q r with
        | none => refuse 0x07 s
        | some room =>
          let res := room.map fun o => (o.core, o.vrun.1 * 1024 + (o.prun.1 - coreQuad o.core * 128))
          (0, reclaim (held (newLaunch s vf (some q) .queue r res).2) room)

/-! ### The start of threads and blocks (R11, R22, R45, R118) -/

/-- Where pallet slot `i` of block `idx` lies (01 R32): in the pallet pages as many as they hold, then in the launch's
overflow area. -/
def palletSpot (r : LaunchRec) (overflowAt idx ppage i : Nat) : Option Nat :=
  let inPages := r.pallet * 65536 / slotBytes r
  let rest := r.ntid - inPages
  if i < inPages then some (vaultSpace + ppage * 65536 + i * slotBytes r)
  else if i - inPages < rest then some (overflowAt + (idx * rest + (i - inPages)) * slotBytes r)
  else none

/-- A thread at its start, parked at the entry header (R50). What its pallet slot holds before its first save the spec does not
say: here a save at the entry with live = the budget (DESIGN CHOICE, log 93). -/
def newThread (uid lid bid tid gang lane : Nat) (r : LaunchRec) (entry : DWord) (regs : Sparse 32) (clk : Nat)
    (spot : Option Nat) : Thread :=
  let stack := r.stackbase + BitVec.ofNat 64 ((tid + 1) * r.stackbytes)
  let h : DWord := BitVec.ofNat 64 (tid + 1)
  let x : Pallet := { pc := entry, stack := stack, live := r.budget, regs := regs, hash := h }
  { uid := uid, lid := lid, bid := bid, tid := tid, gang := gang, lane := lane, hdr := entry, regs := regs, stack := stack,
    hash := h, parkedAt := clk, lastIssue := clk, pallet := x, palletAt := spot, image := palletBytes tid x }

/-- The stream of a block at its start (R233, R246): planes zero, the chain the identity. -/
def chainTable : List Word :=
  (List.range 65).map fun i => (BitVec.ofNat 32 (if i = 0 then 0 else
    (127 + Nat.log2 i - 6) * 2 ^ 23 + (i - 2 ^ Nat.log2 i) * 2 ^ (23 - Nat.log2 i)))
def newStream (pc : DWord) : Stream := { pc := pc, chain := { y := chainTable } }

/-- Zeroes `n` vault pages from a page of the device. -/
def zeroPages (s : State) (page n : Nat) : State :=
  let lo := vaultSpace + page * 65536
  { s with mem := s.mem.filter fun c => !(decide (lo ≤ c.1) && decide (c.1 < lo + n * 65536)) }

/-- Block `idx` of a launch becomes resident; its threads are parked at the entry header (R50), and their start is an
acquire at device scope (R122, R358). -/
def startBlock (s : State) (l : Launch) (idx : Nat) (o : Occ) (vspan : Nat) (borrowed : Bool) : State :=
  let (bid, s) := fresh s
  let r := l.rcd
  let save := ((reserveFit s l.vf [saveBytes r]).getD []).headD 0
  let uid0 := s.nextId
  let ts := (List.range r.ntid).map fun i =>
    newThread (uid0 + i) l.lid bid (idx * r.ntid + i) (i / 32) (i % 32) r r.entry [] s.clock
      (palletSpot r l.overflowAt idx o.prun.1 i)
  let b : Block :=
    { bid := bid, lid := l.lid, idx := idx, core := o.core, vpage := o.vrun.1, vpages := r.vault, vspan := vspan,
      ppage := o.prun.1, ppages := r.pallet, saveAt := save, saveLen := saveBytes r, borrowed := borrowed, placedAt := s.clock,
      stream := if r.mstream = 0 then none else some (newStream r.mstream) }
  -- R321, R348: a replay's blocks and an entrant's slots start with zeros; otherwise the pages keep what they hold (log 18)
  let s := match l.parent with
    | .replay _ => zeroPages s o.vrun.1 r.vault
    | .entrant _ _ => zeroPages s o.vrun.1 vspan
    | .queue => s
  acquire { s with nextId := uid0 + r.ntid, blocks := s.blocks ++ [b], threads := s.threads ++ ts } o.core l.vf .dv

/-- A group's blocks become resident together (R17). The first group of a queue's launch ends its being held (R305). -/
def startGroup (s : State) (lid : Nat) (room : List Occ) (borrowed : Bool) : State :=
  match s.launch? lid with
  | none => s
  | some l =>
    let first := l.placed * l.rcd.group
    let s := ((List.range room.length).zip room).foldl (fun s x => startBlock s l (first + x.1) x.2 l.rcd.vault borrowed) s
    let s := match l.queue with
      | some q => if l.placed = 0 then setQField s l.vf q 192 32 (qField s l.vf q 192 32 - 1) else s
      | none => s
    updLaunch s lid fun l => { l with placed := l.placed + 1, reserved := [] }

/-! ### SPAWN's children (R117–R119) -/

/-- Fits(block) of R117: fewer than 1,024 threads, fewer than 32 gangs with the open packs, and room for one more under R28
beside what is reserved (R309). -/
def childFits (s : State) (b : Block) (budget : Nat) : Bool :=
  decide ((s.threads.filter fun t => t.bid == b.bid).length < 1024) && decide (gangCount s b < 32) &&
  coreHolds (occupants s (fun _ => true) ++ reservedOcc s none) b.core budget 1 0

/-- The lowest gang index not in use. -/
def lowestFree (used : List Nat) : Nat := ((List.range 32).find? fun g => !used.contains g).getD 32

/-- A pack closes: its children become a gang, ready 16 clocks later. -/
def closePack (s : State) (bid : Nat) (entry : DWord) : State :=
  match s.block? bid with
  | none => s
  | some b =>
    match b.packs.find? fun p => p.entry == entry with
    | none => s
    | some p =>
      let g := lowestFree (gangsInUse s b)
      let lane (u : Nat) : Nat := p.uids.idxOf u
      let s := { s with threads := s.threads.map fun t =>
        if p.uids.contains t.uid then { t with gang := g, lane := lane t.uid } else t }
      updBlock s bid fun b => { b with packs := b.packs.filter fun q => q.entry != entry,
                                       newGangs := b.newGangs ++ [⟨g, s.clock + 16⟩] }

/-- A SPAWN child's pallet slot: the lowest place of its block's that no thread has, else one more of the launch's area in
the reserve (DESIGN CHOICE, log 33); none where the reserve has no room. -/
def childSpot (s : State) (b : Block) (l : Launch) : Option Nat :=
  let spots := (List.range 1024).filterMap (palletSpot l.rcd l.overflowAt b.idx b.ppage)
  let held := (s.threads.filter fun t => t.bid == b.bid).filterMap Thread.palletAt
  (spots.find? fun x => !held.contains x).or ((reserveFit s l.vf [slotBytes l.rcd]).bind List.head?)

/-- One child is created and joins its pack; a sr.tid of 0xFFFF_FFFF traps the parent's lane instead (R15). -/
def makeChild (s : State) (b : Block) (l : Launch) (q : SpawnReq) : State :=
  if l.nextTid = noThread then takeTrap s ⟨q.uid, 0x02, q.pc, 0⟩
  else
    let (uid, s) := fresh s
    let regs := Sparse.setList ([] : Sparse 32) 0 q.args
    let t : Thread := { newThread uid l.lid b.bid l.nextTid 255 0 l.rcd q.entry regs s.clock (childSpot s b l) with spawned := true }
    let s := { s with threads := s.threads ++ [t] }
    let s := updLaunch s l.lid fun l => { l with nextTid := l.nextTid + 1 }
    let s := updBlock s b.bid fun b =>
      if b.packs.any (fun p => p.entry == q.entry) then
        { b with packs := b.packs.map fun p => if p.entry == q.entry then { p with uids := p.uids ++ [uid] } else p }
      else { b with packs := b.packs ++ [⟨q.entry, s.clock, [uid]⟩] }
    let full := ((s.block? b.bid).map fun b => b.packs.any fun p => p.entry == q.entry && decide (32 ≤ p.uids.length)).getD false
    if full then closePack s b.bid q.entry else s

/-- Waiting SPAWNs of a block go on in their order while the block can hold the next child. -/
def trySpawns : Nat → State → Nat → State
  | 0, s, _ => s
  | n + 1, s, bid =>
    match s.block? bid with
    | none => s
    | some b =>
      match b.spawns, s.launch? b.lid with
      | q :: rest, some l =>
        if childFits s b l.rcd.budget then
          trySpawns n (makeChild (updBlock s bid fun b => { b with spawns := rest }) b l q) bid
        else s
      | _, _ => s

/-! ### Ends (R16, R45, R129, R130, R384) -/

/-- The completion or termination word (R384): none when it is written, else the code of its failure. -/
def writeWord (s : State) (l : Launch) (v : DWord) : Option (BitVec 8) × State :=
  let a := l.rcd.compaddr
  if a = 0 then (none, s)
  else if !canonicalVa a then (some 0x06, s)
  else if inVaultRange a then (some 0x11, s)
  else
    match translate s l.vf a (some .store) with
    | (.frame key _ _, s) =>
      let s := notePosted (flushFor s l.vf [(key, 8)]) l.vf key
      (none, memWrite s key (bytesOf 8 v.toNat))
    | (.notPresent, s) => (some 0x10, s)
    | (.prot, s) => (some 0x11, s)

def termWord (t : Term) : DWord := BitVec.ofNat 64 (0xFF * 2 ^ 56 + t.code.toNat * 2 ^ 40 + t.tid % 2 ^ 32)

def errOf (s : State) (l : Launch) (t : Term) : ErrRec :=
  { kind := t.kind, code := t.code, tid := t.tid, blk := t.blk, tag := l.rcd.tag, pc := t.pc, va := t.va, nthr := t.nthr,
    time := s.clock, addr := t.addr, unit := t.unit }

/-- Every block of the launch has ended: its error record, its word, and a parent that waits for it (R45, R129). -/
def endLaunch (s : State) (l : Launch) : State :=
  let s := { s with launches := s.launches.filter fun x => x.lid != l.lid }
  let s := match l.queue with
    | some q => if l.placed = 0 then setQField s l.vf q 192 32 (qField s l.vf q 192 32 - 1) else s
    | none => s
  let trapped : Option Term := l.term.bind fun t => if t.kind = 0 then none else some t
  let s := match trapped with
    | some t => if l.silent then s else postErr s l.vf (errOf s l t)
    | none => s
  -- the word carries the writes of every thread of the launch (R286)
  let (fail, s) := if l.silent then (none, s) else writeWord (cleanFunction s l.vf) l (match trapped with | some t => termWord t | none => l.rcd.compval)
  let s := match fail with
    | some code => postErr s l.vf { kind := 4, code := code, tid := noThread, blk := noThread, tag := l.rcd.tag, time := s.clock, addr := l.rcd.compaddr }
    | none => s
  match l.parent with
  | .replay rid => updReplay s rid fun r =>
      { r with child := none, endCode := (trapped.map Term.code).getD r.endCode,
               sigs := r.sigs ++ [l.sig], run := if l.silent then r.run else r.run + 1 }
  | _ => s

/-- A launch with nothing left ends. -/
def checkLaunch (s : State) (lid : Nat) : State :=
  match s.launch? lid with
  | none => s
  | some l =>
    let gone := s.blocks.all fun b => b.lid != lid
    let isOver := match l.term with
      | some t => t.stopped
      | none => l.ended == l.rcd.nblk
    if gone && isOver then endLaunch s l else s

/-- Is the block's stream over, or has it none (R233)? -/
def streamDone (b : Block) : Bool :=
  match b.stream with
  | none => true
  | some x => (x.ended || x.stopped) && x.running.isEmpty

/-- A block ends when its thread records are freed and its stream is over, with what that stream has asked of the tile
engine (R16, R233). -/
def checkBlock (s : State) (bid : Nat) : State :=
  match s.block? bid with
  | none => s
  | some b =>
    let stopped := ((s.launch? b.lid).map fun l => (l.term.map Term.stopped).getD false).getD false
    if s.threads.all (fun t => t.bid != bid) && b.spawns.isEmpty && (streamDone b || (stopped && (b.stream.map fun x => x.running.isEmpty).getD true))
        && s.ops.all (fun o => o.bid != bid || o.uid.isSome) then
      let s := settleBlock s bid
      let s := { s with blocks := s.blocks.filter fun x => x.bid != bid,
                        wctx := s.wctx.map fun w => { w with holder := if w.holder == some bid then none else w.holder,
                                                             reqs := w.reqs.filter (fun q => q.bid != bid),
                                                             path := w.path.filter (· != bid) } }
      checkLaunch (updLaunch s b.lid fun l => { l with ended := l.ended + 1 }) b.lid
    else s

/-- Requesters of an ended launch leave the pages they are held on (R276). -/
def dropRequesters (s : State) (lid : Nat) : State :=
  let mine (u : Nat) : Bool := ((s.thread? u).map fun t => t.lid == lid).getD true
  let keep (r : Requester) : Option Requester :=
    match r with
    | .threads us own =>
      let us := us.filter fun u => !mine u
      if us.isEmpty then none else some (.threads us (own.filter fun u => !mine u))
    | .stream bid => if ((s.block? bid).map fun b => b.lid == lid).getD true then none else some r
    | .engine op _ _ =>
      -- parked elements leave their pages; other engine operations wait on
      match s.op? op with
      | some o => if o.lid == lid then (match o.work with | .gather _ => none | _ => some r) else some r
      | none => none
  { s with pending := s.pending.map fun p => { p with who := p.who.filterMap keep },
           walks := s.walks.filterMap fun w => (keep w.who).map fun r => { w with who := r } }

/-- The launch has stopped (R129): no thread of it is to continue, its streams end, its held SPAWNs and parked gather
elements are over; engine operations already issued complete. -/
def stopLaunch (s : State) (lid : Nat) : State :=
  let code := (((s.launch? lid).bind Launch.term).map Term.code).getD 0
  let s := dropRequesters s lid
  let us := (s.threads.filter fun t => t.lid == lid && t.life != .exited).map Thread.uid
  let s := leaveSlots s us
  let stop (t : Thread) : Thread :=
    { t with life := .stopped, wait := .none, heldPages := [], ownFaults := [], mergeHeld := false, roundHeld := false,
             pend := t.pend.filter fun p => p.op.isSome }
  let s : State := { s with threads := s.threads.map fun t => if t.lid == lid && t.life != .exited then stop t else t }
  let halt (x : Stream) : Stream :=
    { x with stopped := true, queue := [], heldPages := [], running := x.running.map fun r => { r with drain := none } }
  let clear (b : Block) : Block :=
    { b with spawns := [], packs := [], newGangs := [], xinsts := [], holds := [], stream := b.stream.map halt, params := [] }
  let s : State := { s with blocks := s.blocks.map fun b => if b.lid == lid then clear b else b }
  -- a stopped stream consumes no record and drains no beat: those operations complete
  let s := (s.ops.filter fun o => o.lid == lid).foldl (fun s o =>
    match o.work with
    | .mpost => finishOp s o [] []
    | .mrecv => finishOp s o [] []
    | .gather g => updOp s o.id fun o => { o with held := [], work := .gather { g with
        parked := [], ended := g.ended ++ g.parked.map fun k => (k.1, code, k.2.2) } }
    | _ => s) s
  let s := updLaunch s lid fun l => { l with reserved := [], term := l.term.map fun t => { t with stopped := true } }
  let s := (s.blocks.filter fun b => b.lid == lid).foldl (fun s b => checkBlock s b.bid) s
  checkLaunch s lid

/-- The record of an exited thread is freed once its counters are zero (R16): its path joins the launch's signature. Its
pallet slot keeps what it holds. -/
def freeRecord (s : State) (t : Thread) : State :=
  let s := match t.palletAt with
    | some key => memWrite s key t.image
    | none => s
  let s := { s with threads := s.threads.filter fun x => x.uid != t.uid }
  let s := updLaunch s t.lid fun l => { l with sig := l.sig ^^^ t.hash }
  checkBlock (trySpawns 1024 s t.bid) t.bid

/-- Table 1-1's Exited, and threads stopped with their launch, with no operation outstanding. -/
def recordFreeable (t : Thread) : Bool := (t.life == .exited || t.life == .stopped) && t.ops.isEmpty

end Sys2Proof.Machine
end

