-- ==== Sys2Proof/Machine/MemoryInstr.lean ====
section
/-! DEFINITION. The memory class (07 R169–R186): one shared access operation resolves every active lane's address first
(so that a page that is not present leaves no lane with an effect), then performs the lanes. -/

namespace Sys2Proof.Machine

/-! ### The shared access -/

/-- A lane, its address, and how the address resolved. -/
structure LaneAcc where
  t : Thread
  a : DWord
  r : Except Trouble Place

/-- Each lane's address, resolved. A trap of `veto` (a marked atomic in deterministic mode, R176) comes after the address
traps 0x06 and 0x05 and before the window check's 0x09, which no rule orders (DESIGN CHOICE, log 96). -/
def resolveLanes (c : Ctx) (addr : Thread → DWord) (n align : Nat) (acc : Acc) (h : Hint)
    (veto : Thread → Option (BitVec 8)) : List Thread → State → List LaneAcc × State
  | [], s => ([], s)
  | t :: ts, s =>
    let a := addr t
    let (r, s) :=
      match veto t with
      | some code =>
        if !canonicalVa a then (.error (.trap 0x06), s)
        else if a.toNat % align != 0 then (.error (.trap 0x05), s)
        else (.error (.trap code), s)
      | none => resolve s c.b c.vf a n align acc h
    let (rs, s) := resolveLanes c addr n align acc h veto ts s
    (⟨t, a, r⟩ :: rs, s)

def LaneAcc.trap? (c : Ctx) (x : LaneAcc) : Option TrapOf :=
  match x.r with
  | .error (.trap code) => some ⟨x.t.uid, code, c.pc, if code = 0x30 then 0 else x.a⟩
  | _ => none
def LaneAcc.fault? (x : LaneAcc) : Option (Nat × DWord) :=
  match x.r with
  | .error (.notPresent _) => some (x.t.uid, x.a)
  | _ => none
def LaneAcc.place? (x : LaneAcc) : Option (Thread × Place) :=
  match x.r with
  | .ok pl => some (x.t, pl)
  | _ => none

def overlap (n : Nat) : List (Thread × Place) → Bool
  | [] => false
  | x :: xs => xs.any (fun y => rangesMeet (placeKey x.2) n (placeKey y.2) n) || overlap n xs

/-- Takes element `i` out of a list. -/
def takeOut {α : Type} : Nat → List α → Option (α × List α)
  | _, [] => none
  | 0, x :: xs => some (x, xs)
  | i + 1, x :: xs => (takeOut i xs).map fun r => (r.1, x :: r.2)

/-- An order of one's own choosing (R173: lanes that meet write in an order that is not specified). -/
def shuffle {α : Type} : Nat → List α → State → List α × State
  | 0, xs, s => (xs, s)
  | k + 1, xs, s =>
    let (i, s) := draw s xs.length
    match takeOut i xs with
    | none => (xs, s)
    | some (x, rest) => let (ys, s) := shuffle k rest s; (x :: ys, s)

/-- The lanes that request their 128-byte line first in this issue (R325). -/
def firstOnLine : List (Thread × Place) → List Nat → List (Thread × Place × Bool)
  | [], _ => []
  | x :: xs, seen =>
    let k := placeKey x.2 / 128
    (x.1, x.2, !seen.contains k) :: firstOnLine xs (k :: seen)

def vaultLanes (rs : List LaneAcc) : Nat := (rs.filter fun x => inAperture x.a).length

/-- What issues one lane's access: the lane, its place, and whether it is the first of the issue on its line. -/
abbrev LaneOne := Ctx → Thread → Place → Bool → State → State

/-- The access of every active lane. `veto` is a trap that every lane takes once its address is sound; `barred` tells the
places at which the access is protected whatever the page says (R179). -/
def access (f : Fields) (p : Pre) (addr : Launch → Thread → DWord) (n align : Nat) (acc : Acc) (h : Hint) (ev : Nat)
    (veto : Ctx → Option (BitVec 8)) (barred : State → Place → Bool) (one : LaneOne) (s : State) :
    Host.Outcome State Fault Refusal :=
  issue f p (fun c s =>
    let (rs, s) := resolveLanes c (addr c.l) n align acc h (fun _ => veto c) (lanes s c) s
    let bar (x : LaneAcc) : LaneAcc :=
      match x.r with
      | .ok pl => if barred s pl then { x with r := .error (.trap 0x11) } else x
      | _ => x
    let rs := rs.map bar
    let traps := rs.filterMap (LaneAcc.trap? c)
    let faults := rs.filterMap LaneAcc.fault?
    if !faults.isEmpty then { s := s, traps := traps, faults := faults, acc := acc }
    else
      let s := countEvent (countEvent s c.core c.l.lid ev c.act.length) c.core c.l.lid 0x0F (vaultLanes rs)
      let ok := rs.filterMap LaneAcc.place?
      let (ok, s) := if acc != .load && overlap n ok then shuffle ok.length ok s else (ok, s)
      { s := (firstOnLine ok []).foldl (fun s x => one c x.1 x.2.1 x.2.2 s) s, traps := traps }) s

def noVeto (_ : Ctx) : Option (BitVec 8) := none
def neverBarred (_ : State) (_ : Place) : Bool := false
/-- Base pair plus signed offset (R66). -/
def baseOff (a : Reg) (off : BitVec 24) (l : Launch) (t : Thread) : DWord := readPair l t a + sx 64 off
/-- LDL and STL (R184). -/
def stackAddr (idx : Bool) (a : Reg) (off : BitVec 24) (l : Launch) (t : Thread) : DWord :=
  t.stack + (if idx then zx 64 (readReg l t a) else 0) + sx 64 off

/-! ### Loads and stores (R174) -/

def regsBytes (l : Launch) (t : Thread) (b : Reg) (n : Nat) : List Byte :=
  (List.range (n / 4)).flatMap fun i => bytesOf 4 (readReg l t (b + BitVec.ofNat 8 i)).toNat

/-- The registers that a load of `n` bytes writes. -/
def formDsts (form : LoadForm) (d : Reg) (n : Nat) : List Nat :=
  match form with
  | .words => (List.range (n / 4)).map (d.toNat + ·)
  | .bits _ _ => [d.toNat]

def laneAccess (c : Ctx) (t : Thread) (pl : Place) (h : Hint) (first tail : Bool) (act : AccessAct) : Access :=
  ⟨0, t.uid, c.b.bid, c.core, c.l.lid, c.vf, pl, h, first, tail, act⟩

/-- One lane's load: its registers are marked until its pieces have been performed (R173, 12 R283). -/
def loadLane (c : Ctx) (t : Thread) (pl : Place) (first : Bool) (n : Nat) (h : Hint) (form : LoadForm) (d : Reg)
    (preds : List (Nat × Bool)) (now : Bool) (s : State) : State :=
  let (id, s) := openResult s t.uid (pieces n).length (formDsts form d n) preds (!l1Hit s c.core c.vf pl n h) false true
  (pieces n).foldl (fun s x =>
    sendAccess s (laneAccess c t (pl.plus x.1) h (first && x.1 == 0) (x.1 != 0) (.load x.2 form (d.toNat + x.1 / 4) id)) now) s

/-- One lane's store of `bs`, a release first when `rel` is. -/
def storeLane (c : Ctx) (t : Thread) (pl : Place) (first : Bool) (h : Hint) (bs : List Byte) (rel : Option Scope) (s : State) : State :=
  (pieces bs.length).foldl (fun s x =>
    sendAccess s (laneAccess c t (pl.plus x.1) (fencedHint t h) (first && x.1 == 0) (x.1 != 0) (.store ((bs.drop x.1).take x.2) rel)))
    (flushFenced s t c.vf pl)

def load (f : Fields) (p : Pre) (addr : Launch → Thread → DWord) (n : Nat) (h : Hint) (form : LoadForm) (d : Reg)
    (s : State) : Host.Outcome State Fault Refusal :=
  access f p addr n n .load h 4 noVeto neverBarred (fun c t pl first => loadLane c t pl first n h form d [] false) s
def store (f : Fields) (p : Pre) (addr : Launch → Thread → DWord) (n align : Nat) (h : Hint) (dat : Launch → Thread → List Byte)
    (s : State) : Host.Outcome State Fault Refusal :=
  access f p addr n align .store h 5 noVeto neverBarred (fun c t pl first => storeLane c t pl first h (dat c.l t) none) s

def execLdS8 (p : Pre) (d a : Reg) (off : BitVec 24) (h : Hint) (s : State) :=
  load (enLd 0x0E0 p d a off h) p (baseOff a off) 1 h (.bits 8 true) d s
def execLdN8 (p : Pre) (d a : Reg) (off : BitVec 24) (h : Hint) (s : State) :=
  load (enLd 0x0E1 p d a off h) p (baseOff a off) 1 h (.bits 8 false) d s
def execLdS16 (p : Pre) (d a : Reg) (off : BitVec 24) (h : Hint) (s : State) :=
  load (enLd 0x0E2 p d a off h) p (baseOff a off) 2 h (.bits 16 true) d s
def execLdN16 (p : Pre) (d a : Reg) (off : BitVec 24) (h : Hint) (s : State) :=
  load (enLd 0x0E3 p d a off h) p (baseOff a off) 2 h (.bits 16 false) d s
def execLd32 (p : Pre) (d a : Reg) (off : BitVec 24) (h : Hint) (s : State) :=
  load (enLd 0x0E4 p d a off h) p (baseOff a off) 4 h .words d s
def execLd64 (p : Pre) (d a : Reg) (off : BitVec 24) (h : Hint) (s : State) :=
  load (enLd 0x0E5 p d a off h) p (baseOff a off) 8 h .words d s
def execLd128 (p : Pre) (d a : Reg) (off : BitVec 24) (h : Hint) (s : State) :=
  load (enLd 0x0E6 p d a off h) p (baseOff a off) 16 h .words d s
def lowBytes (n : Nat) (b : Reg) (l : Launch) (t : Thread) : List Byte := bytesOf n (readReg l t b).toNat
def execSt8 (p : Pre) (a : Reg) (off : BitVec 24) (b : Reg) (h : Hint) (s : State) :=
  store (enSt 0x0E7 p a off b h) p (baseOff a off) 1 1 h (lowBytes 1 b) s
def execSt16 (p : Pre) (a : Reg) (off : BitVec 24) (b : Reg) (h : Hint) (s : State) :=
  store (enSt 0x0E8 p a off b h) p (baseOff a off) 2 2 h (lowBytes 2 b) s
def execSt32 (p : Pre) (a : Reg) (off : BitVec 24) (b : Reg) (h : Hint) (s : State) :=
  store (enSt 0x0E9 p a off b h) p (baseOff a off) 4 4 h (lowBytes 4 b) s
def wideBytes (n : Nat) (b : Reg) (l : Launch) (t : Thread) : List Byte := regsBytes l t b n
def execSt64 (p : Pre) (a : Reg) (off : BitVec 24) (b : Reg) (h : Hint) (s : State) :=
  store (enSt 0x0EA p a off b h) p (baseOff a off) 8 8 h (wideBytes 8 b) s
def execSt128 (p : Pre) (a : Reg) (off : BitVec 24) (b : Reg) (h : Hint) (s : State) :=
  store (enSt 0x0EB p a off b h) p (baseOff a off) 16 16 h (wideBytes 16 b) s

def execLdl32 (p : Pre) (d : Reg) (idx : Bool) (a : Reg) (off : BitVec 24) (h : Hint) (s : State) :=
  load (enLdl 0x106 p d idx a off h) p (stackAddr idx a off) 4 h .words d s
def execLdl64 (p : Pre) (d : Reg) (idx : Bool) (a : Reg) (off : BitVec 24) (h : Hint) (s : State) :=
  load (enLdl 0x107 p d idx a off h) p (stackAddr idx a off) 8 h .words d s
def execLdl128 (p : Pre) (d : Reg) (idx : Bool) (a : Reg) (off : BitVec 24) (h : Hint) (s : State) :=
  load (enLdl 0x108 p d idx a off h) p (stackAddr idx a off) 16 h .words d s
def execStl32 (p : Pre) (idx : Bool) (a : Reg) (off : BitVec 24) (b : Reg) (h : Hint) (s : State) :=
  store (enStl 0x109 p idx a off b h) p (stackAddr idx a off) 4 4 h (lowBytes 4 b) s
def execStl64 (p : Pre) (idx : Bool) (a : Reg) (off : BitVec 24) (b : Reg) (h : Hint) (s : State) :=
  store (enStl 0x10A p idx a off b h) p (stackAddr idx a off) 8 8 h (wideBytes 8 b) s
def execStl128 (p : Pre) (idx : Bool) (a : Reg) (off : BitVec 24) (b : Reg) (h : Hint) (s : State) :=
  store (enStl 0x10B p idx a off b h) p (stackAddr idx a off) 16 16 h (wideBytes 16 b) s

/-- ZLINE (R183). -/
def execZline (p : Pre) (a : Reg) (off : BitVec 24) (h : Hint) (s : State) :=
  store (enAH 0x10F p a off h) p (baseOff a off) 128 128 h (fun _ _ => List.replicate 128 0) s

/-! ### Scoped loads and stores (R175) -/

def semAcq : Sem → Bool
  | .acq => true | .ar => true | _ => false
def semRel : Sem → Bool
  | .rel => true | .ar => true | _ => false

/-- A scoped load (R175). An acquiring one is performed at its issue, and the acquire follows it. -/
def loadScoped (f : Fields) (p : Pre) (d a : Reg) (off : BitVec 24) (n : Nat) (sem : Sem) (sc : Scope) (s : State) :
    Host.Outcome State Fault Refusal :=
  access f p (baseOff a off) n n .load (pointHint sc) 4 noVeto neverBarred (fun c t pl first s =>
    let s := loadLane c t pl first n (pointHint sc) .words d [] (semAcq sem) s
    if semAcq sem then acquire s c.core c.vf (placeScope pl sc) else s) s
def storeScoped (f : Fields) (p : Pre) (a : Reg) (off : BitVec 24) (b : Reg) (n : Nat) (sem : Sem) (sc : Scope) (s : State) :
    Host.Outcome State Fault Refusal :=
  access f p (baseOff a off) n n .store (pointHint sc) 5 noVeto neverBarred (fun c t pl first =>
    storeLane c t pl first (pointHint sc) (regsBytes c.l t b n) (if semRel sem then some (placeScope pl sc) else none)) s
def execLda32 (p : Pre) (d a : Reg) (off : BitVec 24) (sem : Sem) (sc : Scope) (s : State) :=
  loadScoped (enLda 0x0EC p d a off sem sc) p d a off 4 sem sc s
def execLda64 (p : Pre) (d a : Reg) (off : BitVec 24) (sem : Sem) (sc : Scope) (s : State) :=
  loadScoped (enLda 0x0ED p d a off sem sc) p d a off 8 sem sc s
def execStr32 (p : Pre) (a : Reg) (off : BitVec 24) (b : Reg) (sem : Sem) (sc : Scope) (s : State) :=
  storeScoped (enStr 0x0EE p a off b sem sc) p a off b 4 sem sc s
def execStr64 (p : Pre) (a : Reg) (off : BitVec 24) (b : Reg) (sem : Sem) (sc : Scope) (s : State) :=
  storeScoped (enStr 0x0EF p a off b sem sc) p a off b 8 sem sc s

/-! ### Atomics and reductions (R176–R179) -/

/-- An operand of an atomic on `n` bytes: a register, a pair or a quadruple (R177). -/
def atomOperand (l : Launch) (t : Thread) (r : Reg) (n : Nat) : BitVec 128 :=
  if n = 4 then zx 128 (readReg l t r) else if n = 8 then zx 128 (readPair l t r) else readQuad l t r

/-- To host memory only the operations of R179 are performed, as PCIe AtomicOps: requests must be enabled, and a completer
that does not support them answers Unsupported Request (21 R364). -/
def hostBars (pcie : Bool) (s : State) (pl : Place) : Bool :=
  match pl with
  | .global _ k => isHostKey k && (!pcie || !s.atomicOps || s.noAtomics.contains (k / 2 ^ 16))
  | _ => false

/-- One lane's atomic. An acquiring one is performed at its issue, and so is an AtomicOp. -/
def atomLane (c : Ctx) (t : Thread) (pl : Place) (first : Bool) (op : AtomOp) (n : Nat) (d : Option Reg) (b k : Reg) (sem : Sem)
    (sc : Scope) (s : State) : State :=
  let h := if placeHost pl then .byl2 else fencedHint t (pointHint sc)
  let at_ := placeScope pl sc
  let (id, s) : Nat × State :=
    match d with
    | some d => openResult s t.uid 1 (formDsts .words d n) [] (!l1Hit s c.core c.vf pl n h) true false
    | none => (0, s)
  let s := sendAccess (flushFenced s t c.vf pl)
    (laneAccess c t pl h first false (.rmw op n (atomOperand c.l t b n) (atomOperand c.l t k n) (if semRel sem then some at_ else none)
      (d.map BitVec.toNat) id)) (semAcq sem || placeHost pl)
  if semAcq sem then acquire s c.core c.vf at_ else s

/-- The shared atomic: `d` is none for RED, `k` the register of a cas's new value; `marked` by Table 7-3's deterministic
column; `pcie` when R179 lists it. -/
def atomic (f : Fields) (p : Pre) (d : Option Reg) (a : Reg) (off : BitVec 24) (n : Nat) (sem : Sem) (sc : Scope)
    (marked pcie : Bool) (op : AtomOp) (b k : Reg) (s : State) : Host.Outcome State Fault Refusal :=
  access f p (baseOff a off) n n .atomic (pointHint sc) 6 (fun c => if c.l.rcd.det && marked then some 0x30 else none)
    (hostBars pcie) (fun c t pl first => atomLane c t pl first op n d b k sem sc) s

def execAtom32Add (p : Pre) (d a : Reg) (off : BitVec 24) (b : Reg) (sem : Sem) (sc : Scope) (s : State) :=
  atomic (enAtom 0x0F0 p d a off b sem sc) p (some d) a off 4 sem sc false true (.int .add) b b s
def execAtom32MinS (p : Pre) (d a : Reg) (off : BitVec 24) (b : Reg) (sem : Sem) (sc : Scope) (s : State) :=
  atomic (enAtom 0x0F1 p d a off b sem sc) p (some d) a off 4 sem sc false false (.int .minS) b b s
def execAtom32MinN (p : Pre) (d a : Reg) (off : BitVec 24) (b : Reg) (sem : Sem) (sc : Scope) (s : State) :=
  atomic (enAtom 0x0F2 p d a off b sem sc) p (some d) a off 4 sem sc false false (.int .minN) b b s
def execAtom32MaxS (p : Pre) (d a : Reg) (off : BitVec 24) (b : Reg) (sem : Sem) (sc : Scope) (s : State) :=
  atomic (enAtom 0x0F3 p d a off b sem sc) p (some d) a off 4 sem sc false false (.int .maxS) b b s
def execAtom32MaxN (p : Pre) (d a : Reg) (off : BitVec 24) (b : Reg) (sem : Sem) (sc : Scope) (s : State) :=
  atomic (enAtom 0x0F4 p d a off b sem sc) p (some d) a off 4 sem sc false false (.int .maxN) b b s
def execAtom32And (p : Pre) (d a : Reg) (off : BitVec 24) (b : Reg) (sem : Sem) (sc : Scope) (s : State) :=
  atomic (enAtom 0x0F5 p d a off b sem sc) p (some d) a off 4 sem sc false false (.int .and) b b s
def execAtom32Or (p : Pre) (d a : Reg) (off : BitVec 24) (b : Reg) (sem : Sem) (sc : Scope) (s : State) :=
  atomic (enAtom 0x0F6 p d a off b sem sc) p (some d) a off 4 sem sc false false (.int .or) b b s
def execAtom32Xor (p : Pre) (d a : Reg) (off : BitVec 24) (b : Reg) (sem : Sem) (sc : Scope) (s : State) :=
  atomic (enAtom 0x0F7 p d a off b sem sc) p (some d) a off 4 sem sc false false (.int .xor) b b s
def execAtom32Exch (p : Pre) (d a : Reg) (off : BitVec 24) (b : Reg) (sem : Sem) (sc : Scope) (s : State) :=
  atomic (enAtom 0x0F8 p d a off b sem sc) p (some d) a off 4 sem sc true true .exch b b s
def execAtom32Cas (p : Pre) (d a : Reg) (off : BitVec 24) (b c : Reg) (sem : Sem) (sc : Scope) (s : State) :=
  atomic (enCas 0x0F9 p d a off b c sem sc) p (some d) a off 4 sem sc true true .cas b c s
def execAtom64Add (p : Pre) (d a : Reg) (off : BitVec 24) (b : Reg) (sem : Sem) (sc : Scope) (s : State) :=
  atomic (enAtom 0x0FA p d a off b sem sc) p (some d) a off 8 sem sc false true (.int .add) b b s
def execAtom64Exch (p : Pre) (d a : Reg) (off : BitVec 24) (b : Reg) (sem : Sem) (sc : Scope) (s : State) :=
  atomic (enAtom 0x0FB p d a off b sem sc) p (some d) a off 8 sem sc true true .exch b b s
def execAtom64Cas (p : Pre) (d a : Reg) (off : BitVec 24) (b c : Reg) (sem : Sem) (sc : Scope) (s : State) :=
  atomic (enCas 0x0FC p d a off b c sem sc) p (some d) a off 8 sem sc true true .cas b c s
def execAtom64MaxN (p : Pre) (d a : Reg) (off : BitVec 24) (b : Reg) (sem : Sem) (sc : Scope) (s : State) :=
  atomic (enAtom 0x0FD p d a off b sem sc) p (some d) a off 8 sem sc false false (.int .maxN) b b s
def execAtomF32Add (p : Pre) (d a : Reg) (off : BitVec 24) (b : Reg) (rm : Rm) (sem : Sem) (sc : Scope) (s : State) :=
  atomic (enAtomF 0x0FE p d a off b rm sem sc) p (some d) a off 4 sem sc true false (.addF rm) b b s
def execAtomF64Add (p : Pre) (d a : Reg) (off : BitVec 24) (b : Reg) (rm : Rm) (sem : Sem) (sc : Scope) (s : State) :=
  atomic (enAtomF 0x0FF p d a off b rm sem sc) p (some d) a off 8 sem sc true false (.addF rm) b b s
def execAtomBf16x2Add (p : Pre) (d a : Reg) (off : BitVec 24) (b : Reg) (rm : Rm) (sem : Sem) (sc : Scope) (s : State) :=
  atomic (enAtomF 0x100 p d a off b rm sem sc) p (some d) a off 4 sem sc true false (.addHalves rm) b b s
def execRed32 (p : Pre) (a : Reg) (off : BitVec 24) (b : Reg) (op : RedOp) (sem : Sem) (sc : Scope) (s : State) :=
  atomic (enRed 0x101 p a off b op sem sc) p none a off 4 sem sc false false (.int op) b b s
def execRedF32Add (p : Pre) (a : Reg) (off : BitVec 24) (b : Reg) (rm : Rm) (sem : Sem) (sc : Scope) (s : State) :=
  atomic (enRedA 0x102 p a off b rm sem sc) p none a off 4 sem sc true false (.addF rm) b b s
def execAtomCas128 (p : Pre) (d a : Reg) (off : BitVec 24) (b c : Reg) (sem : Sem) (sc : Scope) (s : State) :=
  atomic (enCas 0x10C p d a off b c sem sc) p (some d) a off 16 sem sc true true .cas b c s

/-! ### Fences, prefetch, cache control (R180–R182) -/

/-- One lane's fence (R180). After a release the lane's stores and atomics are performed at the fence's scope at least
(12 R288). At .th it orders nothing. -/
def fenceLane (c : Ctx) (sem : Sem) (sc : Scope) (s : State) (uid : Nat) : State :=
  if sc = .th then s else
  let s := if semRel sem then
      updThread (releaseBy s uid c.core c.vf sc) uid fun t => { t with relScope := widerFence t.relScope sc }
    else s
  if semAcq sem then acquire (settleThread s uid) c.core c.vf sc else s

def execFence (p : Pre) (sem : Sem) (sc : Scope) (s : State) :=
  issue (enFence 0x103 p sem sc) p (fun c s => { s := c.act.foldl (fenceLane c sem sc) s }) s

/-- PREF has no architectural effect (R181). -/
def execPref (p : Pre) (a : Reg) (off : BitVec 24) (h : Hint) (s : State) :=
  issue (enAH 0x104 p a off h) p (fun _ s => { s := s }) s

/-- One lane of CCTL (R182). -/
def cacheControl (c : Ctx) (op : CctlOp) (lvl2 : Bool) (a : DWord) (s : State) : State :=
  let va := remap s c.vf a
  let line := inLine (lineBase (if lvl2 then coreRow c.core else c.core) c.vf va)
  let core (k : Nat) : Bool := keyUnit k == c.core
  let row (k : Nat) : Bool := keyUnit k == coreRow c.core
  match op with
  | .wb => if !canonicalVa a || inVaultRange a then s else if lvl2 then wbL2 s line else wbL1 s line
  | .inv => if !canonicalVa a || inVaultRange a then s else if lvl2 then flushL2 s line else flushL1 s line
  | .wball => if lvl2 then wbL2 (wbL1 s core) row else wbL1 s core
  | .invall => if lvl2 then flushL2 (flushL1 s core) row else flushL1 s core
def execCctl (p : Pre) (op : CctlOp) (lvl2 : Bool) (a : Reg) (off : BitVec 24) (s : State) :=
  issue (enCctl 0x105 p op lvl2 a off) p (fun c s =>
    { s := (lanes s c).foldl (fun s t => cacheControl c op lvl2 (baseOff a off c.l t) (settleThread s t.uid)) s }) s

/-! ### Probing accesses (R185, R186) -/

def execLdnf (p : Pre) (d : Reg) (w : BitVec 2) (a : Reg) (off : BitVec 24) (pd : BitVec 3) (h : Hint) (s : State) :=
  let n := 4 * 2 ^ w.toNat
  issue (enLdnf 0x10D p d w a off pd h) p (fun c s =>
    let (rs, s) := resolveLanes c (baseOff a off c.l) n n .load h (fun _ => none) (lanes s c) s
    let s := countEvent (countEvent s c.core c.l.lid 4 c.act.length) c.core c.l.lid 0x0F (vaultLanes rs)
    let s := (firstOnLine (rs.filterMap LaneAcc.place?) []).foldl (fun s x =>
      loadLane c x.1 x.2.1 x.2.2 n h .words d [(pd.toNat, true)] false s) s
    let failed (x : LaneAcc) : Bool := match x.r with | .ok _ => false | _ => true
    { s := (rs.filter failed).foldl (fun s x =>
        sendResult s x.t.uid none ((formDsts .words d n).map fun r => (r, 0)) [(pd.toNat, false)] (long := true) (load := true)) s }) s

/-- Table 7-5 of a leaf. `via` is the entry whose rights count. -/
def addrqWord (via leaf : DWord) (level : Nat) (remapped : Bool) (pa : Nat) : DWord :=
  let loc := match pteLoc leaf with | 0 => 0 | 1 => 1 | 2 => 3 | _ => 4
  let size := match level with | 3 => 0 | 2 => 1 | _ => 2
  let part := if pteLoc leaf = 0 then bitsN pa 16 3 else 0
  BitVec.ofNat 64 (part * 2 ^ 11 + loc * 2 ^ 8 + boolBit remapped * 2 ^ 7 + boolBit (pteCanon via) * 2 ^ 6 + size * 2 ^ 4
    + bitsN via.toNat 1 3 * 2 + 1)
/-- ADDRQ's answer (R186): 0 for an address that is not canonical or not mapped. It is 0 also for an alias that is not
declared or whose canonical leaf lacks canon, and for a walk that ends in protection: R186 does not say (DESIGN CHOICE,
log 82). -/
def addrq (s : State) (vf : Nat) (a : DWord) : DWord × State :=
  if !canonicalVa a then (0, s)
  else if inAperture a then (BitVec.ofNat 64 ((a.toNat - vaultBase) / 2 ^ 23 * 2 ^ 16 + 2 * 2 ^ 8 + 0b111), s)
  else if inVaultRange a then (0, s)
  else
    match walk s vf a with
    | (.leaf e level, s) =>
      let off := a.toNat % 2 ^ levelShift level
      if pteSynonym e then
        let canon := vaOf ((pteAddr e * 2 ^ 16) % 2 ^ 57 + off)
        match walk s vf canon with
        | (.leaf c cl, s) =>
          if pteCanon c && cl == level && declared s vf a canon then (addrqWord e c level true (pteAddr c * 2 ^ 16 + off), s) else (0, s)
        | (_, s) => (0, s)
      else (addrqWord e e level false (pteAddr e * 2 ^ 16 + off), s)
    | (_, s) => (0, s)
def execAddrq (p : Pre) (d a : Reg) (off : BitVec 24) (s : State) :=
  issue (enDA 0x10E p d a off) p (fun c s =>
    { s := (lanes s c).foldl (fun s t =>
        let (v, s) := addrq s c.vf (baseOff a off c.l t)
        sendResult s t.uid none (pairWrites d v) [] (long := true)) s }) s

end Sys2Proof.Machine
end

