-- ==== Sys2Proof/Machine/Control.lean ====
section
/-! DEFINITION. The control class (05 R111–R131). A branch hands its lanes' targets to the shared issue, which checks the
target headers, splits the course and enters them (02 R53–R55, 14 R318). -/

namespace Sys2Proof.Machine

/-- NOP (R112). -/
def execNop (p : Pre) (s : State) := issue (enP 0x000 p) p (fun _ s => { s := s }) s

/-! ### Transfers of control (R111, R113–R115) -/

/-- A target that is misaligned or non-canonical is a bad branch target; so is zero where it comes from a register, the
link or a table (R111, R114, R115). -/
def badTarget (zeroBad : Bool) (T : DWord) : Bool := T.toNat % 8 != 0 || !canonicalVa T || (zeroBad && T == 0)

/-- The lanes of a branch, each with its target; `link` for CALL and CALLX. -/
def branchFx (c : Ctx) (s : State) (zeroBad link : Bool) (ts : List (Nat × DWord)) : Fx :=
  let bad := ts.filter fun x => badTarget zeroBad x.2
  let good := ts.filter fun x => !badTarget zeroBad x.2
  { s := s, traps := bad.map fun x => ⟨x.1, 0x03, c.pc, 0⟩, targets := good,
    links := if link then good.map fun x => (x.1, c.Hn) else [] }

def branch (f : Fields) (p : Pre) (zeroBad link : Bool) (target : Ctx → Thread → DWord) (s : State) :
    Host.Outcome State Fault Refusal :=
  issue f p (fun c s => branchFx c s zeroBad link ((lanes s c).map fun t => (t.uid, target c t))) s

def offTarget (off : BitVec 24) (c : Ctx) (_ : Thread) : DWord := c.H + sx 64 off * 8
def regTarget (a : Reg) (c : Ctx) (t : Thread) : DWord := readPair c.l t a
def execBra (p : Pre) (off : BitVec 24) (s : State) := branch (enOff 0x001 p off) p false false (offTarget off) s
def execBrx (p : Pre) (a : Reg) (s : State) := branch (enA 0x002 p a) p true false (regTarget a) s
def execCall (p : Pre) (off : BitVec 24) (s : State) := branch (enOff 0x003 p off) p false true (offTarget off) s
def execCallx (p : Pre) (a : Reg) (s : State) := branch (enA 0x004 p a) p true true (regTarget a) s
def execRet (p : Pre) (s : State) := branch (enP 0x005 p) p true false (fun _ t => t.link) s

/-- The load of a table word. The thread issues nothing before it lands, which for data from beyond L1 is a long wait
(14 R316). -/
def tableLoad (c : Ctx) (t : Thread) (pl : Place) (h : Hint) (first : Bool) (s : State) : DWord × State :=
  let s := settleAt s t.uid (placeKey pl) 8
  let long := !l1Hit s c.core c.vf pl 8 h
  let seen := loadSeen s c.core c.vf pl 8 h
  let (bs, s) := loadAt s c.core c.l.lid c.vf pl 8 h first
  let s := updThread s t.uid fun t => { t with seen := max t.seen seen }
  (BitVec.ofNat 64 (ofBytes bs), addPend s t.uid { id := 0, due := .any, load := true, long := long, all := true })

/-- BRT (R115): the table load's address traps come first, then its fault, then a bad target. -/
def execBrt (p : Pre) (a b : Reg) (n : BitVec 24) (h : Hint) (s : State) :=
  if n.toInt ≤ 0 then trapCourse 0x01 s
  else
    issue (enBrt 0x013 p a b n h) p (fun c s =>
      let inTable (t : Thread) : Bool := decide ((readReg c.l t b).toNat < n.toNat)
      let addr (t : Thread) : DWord := readPair c.l t a + 8 * zx 64 (readReg c.l t b)
      let (rs, s) := resolveLanes c addr 8 8 .load h (fun _ => none) ((lanes s c).filter inTable) s
      let traps := rs.filterMap (LaneAcc.trap? c)
      let faults := rs.filterMap LaneAcc.fault?
      if !faults.isEmpty then { s := s, traps := traps, faults := faults }
      else
        let s := countEvent (countEvent s c.core c.l.lid 4 c.act.length) c.core c.l.lid 0x0F (vaultLanes rs)
        let (ts, s) := (firstOnLine (rs.filterMap LaneAcc.place?) []).foldl (fun (x : List (Nat × DWord) × State) lp =>
          let r := tableLoad c lp.1 lp.2.1 h lp.2.2 x.2
          (x.1 ++ [(lp.1.uid, r.1)], r.2)) ([], s)
        let fx := branchFx c s true false ts
        { fx with traps := traps ++ fx.traps }) s

/-- EXIT (R116, R16), at any position in a block. -/
def execExit (p : Pre) (s : State) :=
  issue (enP 0x006 p) p (fun c s =>
    let ts := lanes s c
    let s := ts.foldl (fun s t => exitThread s t.uid) s
    { s := (ts.map Thread.gang).dedup.foldl (fun s g => xRecheck s c.b.bid g) s }) s

/-! ### Creating threads and launches -/

/-- SPAWN (R117): each active lane's request joins the block's queue of requests; the parent issues nothing more until every
active lane's child has joined a pack. -/
def execSpawn (p : Pre) (b : Reg) (off : BitVec 24) (s : State) :=
  issue (enSpawn 0x007 p b off) p (fun c s =>
    let entry := c.H + sx 64 off * 8
    let s := (lanes s c).foldl (fun s t =>
      let s := releaseBy s t.uid c.core c.vf .dv
      let args := (List.range 8).map fun i => readReg c.l t (b + BitVec.ofNat 8 i)
      updBlock s c.b.bid fun b => { b with spawns := b.spawns ++ [⟨t.uid, c.act, entry, args, c.pc⟩] }) s
    { s := trySpawns 1024 s c.b.bid }) s

/-- `n` bytes that a thread reads within an instruction, after its own accesses to them (12 R283). -/
def readNow (c : Ctx) (uid : Nat) (pl : Place) (n : Nat) (s : State) : List Byte × State :=
  let s := settleAt s uid (placeKey pl) n
  let seen := loadSeen s c.core c.vf pl n .dflt
  let (bs, s) := loadAt s c.core c.l.lid c.vf pl n .dflt
  (bs, updThread s uid fun t => { t with seen := max t.seen seen })

/-- A lane's read of a vault address counts one vault access (R190). -/
def countVault (c : Ctx) (a : DWord) (s : State) : State := countEvent s c.core c.l.lid 0x0F (boolBit (inAperture a))

/-- `n` bytes at `a` read as loads of the thread, in 64-byte pieces (R196). -/
def readPieces (c : Ctx) (uid align : Nat) (a : DWord) : Nat → State → Except Trip (List Byte) × State
  | 0, s => (.ok [], s)
  | n + 1, s =>
    match resolve s c.b c.vf a 64 align .load .dflt with
    | (.error e, s) => (.error ⟨e, a⟩, s)
    | (.ok pl, s) =>
      let (bs, s) := readNow c uid pl 64 s
      match readPieces c uid 64 (a + 64) n s with
      | (.ok rest, s) => (.ok (bs ++ rest), s)
      | (.error e, s) => (.error e, s)
/-- A record of `n` pieces: one access of the lane. -/
def readChunks (c : Ctx) (uid align : Nat) (a : DWord) (n : Nat) (s : State) : Except Trip (List Byte) × State :=
  match readPieces c uid align a n s with
  | (.ok bs, s) => (.ok bs, countVault c a s)
  | (.error e, s) => (.error e, s)

/-- What several lanes read, all of it before any lane has an effect. -/
def readLanes {α : Type} (rd : Thread → State → Except Trip α × State) :
    List Thread → State → List (Thread × Except Trip α) × State
  | [], s => ([], s)
  | t :: ts, s =>
    let (r, s) := rd t s
    let (rs, s) := readLanes rd ts s
    ((t, r) :: rs, s)

/-- What one lane of a command did: a trap, with no effect in that lane, or a new state. -/
structure LaneDone where
  s : State
  trap : Option (BitVec 8 × DWord) := none

/-- The lanes that go on, each performed in gang-lane order; those that trapped are collected. -/
def perLane {α : Type} (c : Ctx) (one : Thread → α → State → LaneDone) :
    List (Thread × Except Trip α) → State → List TrapOf × State
  | [], s => ([], s)
  | (t, .ok x) :: rs, s =>
    let r := one t x s
    let (traps, s) := perLane c one rs r.s
    ((r.trap.map fun x => (⟨t.uid, x.1, c.pc, x.2⟩ : TrapOf)).toList ++ traps, s)
  | (t, .error ⟨.trap code, va⟩) :: rs, s =>
    let (traps, s) := perLane c one rs s
    (⟨t.uid, code, c.pc, va⟩ :: traps, s)
  | (_, .error _) :: rs, s => perLane c one rs s

/-- A command that reads nothing as a load: its lanes in gang-lane order. -/
def perLaneAt (c : Ctx) (addr : Thread → DWord) (one : Thread → DWord → State → LaneDone) (s : State) : Fx :=
  let (traps, s) := perLane c one ((lanes s c).map fun t => (t, .ok (addr t))) s
  { s := s, traps := traps }

def objFault? {α : Type} (x : Thread × Except Trip α) : Option (Nat × DWord) :=
  match x.2 with
  | .error ⟨.notPresent _, va⟩ => some (x.1.uid, va)
  | _ => none

/-- Would the command take a counter of an active lane above 63 (R30)? Then the course does not issue. -/
def counterFull (s : State) (p : Pre) (cls : EngClass) : Bool :=
  match s.cur with
  | .course us => (us.filterMap s.thread?).any fun t => guardHolds p.g t && decide (63 ≤ claims s t cls)
  | _ => false
/-- The course gives its turn up. -/
def stallCourse (s : State) : Host.Outcome State Fault Refusal := .next { s with cur := .none }

def objTrap? {α : Type} (c : Ctx) (x : Thread × Except Trip α) : Option TrapOf :=
  match x.2 with
  | .error ⟨.trap code, va⟩ => some ⟨x.1.uid, code, c.pc, va⟩
  | _ => none

/-- The vault accesses of a course that is discarded are not counted. -/
def vaultUncounted (before s : State) : State :=
  { s with pmcs := List.zipWith (fun p q => if p.event = 0x0F then q else p) s.pmcs before.pmcs }

/-- A command whose lanes read before they act (R196): a page that is not present leaves no lane with an effect (R171). -/
def commandR {α : Type} (f : Fields) (p : Pre) (rd : Ctx → Thread → State → Except Trip α × State)
    (one : Ctx → Thread → α → State → LaneDone) (s : State) : Host.Outcome State Fault Refusal :=
  issue f p (fun c s =>
    let before := s
    let (rs, s) := readLanes (rd c) (lanes s c) s
    let faults := rs.filterMap objFault?
    if !faults.isEmpty then { s := vaultUncounted before s, traps := rs.filterMap (objTrap? c), faults := faults }
    else
      let (traps, s) := perLane c (one c) rs s
      { s := s, traps := traps }) s

/-- A command that reads one record of `64 * chunks` bytes in each active lane. -/
def command (f : Fields) (p : Pre) (addr : Ctx → Thread → DWord) (chunks align : Nat)
    (one : Ctx → Thread → List Byte → State → LaneDone) (s : State) : Host.Outcome State Fault Refusal :=
  commandR f p (fun c t s => readChunks c t.uid align (addr c t) chunks s) one s

/-- An uncounted engine operation; `d` is the register it answers in. -/
def startUncounted (s : State) (c : Ctx) (t : Thread) (d : Option Reg) (work : Work) : Nat × State :=
  let (pend, s) := match d with
    | some d => awaitResult s t.uid [d.toNat] []
    | none => (0, s)
  let (id, s) := fresh s
  (id, { s with ops := s.ops ++ [{ id := id, vf := c.vf, lid := t.lid, bid := t.bid, uid := some t.uid, core := c.core, pc := c.pc,
                                   pend := pend, work := work }] })

def word32 (n : Nat) : Word := BitVec.ofNat 32 n

/-- SPAWNQ (R122). -/
def execSpawnq (p : Pre) (d a : Reg) (off : BitVec 24) (q : BitVec 4) (s : State) :=
  command (enSpawnQ 0x008 p d a off q) p (fun c t => baseOff a off c.l t) 2 64 (fun c t bs s =>
    let s := releaseBy s t.uid c.core c.vf .dv
    let (st, s) := admitRecord s c.vf q.toNat bs
    { s := sendResult s t.uid none [(d.toNat, word32 st)] [] (ckpt := true) }) s

/-! ### Waiting (R124–R127) -/

def execWaitc (p : Pre) (cls : EngClass) (n : BitVec 6) (s : State) :=
  issue (enWaitC 0x009 p cls n) p (fun c s =>
    { s := (lanes s c).foldl (fun s t =>
        if ecnt t cls ≤ n.toNat then acquireEngine s t.uid cls
        else updThread s t.uid fun t => { t with wait := .counter cls n.toNat }) s }) s

/-- One lane's arrival at barrier `b` with count `n`, releasing at core scope: its token, or the mismatch trap. -/
def laneArrive (c : Ctx) (b n : Nat) (t : Thread) (s : State) : Option (Bool × State) :=
  arriveBarrier (releaseBy s t.uid c.core c.vf .cr) c.b.bid t.uid b n

/-- Arrivals of the lanes in order; `k` goes on with a lane's token. -/
def arriveLanes (c : Ctx) (b n : Nat) (k : Thread → Bool → State → State) : List Thread → State → List TrapOf × State
  | [], s => ([], s)
  | t :: ts, s =>
    match laneArrive c b n t s with
    | none => let (xs, s) := arriveLanes c b n k ts s; (⟨t.uid, 0x0A, c.pc, 0⟩ :: xs, s)
    | some (tok, s) => arriveLanes c b n k ts (k t tok s)

def countOk (n : BitVec 11) : Bool := decide (n.toNat ≤ 1024)

def execBarArr (p : Pre) (d : Reg) (b : BitVec 4) (n : BitVec 11) (s : State) :=
  if !countOk n then trapCourse 0x01 s
  else
    issue (enBarArr 0x00A p d b n) p (fun c s =>
      let (traps, s) := arriveLanes c b.toNat n.toNat (fun t tok s =>
        sendResult s t.uid none [(d.toNat, word32 (boolBit tok))] [] (ckpt := true)) (lanes s c) s
      { s := s, traps := traps }) s

def phaseOf (s : State) (bid b : Nat) : Bool := ((s.block? bid).map fun x => (getBarrier x b).phase).getD false

def execBarWait (p : Pre) (a : Reg) (b : BitVec 4) (s : State) :=
  issue (enBarWait 0x00B p a b) p (fun c s =>
    { s := (lanes s c).foldl (fun s t =>
        let tok := (readReg c.l t a).getLsbD 0
        if phaseOf s c.b.bid b.toNat != tok then acquire s c.core c.vf .cr
        else updThread s t.uid fun t => { t with wait := .bar b.toNat tok }) s }) s

def execBarSync (p : Pre) (b : BitVec 4) (n : BitVec 11) (s : State) :=
  if !countOk n then trapCourse 0x01 s
  else
    issue (enBarSync 0x00C p b n) p (fun c s =>
      let (traps, s) := arriveLanes c b.toNat n.toNat (fun t tok s =>
        if phaseOf s c.b.bid b.toNat != tok then s
        else updThread s t.uid fun t => { t with wait := .barSync b.toNat tok }) (lanes s c) s
      { s := s, traps := traps }) s

/-- YIELD (R127): an acquire at its scope (none under .th); the slot leaves the active set. -/
def execYield (p : Pre) (sc : Scope) (s : State) :=
  issue (enYield 0x00D p sc) p (fun c s =>
    if c.act.isEmpty then { s := s }
    else
      let s := acquire s c.core c.vf sc
      let mark (x : Slot) : Slot := if x.uids.any c.uids.contains then { x with leave := true } else x
      { s := { s with slots := s.slots.map mark } }) s

def execSleep (p : Pre) (n : BitVec 24) (s : State) :=
  if n.toInt < 0 then trapCourse 0x01 s
  else
    issue (enSleep 0x011 p n) p (fun c s =>
      { s := if n = 0 then s
             else c.act.foldl (fun s u => updThread s u fun t => { t with wait := .sleep (s.clock + n.toNat) }) s }) s

/-! ### Traps (R131) -/

def trapLanes (c : Ctx) (code : BitVec 8) : List TrapOf := c.act.map fun u => ⟨u, code, c.pc, 0⟩

def execTrap (p : Pre) (code : BitVec 8) (s : State) :=
  if code.toNat < 0x80 then trapCourse 0x01 s
  else issue (enTrap 0x00E p code) p (fun c s => { s := s, traps := trapLanes c code }) s

/-- BKPT traps under the function's debug enable (Table 21-2), else acts as NOP. -/
def execBkpt (p : Pre) (s : State) :=
  issue (enP 0x00F p) p (fun c s => { s := s, traps := if fnField s c.vf 1 1 = 1 then trapLanes c 0x07 else [] }) s

def execUdf (_ : BitVec 55) (_ : BitVec 64) (s : State) := trapCourse 0x01 s

end Sys2Proof.Machine
end

