-- ==== Sys2Proof/Machine/System.lean ====
section
/-! DEFINITION. Special registers, random numbers, time, counters, the service ring and the error queue
(07 R187–R190, R193, R194). -/

namespace Sys2Proof.Machine

/-! ### Special registers (Table 1-4) -/

def classBit : EngClass → Nat
  | .cp => 0 | .ga => 6 | .mx => 12 | .co => 18 | .sl => 24 | .tr => 30 | .rp => 36
/-- sr.ecnt. -/
def ecntWord (t : Thread) : Nat :=
  (([.cp, .ga, .mx, .co, .sl, .tr, .rp] : List EngClass).map fun c => ecnt t c % 64 * 2 ^ classBit c).sum
/-- sr.place. -/
def placeWord (core : Nat) : Nat := core + coreQuad core * 2 ^ 9 + coreRow core * 2 ^ 16 + corePart core * 2 ^ 21
/-- sr.flags: bits [319:288] of the launch record. -/
def flagsWord (r : LaunchRec) : Nat := r.prio + boolBit r.chk * 2 ^ 4 + boolBit r.det * 2 ^ 5 + r.planes * 2 ^ 6

def sregValue (b : Block) (l : Launch) (t : Thread) (i : Nat) : DWord :=
  let n (x : Nat) : DWord := BitVec.ofNat 64 x
  match i with
  | 0x00 => n t.tid | 0x01 => n t.lane | 0x02 => n t.gang | 0x03 => n b.idx | 0x04 => n l.rcd.ntid | 0x05 => n l.rcd.nblk
  | 0x06 => n (b.idx / l.rcd.group) | 0x07 => n (b.idx % l.rcd.group) | 0x08 => n (placeWord b.core) | 0x09 => l.rcd.tag
  | 0x0A => l.rcd.seed | 0x0B => n (flagsWord l.rcd) | 0x10 => t.stack | 0x11 => t.link | 0x12 => t.rngc
  | 0x13 => zx 64 t.fflags | 0x14 => n (boolBit t.part) | 0x15 => n b.vbase | 0x16 => n b.vlimit | 0x17 => n (ecntWord t)
  | 0x18 => zx 64 b.estat | 0x19 => zx 64 t.trap | 0x1A => t.trappc | 0x1B => t.trapva
  | _ => 0

def execSreg (p : Pre) (d : Reg) (w64 : Bool) (idx : BitVec 24) (s : State) :=
  issue (enSreg 0x110 p d w64 idx) p (fun c s =>
    { s := (lanes s c).foldl (fun s t =>
        let b := (s.block? c.b.bid).getD c.b
        let v := sregValue b c.l t idx.toNat
        let regs := if w64 || sregWidth idx.toNat = 64 then pairWrites d v else [(d.toNat, pairLo v)]
        sendResult s t.uid none regs []) s }) s

/-- A nonzero bit in a field marked zero (R27). -/
def ssetBad (i : Nat) (v : DWord) : Bool :=
  match i with
  | 0x13 => decide (63 < v.toNat) | 0x14 => decide (1 < v.toNat) | 0x18 => decide (7 < v.toNat) | _ => false

def ssetLane (s : State) (t : Thread) (i : Nat) (v : DWord) : State :=
  match i with
  | 0x10 => updThread s t.uid fun t => { t with stack := v }
  | 0x11 => updThread s t.uid fun t => { t with link := v }
  | 0x12 => updThread s t.uid fun t => { t with rngc := v }
  | 0x13 => updThread s t.uid fun t => { t with fflags := zx 6 v }
  | 0x14 => updThread s t.uid fun t => { t with part := v.getLsbD 0 }
  | 0x18 => updBlock s t.bid fun b => { b with estat := b.estat &&& ~~~(zx 3 v) }
  | _ => s

def execSset (p : Pre) (idx : BitVec 24) (a : Reg) (s : State) :=
  issue (enSset 0x111 p idx a) p (fun c s =>
    let val (t : Thread) : DWord := if sregWidth idx.toNat = 64 then readPair c.l t a else zx 64 (readReg c.l t a)
    let ts := lanes s c
    let bad := ts.filter fun t => ssetBad idx.toNat (val t)
    let good := ts.filter fun t => !ssetBad idx.toNat (val t)
    { s := good.foldl (fun s t => ssetLane s t idx.toNat (val t)) s, traps := bad.map fun t => ⟨t.uid, 0x02, c.pc, 0⟩ }) s

/-! ### Random numbers, time (R188, R189) -/

/-- A word as an f32 in [0, 1): the top 24 bits times 2^-24, exactly. -/
def unitFloat (x : Nat) : Word :=
  let k := x / 2 ^ 8
  if k = 0 then 0
  else
    let e := Nat.log2 k
    BitVec.ofNat 32 ((e + 127 - 24) * 2 ^ 23 + (k * 2 ^ (23 - e) - 2 ^ 23))

def rngWords (l : Launch) (t : Thread) : List Nat := philox [(pairLo t.rngc).toNat, (pairHi t.rngc).toNat, t.tid, 0] l.rcd.seed

def execRng (p : Pre) (d : Reg) (w : BitVec 2) (u01 : Bool) (s : State) :=
  if w = 3 then trapCourse 0x01 s
  else
    issue (enRng 0x112 p d w u01) p (fun c s =>
      { s := (lanes s c).foldl (fun s t =>
          let x := rngWords c.l t
          let val (i : Nat) : Word := if u01 then unitFloat (x.getD i 0) else word32 (x.getD i 0)
          let s := sendResult s t.uid none ((List.range (2 ^ w.toNat)).map fun i => (d.toNat + i, val i)) []
          updThread s t.uid fun t => { t with rngc := t.rngc + 1 }) s }) s

/-- CLOCK: the counter as this core reads it, up to 32 clocks on, never less than the thread has read before. -/
def execClock (p : Pre) (d : Reg) (s : State) :=
  issue (enD 0x113 p d) p (fun c s =>
    { s := (lanes s c).foldl (fun s t =>
        let (k, s) := draw s 33
        let v := max t.lastClock (s.clock + k)
        let s := sendResult s t.uid none (pairWrites d (BitVec.ofNat 64 v)) []
        updThread s t.uid fun t => { t with lastClock := v }) s }) s

/-! ### Counters (R190) -/

def findPmc (s : State) (core c : Nat) : Option Pmc := s.pmcs.find? fun x => x.core == core && x.c == c
def setPmc (s : State) (x : Pmc) : State :=
  if (findPmc s x.core x.c).isSome then
    { s with pmcs := s.pmcs.map fun y => if y.core == x.core && y.c == x.c then x else y }
  else { s with pmcs := s.pmcs ++ [x] }
def isReplay : Parent → Bool
  | .replay _ => true | _ => false

def configPmc (s : State) (core lid c : Nat) (v : Word) : State :=
  let ev := v.toNat % 256
  let same := ((findPmc s core c).map fun x => x.event == ev).getD (ev == 0)
  let count := if same then ((findPmc s core c).map Pmc.count).getD 0 else 0
  setPmc s { core := core, c := c, event := ev, on := v.getLsbD 8, owner := lid, count := count }

/-- Does a replay's pass run, or wait for its counts to be taken? The counters then count the child's events alone
(15 R325). -/
def passRuns (s : State) : Bool := s.replays.any fun r => r.child.isSome || (!r.isOver && r.counts.length != r.pass)

/-- PMCFG has no effect in a launch under replay, nor, while a pass runs, in another: R190 would let it take a counter that
R325 gives to the child (DESIGN CHOICE, log 85). -/
def execPmcfg (p : Pre) (i : BitVec 2) (a : Reg) (s : State) :=
  issue (enPmcfg 0x114 p i a) p (fun c s =>
    let ts := lanes s c
    let bad (t : Thread) : Bool :=
      let v := (readReg c.l t a).toNat
      decide (0x11 < v % 256) || decide (512 ≤ v)
    { s := if isReplay c.l.parent || passRuns s then s
           else (ts.filter fun t => !bad t).foldl (fun s t => configPmc s c.core c.l.lid i.toNat (readReg c.l t a)) s,
      traps := (ts.filter bad).map fun t => ⟨t.uid, 0x02, c.pc, 0⟩ }) s

def execPmrd (p : Pre) (d : Reg) (i : BitVec 2) (s : State) :=
  issue (enPmrd 0x115 p d i) p (fun c s =>
    { s := (lanes s c).foldl (fun s t =>
        sendResult s t.uid none (pairWrites d (((findPmc s c.core i.toNat).map Pmc.count).getD 0)) []) s }) s

/-! ### Service ring and error queue (R193, R194) -/

/-- One service record: written when the ring has room, else dropped and counted. -/
def postService (s : State) (vf : Nat) (bs : List Byte) : State :=
  let hdr : DWord := BitVec.ofNat 64 (fnField s vf 256 64)
  if hdr = 0 then s
  else
    match devRead s vf hdr 32 with
    | (none, s) => s
    | (some h, s) =>
      let cap := natAt h 20 4; let full := natAt h 16 4; let head := natAt h 12 4; let tail := natAt h 8 4
      if cap ≤ (tail + 2 ^ 32 - head) % 2 ^ 32 then devPut s vf (addrAt hdr 16) 4 (full + 1)
      else
        let ent : DWord := BitVec.ofNat 64 (natAt h 24 8)
        let s := (devWrite s vf (addrAt ent (32 * (tail % cap))) bs).2
        raiseMsix (devPut s vf (addrAt hdr 8) 4 (tail + 1) true) vf 1

def execSvc (p : Pre) (a : Reg) (n : BitVec 16) (s : State) :=
  issue (enSvc 0x11C p a n) p (fun c s =>
    { s := (lanes s c).foldl (fun s t =>
        let s := releaseBy s t.uid c.core c.vf .sy
        postService s c.vf (bytesOf 8 c.l.rcd.tag.toNat ++ bytesOf 4 t.tid ++ bytesOf 4 n.toNat ++
          regsBytes c.l t a 16)) s }) s

/-- What becomes of one lane of ERRQ: a record to its place, none left, a trap, or a page that is not present. -/
inductive ErrPlan where
  | take (pl : Place)
  | empty
  | trap (code : BitVec 8)
  | absent
deriving DecidableEq, Repr

/-- The lanes, in an order of their own, share out the records that are left; a lane that traps takes none (R171, R194). -/
def planRecords (c : Ctx) (addr : Thread → DWord) : Nat → List Thread → State → List (Thread × ErrPlan) × State
  | _, [], s => ([], s)
  | n, t :: ts, s =>
    let a := addr t
    let (x, s) : ErrPlan × State :=
      if n = 0 then
        (if !canonicalVa a then .trap 0x06 else if a.toNat % 64 ≠ 0 then .trap 0x05 else .empty, s)
      else
        match resolve s c.b c.vf a 64 64 .store .dflt with
        | (.ok pl, s) => (.take pl, s)
        | (.error (.trap code), s) => (.trap code, s)
        | (.error (.notPresent _), s) => (.absent, s)
    let m := match x with | .take _ => n - 1 | .absent => n - 1 | _ => n
    let (xs, s) := planRecords c addr m ts s
    ((t, x) :: xs, s)

def ErrPlan.place? (x : Thread × ErrPlan) : Option (Thread × Place) :=
  match x.2 with | .take pl => some (x.1, pl) | _ => none

/-- A lane takes the oldest record, which it stores, and answers 1. -/
def takeRecord (c : Ctx) (d : Reg) (s : State) (x : Thread × Place × Bool) : State :=
  match takeErr s c.vf with
  | (some bs, s) =>
    sendResult (storeLane c x.1 x.2.1 x.2.2 .dflt bs none s) x.1.uid none [(d.toNat, 1)] [] (ckpt := true)
  | (none, s) => s

/-- ERRQ (R194). A page that is not present discards the course before any lane has an effect (R171). -/
def execErrq (p : Pre) (d a : Reg) (off : BitVec 24) (s : State) :=
  issue (enDA 0x11D p d a off) p (fun c s =>
    let addr := baseOff a off c.l
    let ts := lanes s c
    let (ts, s) := shuffle ts.length ts s
    let left := ((s.errqs.find? fun q => q.vf == c.vf).map fun q => q.recs.length).getD 0
    let (xs, s) := planRecords c addr left ts s
    let traps := xs.filterMap fun (x : Thread × ErrPlan) =>
      match x.2 with | .trap code => some (⟨x.1.uid, code, c.pc, addr x.1⟩ : TrapOf) | _ => none
    let faults := (xs.filter fun x => x.2 == .absent).map fun x => (x.1.uid, addr x.1)
    if !faults.isEmpty then { s := s, traps := traps, faults := faults, acc := .store }
    else
      let s := (xs.filter fun x => x.2 == .empty).foldl (fun s x => sendResult s x.1.uid none [(d.toNat, 0)] [] (ckpt := true)) s
      let s := countEvent s c.core c.l.lid 0x0F (xs.filter fun x => (ErrPlan.place? x).isSome && inAperture (addr x.1)).length
      { s := (firstOnLine (xs.filterMap ErrPlan.place?) []).foldl (takeRecord c d) s, traps := traps, acc := .store }) s

end Sys2Proof.Machine
end

