-- ==== Sys2Proof/Machine/Replay.lean ====
section
/-! DEFINITION. RPLY and the replay unit (07 R191, 14 R321–R323, 15 R325–R328). -/

namespace Sys2Proof.Machine

def dwordBytes (ws : List DWord) : List Byte := ws.flatMap fun w => bytesOf 8 w.toNat

/-- The descriptor checks of status 0x10. -/
def replayBad (d : List Byte) : Bool :=
  let passes := natAt d 16 1 % 16
  let used := (d.drop 32).take (4 * passes)
  passes == 0 || decide (8 < passes) || natAt d 16 16 / 16 != 0 || natAt d 8 8 % 64 != 0 || natAt d 0 8 % 64 != 0 ||
  used.any fun b => decide (0x11 < b.toNat)

/-- What RPLY reads at issue: the descriptor, and the child's record when the descriptor is good. -/
def readReplay (c : Ctx) (addr : Thread → DWord) (t : Thread) (s : State) : Except Trip (List Byte × List Byte) × State :=
  match readChunks c t.uid 64 (addr t) 1 s with
  | (.error e, s) => (.error e, s)
  | (.ok d, s) =>
    if isReplay c.l.parent || replayBad d then (.ok (d, []), s)
    else
      match readChunks c t.uid 64 (BitVec.ofNat 64 (natAt d 0 8)) 2 s with
      | (.error e, s) => (.error e, s)
      | (.ok r, s) => (.ok (d, r), s)

def execRply (p : Pre) (d a : Reg) (off : BitVec 24) (s : State) :=
  if counterFull s p .rp then stallCourse s
  else
    commandR (enDA 0x116 p d a off) p (fun c t s => readReplay c (baseOff a off c.l) t s) (fun c t x s =>
      let s := releaseBy s t.uid c.core c.vf .dv
      let answer (st : Nat) (s : State) : LaneDone := { s := sendResult s t.uid none [(d.toNat, word32 st)] [] (ckpt := true) }
      if isReplay c.l.parent then answer 0x11 s
      else if replayBad x.1 then answer 0x10 s
      else
        let (st, s) := recordStatus s c.vf (LaunchRec.ofBytes x.2)
        if st ≠ 0 then answer st s
        else
          let (rid, s) := fresh s
          let op := s.nextId
          let area := snapArea s c.vf
          let s := startOp s t c.core c.vf c.pc .rp 0 fun _ => .replay rid
          answer 0 { s with replays := s.replays ++
            [{ rid := rid, lid := c.l.lid, op := op, vf := c.vf, events := (x.1.drop 32).map BitVec.toNat,
               passes := natAt x.1 16 1, out := BitVec.ofNat 64 (natAt x.1 8 8), rcd := x.2,
               snapAt := area.1, snapPages := area.2 }] }) s

def State.replay? (s : State) (rid : Nat) : Option Replay := s.replays.find? fun r => r.rid == rid

/-- Every L1 and L2 line and cached translation of a function written back and discarded (R321, R280, R367). -/
def flushFunction (s : State) (vf : Nat) : State :=
  let mine (k : Nat) : Bool := keyVf k == vf
  let s := expelL2 (flushL1 s mine) mine
  { s with tlb := s.tlb.filter fun k => k.1 / 2 ^ 57 / 4 % 128 != vf }

/-- The pages of the write set as they were first met. -/
def restorePages (s : State) (r : Replay) : State :=
  let kept := s.mem.filter fun c => !r.snaps.any fun p => p.page == c.1 / 2 ^ 16
  let back := r.snaps.flatMap Snap.bytes
  { s with mem := back.foldl (fun (m : Sparse 8) c => m.set c.1 c.2) kept }

/-- The replay's four counters on every core, at zero. -/
def programCounters (s : State) (r : Replay) (lid pass : Nat) : State :=
  { s with pmcs := (List.range 384).flatMap fun core => (List.range 4).map fun i =>
      { core := core, c := i, event := r.events.getD (4 * pass + i) 0, on := true, owner := lid, count := 0 } }

def passCounts (s : State) : List DWord :=
  (List.range 4).map fun i => ((s.pmcs.filter fun x => x.c == i).map Pmc.count).foldl (· + ·) 0

/-- Table 7-9. -/
def replayResult (r : Replay) : List Byte :=
  let sig0 := r.sigs.getD 0 0
  let ran (i : Nat) : Bool := decide (i < r.sigs.length)
  let bad (i : Nat) : Bool := ran i && r.sigs.getD i 0 != sig0
  let mask := ((List.range 8).map fun i => boolBit (bad i) * 2 ^ i).sum
  let entry (i : Nat) : List Byte :=
    if ran i then dwordBytes ((List.range 4).map fun k => (r.counts.getD i []).getD k 0) ++ bytesOf 8 (r.sigs.getD i 0).toNat ++
      bytesOf 8 (boolBit (!bad i))
    else bytesOf 48 0
  bytesOf 8 (r.run + mask * 2 ^ 8 + r.endCode.toNat * 2 ^ 24) ++ bytesOf 8 sig0.toNat ++ bytesOf 48 0 ++
    (List.range 8).flatMap entry

/-- REPLAY_RESULT_WRITE (R191): written for the thread that asked, under R198; then rp falls. -/
def writeReplay (s : State) (r : Replay) : State :=
  match s.op? r.op with
  | none => { s with replays := s.replays.filter fun x => x.rid != r.rid }
  | some o =>
    let finish (o : EOp) (s : State) : State := { finishOp s o [] [] with replays := s.replays.filter fun x => x.rid != r.rid }
    match engWrite s (s.block? o.bid) o.lid r.vf r.out (replayResult r) with
    | (.ok _, s) => finish o s
    | (.error ⟨.notPresent pg, va⟩, s) => holdOp s o pg va .engineWrite 1
    | (.error ⟨.trap code, va⟩, s) => finish o (trapOwner s o code va)

/-- Is the replay waiting for a page of its result record? -/
def opFree (s : State) (op : Nat) : Bool := ((s.op? op).map fun o => o.held.isEmpty).getD true

/-- One pass at a time on the device, since its counters are every core's (R191, R327, log 85). -/
def passStartDue (s : State) (r : Replay) : Bool :=
  !passRuns s && r.child.isNone && !r.isOver && r.counts.length == r.pass && decide (r.pass < r.passes)
def passEndDue (s : State) (r : Replay) : Bool :=
  (r.child.isNone && !r.isOver && r.counts.length != r.pass) || (r.isOver && opFree s r.op)

/-- REPLAY_PASS_START (R321). -/
def execReplayPassStart (rid : Nat) (s : State) : Host.Outcome State Fault Refusal :=
  match s.replay? rid with
  | none => .next s
  | some r =>
    if !passStartDue s r then .next s
    else
      let s := flushFunction s r.vf
      let s := if r.pass = 0 then s else restorePages s r
      let rcd := LaunchRec.ofBytes r.rcd
      let (st, s) := recordStatus s r.vf rcd
      if st ≠ 0 then done (updReplay s rid fun r => { r with isOver := true, run := r.pass, endCode := 0x23 })
      else
        let (lid, s) := newLaunch s r.vf none (.replay rid) rcd []
        let s := programCounters s r lid r.pass
        done (updReplay s rid fun r => { r with pass := r.pass + 1, child := some lid })

/-- REPLAY_PASS_END (R327): the pass's write-back, its counts; after the last pass, the result record. -/
def execReplayPassEnd (rid : Nat) (s : State) : Host.Outcome State Fault Refusal :=
  match s.replay? rid with
  | none => .next s
  | some r =>
    if !passEndDue s r then .next s
    else if r.isOver then done (writeReplay s r)
    else
      let s := cleanFunction s r.vf
      let last := r.pass == r.passes || r.endCode != 0 || r.tooBig
      let stop (r : Replay) : Replay :=
        { r with isOver := last, run := if r.tooBig then r.pass else r.run, endCode := if r.tooBig then 0x23 else r.endCode }
      let s := updReplay s rid fun r => stop { r with counts := r.counts ++ [passCounts s] }
      match s.replay? rid with
      | some r => done (if r.isOver then writeReplay s r else s)
      | none => done s

end Sys2Proof.Machine
end

