-- ==== Sys2Proof/Machine/Tourn.lean ====
section
/-! DEFINITION. The tournament instructions and the scope unit (07 R192, Table 7-10; 19 R347–R356, R383; 20 R357, R358). -/

namespace Sys2Proof.Machine

/-! ### TOPEN -/

/-- A number of the scope record's first 64 bytes. -/
def scopeField (h : List Byte) (lo w : Nat) : Nat := bitsN (ofBytes h) lo w

/-- The checks of R347 on the record itself, floor(C/n) ≥ 1 among them. -/
def scopeBad (h : List Byte) : Bool :=
  let f := scopeField h
  let n := f 248 8; let tier := f 264 8; let expert := f 185 1 == 1
  let form :=
    if expert then f 320 64 != 0 || f 384 64 == 0 || f 288 8 == 0 || f 280 8 == 0 || decide (16 < f 280 8)
    else f 384 64 != 0 || f 288 8 != 0 || f 280 8 != 0 || f 320 64 == 0 || decide (2 ^ 48 < f 320 64)
  form || decide (n < 2) || decide (64 < n) || f 256 8 == 0 || decide (31 < f 256 8) || tier == 0 || decide (4 < tier) ||
    decide (unitCount tier ≤ f 272 8) || f 448 64 % 8 != 0 || f 64 112 != 0 || f 178 7 != 0 || f 186 62 != 0 || f 296 24 != 0 ||
    decide (unitCores tier < n)

/-- What TOPEN reads: the record's first 64 bytes, the entrants' launch records and the schedule. -/
structure ScopeRead where
  h : List Byte
  recs : List (List Byte) := []
  sched : List DWord := []

def readRecords (b : Option Block) (vf : Nat) : List DWord → State → Except Trip (List (List Byte)) × State
  | [], s => (.ok [], s)
  | a :: as, s =>
    match engRead s b vf a 128 with
    | (.error e, s) => (.error e, s)
    | (.ok r, s) =>
      match readRecords b vf as s with
      | (.error e, s) => (.error e, s)
      | (.ok rs, s) => (.ok (r :: rs), s)

def isEntrant : Parent → Bool
  | .entrant _ _ => true | _ => false

def dwordsOf (bs : List Byte) : List DWord := (List.range (bs.length / 8)).map fun i => BitVec.ofNat 64 (natAt bs (8 * i) 8)

/-- The scope unit's reads, as the agent of the thread that issued the TOPEN (R347). -/
def readScope (nested : Bool) (b : Option Block) (vf : Nat) (a : DWord) (s : State) : Except Trip ScopeRead × State :=
  match engRead s b vf a 64 with
  | (.error e, s) => (.error e, s)
  | (.ok h, s) =>
    if nested || scopeBad h then (.ok { h := h }, s)
    else
      match engRead s b vf (BitVec.ofNat 64 (scopeField h 448 64)) (8 * scopeField h 248 8) with
      | (.error e, s) => (.error e, s)
      | (.ok as, s) =>
        match engRead s b vf (BitVec.ofNat 64 (scopeField h 384 64)) (8 * scopeField h 280 8) with
        | (.error e, s) => (.error e, s)
        | (.ok sch, s) =>
          match readRecords b vf (dwordsOf as) s with
          | (.error e, s) => (.error e, s)
          | (.ok rs, s) => (.ok { h := h, recs := rs, sched := dwordsOf sch }, s)

/-- R348 for one entrant. -/
def entrantBad (wmax : Nat) (r : LaunchRec) : Bool :=
  r.tier != 0 || r.group != 1 || r.mstream != 0 || decide (wmax < r.vault) || decide (32 < r.vault + r.pallet)

/-- The first failing entrant's status; `used` are the overflow areas of the entrants before it. -/
def judgeEntrants (vf wmax : Nat) : List LaunchRec → List Nat → State → Nat × State
  | [], _, s => (0, s)
  | r :: rs, used, s =>
    if entrantBad wmax r then (0x01, s)
    else
      let (st, s) := recordStatus s vf r
      if st ≠ 0 then (st, s)
      else if (reserveFit s vf (used ++ [overflowBytes r])).isNone then (0x06, s)
      else judgeEntrants vf wmax rs (used ++ [overflowBytes r]) s

/-- Save bytes of the blocks that a scope holds at once, `per` for each entrant: what it borrows of a home quad (14 R308, R310). -/
def scopeSave (per : Nat) (rs : List LaunchRec) : Nat := (rs.map fun r => min r.nblk per * saveBytes r).sum

/-- R348: no block and no other scope in the unit, its quads give room, and the homes of queues may be borrowed (14 R308). -/
def unitFree (s : State) (cores : List Nat) (bytes : Nat) : Bool :=
  cores.all (coreOpen s) && !(s.blocks.any fun b => b.res != .saved && cores.contains b.core) &&
    !((reservedOcc s none).any fun o => cores.contains o.core) && (cores.map coreQuad).dedup.all fun q => mayBorrow s q bytes

/-- TOPEN's status in the order of R383. A survivor of a scope that has ended counts as an entrant still: Table 7-10 does
not say (DESIGN CHOICE, log 86). -/
def scopeStatus (nested : Bool) (vf : Nat) (x : ScopeRead) (s : State) : Nat × State :=
  let recs := x.recs.map LaunchRec.ofBytes
  let differ := recs.any fun r => r.det != (recs.headD {}).det
  if nested then (0x11, s)
  else if scopeBad x.h || x.sched.any (· == 0) || differ then (0x10, s)
  else
    let (st, s) := judgeEntrants vf (scopeField x.h 256 8) recs [] s
    let tier := scopeField x.h 264 8
    if st ≠ 0 then (st, s)
    else if !unitFree s (coresOf tier (scopeField x.h 272 8)) (scopeSave (unitCores tier / scopeField x.h 248 8) recs) then (0x07, s)
    else (0, s)

/-- One launch and one entrant for each record. -/
def openEntrants (vf sid : Nat) (cores : List Nat) (per : Nat) : List LaunchRec → Nat → State → List Entrant × State
  | [], _, s => ([], s)
  | r :: rs, i, s =>
    let (lid, s) := newLaunch s vf none (.entrant sid i) r []
    let (es, s) := openEntrants vf sid cores per rs (i + 1) s
    ({ idx := i, lid := lid, cores := (cores.drop (per * i)).take per } :: es, s)

/-- An accepted scope (R347, R348, R357): from now on the operation is a counted one of its thread. -/
def openScope (o : EOp) (a : DWord) (x : ScopeRead) (s : State) : State :=
  let f := scopeField x.h
  let n := f 248 8; let tier := f 264 8; let cores := coresOf tier (f 272 8)
  let (sid, s) := fresh s
  let (es, s) := openEntrants o.vf sid cores (cores.length / n) (x.recs.map LaunchRec.ofBytes) 0 s
  let s := updOp s o.id fun o => { o with work := .scope sid, pend := 0 }
  let s : State := match o.uid with
    | some u => updThread s u fun t => { t with ops := t.ops ++ [⟨o.id, .tr, false⟩] }
    | none => s
  -- an ended scope at the address still places the waiting blocks of its survivors
  let kept := s.scopes.filter fun y =>
    !(y.ended && y.vf == o.vf && y.addr == a) || y.entrants.any fun e => (s.launch? e.lid).isSome
  { s with scopes := kept ++
    [{ sid := sid, vf := o.vf, op := o.id, addr := a, x := f 185 1 = 1, rule := f 176 2, n := n, wmax := f 256 8, tier := tier,
       unit := f 272 8, a0 := f 320 64, sched := x.sched.map BitVec.toNat, keep := f 288 8, rounds := f 280 8,
       shown := n, order := List.range n, entrants := es }] }

/-- The answer to TOPEN, once the record and what it names has been read. -/
def answerTopen (o : EOp) (a : DWord) (d : Nat) (x : ScopeRead) (nested : Bool) (s : State) : State :=
  let (st, s) := scopeStatus nested o.vf x s
  if st = 0 then
    let s := openScope o a x s
    match o.uid with
    | some u => answerPend s u o.pend [(d, word32 0)] []
    | none => s
  else finishOp s o [(d, word32 st)] []

/-- TOPEN's operation goes on: the reads, which a page that is not present holds, and then the answer (R198, R347). -/
def tryTopen (s : State) (id : Nat) : State :=
  match s.op? id with
  | none => s
  | some o =>
    match o.work, s.launch? o.lid with
    | .topen a d, some l =>
      if l.term.isSome then finishOp s o [] []
      else
        match readScope (isEntrant l.parent) (s.block? o.bid) o.vf a s with
        | (.ok x, s) => answerTopen o a d x (isEntrant l.parent) s
        | (.error ⟨.notPresent pg, va⟩, s) => holdOp s o pg va .engineRead 1
        | (.error ⟨.trap code, va⟩, s) => finishOp (trapOwner s o code va) o [] []
    | .topen _ _, none => finishOp s o [] []
    | _, _ => s

def topenLane (c : Ctx) (t : Thread) (d : Reg) (a : DWord) (s : State) : LaneDone :=
  if !canonicalVa a then { s := s, trap := some (0x06, a) }
  else if a.toNat % 64 ≠ 0 then { s := s, trap := some (0x05, a) }
  else
    let (id, s) := startUncounted (releaseBy s t.uid c.core c.vf .dv) c t (some d) (.topen a d.toNat)
    { s := tryTopen s id }

def execTopen (p : Pre) (d a : Reg) (off : BitVec 24) (s : State) :=
  if counterFull s p .tr then stallCourse s
  else issue (enDA 0x117 p d a off) p (fun c s => perLaneAt c (baseOff a off c.l) (fun t a s => topenLane c t d a s) s) s

/-! ### Scores -/

/-- A score as a key that grows with the rank; none for a NaN (R352). -/
def scoreKey (rule : Nat) (v : DWord) : Option Int :=
  let up : Option Int :=
    if rule < 2 then some v.toInt
    else
      let mag : Nat := v.toNat % 2 ^ 63
      if 0x7FF0000000000000 < mag then none
      else some (if v.getLsbD 63 then -(mag : Int) else mag)
  up.map fun k => if rule % 2 = 1 then -k else k

/-- Does entrant `x` rank before `y`? -/
def ranksBefore (rule : Nat) (x y : Entrant) : Bool :=
  match scoreKey rule x.score, scoreKey rule y.score with
  | some a, some b => decide (b < a) || (a == b && decide (x.idx ≤ y.idx))
  | some _, none => true
  | none, some _ => false
  | none, none => decide (x.idx ≤ y.idx)

def execTscore (p : Pre) (add : Bool) (a : Reg) (s : State) :=
  issue (enTscore 0x118 p add a) p (fun c s =>
    match entrantOf s c.l.lid with
    | none => { s := s }
    | some (x, _) =>
      if add && c.l.rcd.det && decide (2 ≤ x.rule) then { s := s, traps := trapLanes c 0x30 }
      else
        { s := (lanes s c).foldl (fun s t =>
            let v := readPair c.l t a
            let new (o : DWord) : DWord :=
              if !add then v
              else if x.rule < 2 then o + v
              else BitVec.ofNat 64 (fAdd f64 .rn false o.toNat v.toNat).1
            match entrantOf s c.l.lid with
            | some (x, e) => updEntrant s x.sid e.idx fun e => { e with score := new e.score }
            | none => s) s }) s

def execTbar (p : Pre) (s : State) :=
  issue (enP 0x119 p) p (fun c s =>
    match entrantOf s c.l.lid with
    | some (x, e) => { s := if c.act.isEmpty then s else closeRound s x.sid e.idx c.l.lid }
    | none => { s := s }) s

/-! ### What the unit shows and writes -/

/-- The rank table (R353): survivors in rank order, then the killed by descending kill round. -/
def Tourn.table (x : Tourn) : List Entrant :=
  let es := x.order.filterMap fun i => x.entrants.find? fun e => e.idx == i
  es.filter Entrant.alive ++ (es.filter fun e => !e.alive).mergeSort fun a b => decide (b.killRound ≤ a.killRound)
def Entrant.entry (e : Entrant) : DWord := BitVec.ofNat 64 (e.idx + (if e.alive then 0 else e.killRound % 256) * 2 ^ 8)
def Tourn.alive (x : Tourn) : List Entrant := x.entrants.filter Entrant.alive
def stateWord (round survivors n st : Nat) : DWord := BitVec.ofNat 64 (round + survivors * 2 ^ 8 + n * 2 ^ 16 + st * 2 ^ 24)

/-- Bytes 64 to 1,087 of the record. -/
def Tourn.results (x : Tourn) : List Byte :=
  let tbl := x.table
  (List.range 64).flatMap (fun i => bytesOf 8 ((tbl[i]?.map Entrant.entry).getD 0).toNat) ++
  (List.range 64).flatMap fun i => bytesOf 8 (((x.entrants.find? fun e => e.idx == i).map Entrant.score).getD 0).toNat

/-- The scope a record address names for a function: the newest. -/
def scopeAt (s : State) (vf : Nat) (a : DWord) : Option Tourn := s.scopes.reverse.find? fun x => x.vf == vf && x.addr == a

def tstatValue (s : State) (vf : Nat) (a : DWord) (v : Nat) : DWord :=
  match scopeAt s vf a with
  | none => 0
  | some x =>
    if v = 0 then stateWord x.ranked x.shown x.n x.st
    else if v ≤ 64 then (x.table[v - 1]?.map Entrant.entry).getD 0
    else if v ≤ 128 then ((x.entrants.find? fun e => e.idx == v - 65).map Entrant.score).getD 0
    else 0

def execTstat (p : Pre) (d a : Reg) (off : BitVec 24) (b : Reg) (s : State) :=
  issue (enDAB 0x11A p d a off b) p (fun c s =>
    { s := (lanes s c).foldl (fun s t =>
        let v := tstatValue s c.vf (baseOff a off c.l t) (readReg c.l t b).toNat
        sendResult s t.uid none (pairWrites d v) []) s }) s

/-! ### Kills -/

/-- An entrant is killed in the current round (R352, R353): its launch stops without restart and is over once its engine
operations are. What its blocks held is to be handed on. -/
def killEntrant (s : State) (sid idx : Nat) : State :=
  match s.scope? sid with
  | none => s
  | some x =>
    match x.entrants.find? fun e => e.idx == idx with
    | none => s
    | some e =>
      if !e.alive || x.ended then s
      else
        let held := s.blocks.filter fun b => b.lid == e.lid
        let s := updEntrant s sid idx fun e => { e with alive := false, killRound := x.round, isOpen := false, cores := [], places := [] }
        let s := updScope s sid fun x =>
          { x with left := x.left + (held.map Block.vpages).sum, freeCores := (x.freeCores ++ e.cores).mergeSort fun a b => decide (a ≤ b),
                   toZero := x.toZero ++ e.places }
        let s := match s.launch? e.lid with
          | some l =>
            if (l.term.map Term.stopped).getD false then s
            else
              let s := beginTerm s e.lid { kind := 0, code := 0, tid := noThread, blk := noThread, clock := s.clock, stopAt := s.clock }
              stopLaunch s e.lid
          | none => s
        match s.scope? sid with
        | some x =>
          -- a kill that leaves one survivor ends the scope at once; a ranking in progress decides for itself
          if x.st = 0 && decide (x.alive.length ≤ 1) then updScope s sid fun x => { x with closing := true, writing := 2 } else s
        | none => s

def killAll (s : State) (sid : Nat) : State :=
  match s.scope? sid with
  | none => s
  | some x => (x.entrants.map Entrant.idx).foldl (fun s i => killEntrant s sid i) s

/-- TKILL: `v` an entrant, or every one of them. The address only names a scope: one that is not canonical names none, and
neither TKILL nor TSTAT takes an address trap there, which no rule says (DESIGN CHOICE, log 97). -/
def tkill (s : State) (vf : Nat) (a : DWord) (v : Nat) : State :=
  match scopeAt s vf a with
  | none => s
  | some x => if x.ended then s else if v = 0xFFFFFFFF then killAll s x.sid else killEntrant s x.sid v

def execTkill (p : Pre) (a : Reg) (off : BitVec 24) (b : Reg) (s : State) :=
  issue (enAB 0x11B p a off b) p (fun c s =>
    { s := (lanes s c).foldl (fun s t => tkill s c.vf (baseOff a off c.l t) (readReg c.l t b).toNat) s }) s

/-- A launch that stops takes its entrant with it (R353). -/
def stopAny (s : State) (lid : Nat) : State :=
  match entrantOf s lid with
  | some (x, e) => killEntrant (stopLaunch s lid) x.sid e.idx
  | none => stopLaunch s lid

/-! ### The placement of an entrant's blocks (R348) -/

/-- Pages that slots of a running scope keep. -/
def scopePages (x : Tourn) : List (Nat × Nat) :=
  if x.ended then [] else ((x.entrants.flatMap Entrant.places) ++ x.toZero).map fun p => (p.page, p.pages)

def runFree (used : List (Nat × Nat)) (p n : Nat) : Bool :=
  used.all fun r => r.2 == 0 || decide (p + n ≤ r.1) || decide (r.1 + r.2 ≤ p)

/-- A free core of an entrant for its next block, with the core's slot: the one it has, or the lowest free run of wmax pages
and the block's pallet pages. A core in a home quad of a queue is taken only under R310 (14 R308), and none in a quad without
power (21 R381). -/
def entrantRoom (s : State) (x : Tourn) (e : Entrant) (r : LaunchRec) : Option Occ :=
  let occ := occupants s (fun _ => true) ++ reservedOcc s none
  let n := x.wmax + r.pallet
  e.cores.findSome? fun c =>
    if !coreUp s c || !mayBorrow s (coreQuad c) (saveBytes r) || occ.any (fun o => o.core == c) ||
        !coreHolds occ c r.budget (recGangs r) 1 then none
    else
      let old := (e.places.find? fun p => p.core == c && runFree (runs occ) p.page n).map CoreSlot.page
      (old.or (findRun (scopePages x ++ runs occ) (coreQuad c) n 260 0)).map fun v =>
        ⟨c, recGangs r, r.budget, (v, r.vault), (v + x.wmax, r.pallet), 0⟩

def startEntrantBlock (s : State) (x : Tourn) (l : Launch) (o : Occ) : State :=
  let s := updLaunch (startBlock s l l.placed o x.wmax true) l.lid fun l => { l with placed := l.placed + 1 }
  let keep (ps : List CoreSlot) : List CoreSlot := (ps.filter fun p => p.core != o.core) ++ [⟨o.core, o.vrun.1, x.wmax + l.rcd.pallet⟩]
  updScope s x.sid fun x => { x with entrants := x.entrants.map fun e => if e.lid == l.lid then { e with places := keep e.places } else e }

/-- Is every block of the scope resident, and nobody else on its unit (R356)? A scope that is pre-empted, or about to be,
neither ranks nor hands over. -/
def scopeWhole (s : State) (x : Tourn) : Bool :=
  let lids := x.entrants.map Entrant.lid
  let cores := coresOf x.tier x.unit
  s.blocks.all fun b =>
    if lids.contains b.lid then b.res == .resident && !b.wanted else b.res == .saved || !cores.contains b.core

/-! ### ROUND_END and TOURNAMENT_HANDOVER -/

/-- R351: every surviving entrant's round has closed and its threads are parked or exited. -/
def roundEndDue (s : State) (x : Tourn) : Bool :=
  !x.ended && x.st == 0 && x.writing == 0 && !x.closing && scopeWhole s x && x.alive.all fun e =>
    !e.isOpen && (((s.launch? e.lid).map fun l => l.term.isNone).getD true) &&
    s.threads.all fun t => t.lid != e.lid || t.life == .exited || (t.life == .parked && t.heldPages.isEmpty && t.pend.all (·.known))

def killsOf (x : Tourn) (alive : Nat) : Nat :=
  if x.x then alive - max 1 ((alive * x.keep + 255) / 256) else alive / 2

/-- Ranking and kills (R352). -/
def execRoundEnd (sid : Nat) (s : State) : Host.Outcome State Fault Refusal :=
  match s.scope? sid with
  | none => .next s
  | some x =>
    if !roundEndDue s x then .next s
    else
      let ranked := x.alive.mergeSort (ranksBefore x.rule)
      let rest := x.order.filter fun i => !ranked.any fun e => e.idx == i
      let out := (ranked.drop (ranked.length - killsOf x ranked.length)).map Entrant.idx
      let s := updScope s sid fun x => { x with st := 1, order := ranked.map Entrant.idx ++ rest }
      done (out.foldl (fun s i => killEntrant s sid i) s)

/-- A survivor's resident blocks grow (R354). -/
def growEntrant (s : State) (sid : Nat) (e : Entrant) : State :=
  (s.blocks.filter fun b => b.lid == e.lid && b.res == .resident).foldl (fun s b =>
    match s.scope? sid with
    | none => s
    | some x =>
      let g := min (x.wmax - b.vpages) x.left
      let s := updBlock s b.bid fun b => { b with vpages := b.vpages + g }
      updScope s sid fun x => { x with left := x.left - g }) s

/-- Freed cores go to a survivor, one for each of its waiting blocks. -/
def giveCores (s : State) (sid : Nat) (e : Entrant) : State :=
  match s.scope? sid, s.launch? e.lid with
  | some x, some l =>
    let k := l.rcd.nblk - l.placed
    let s := updEntrant s sid e.idx fun e => { e with cores := e.cores ++ x.freeCores.take k }
    updScope s sid fun x => { x with freeCores := x.freeCores.drop k }
  | _, _ => s

def handOver (s : State) (x : Tourn) : State :=
  let s := x.toZero.foldl (fun s p => zeroPages s p.page p.pages) s
  let s := updScope s x.sid fun x => { x with toZero := [] }
  let es := x.table.filter Entrant.alive
  let s := es.foldl (fun s e => growEntrant s x.sid e) s
  es.foldl (fun s e => giveCores s x.sid e) s

/-- Threads held between rounds may go on; their resumption is an acquire at quad scope (R355, R358). -/
def unpark (s : State) (x : Tourn) : State :=
  let lids := x.alive.map Entrant.lid
  let free (t : Thread) : Thread := { t with roundHeld := false }
  let s : State := { s with threads := s.threads.map fun t => if lids.contains t.lid && t.roundHeld then free t else t }
  (s.blocks.filter fun b => lids.contains b.lid).foldl (fun s b => acquire s b.core x.vf .qd) s

/-- The scope ends; tr falls. -/
def endScope (s : State) (x : Tourn) : State :=
  let s := updScope (unpark s x) x.sid fun x => { x with ended := true, closing := false, writing := 0 }
  match s.op? x.op with
  | some o => finishOp s o [] []
  | none => s

/-- The next round starts (R349). An entrant with no thread and no block to place has nothing to run. -/
def startRound (s : State) (x : Tourn) : State :=
  let alive (e : Entrant) : Bool := e.alive && (s.threads.any (fun t => t.lid == e.lid && t.life != .exited) ||
    ((s.launch? e.lid).map fun l => decide (l.placed < l.rcd.nblk)).getD false)
  let open_ (e : Entrant) : Entrant := { e with charge := 0, isOpen := alive e }
  let s := updScope s x.sid fun x => { x with round := x.round + 1, st := 0, writing := 0, entrants := x.entrants.map open_ }
  unpark s x

/-- The state the record's next write shows: 3 with no entrant left, 2 when the scope ends, else 0. -/
def Tourn.nextSt (x : Tourn) : Nat :=
  if x.writing = 1 then 0
  else if x.alive.isEmpty then 3
  else if x.closing || x.alive.length == 1 || (x.x && decide (x.rounds ≤ x.round)) then 2
  else 0

/-- The record can no longer be written: every entrant is killed and the scope closes. -/
def loseScope (s : State) (x : Tourn) : State :=
  let s := updScope s x.sid fun x => { x with lost := true, closing := true, st := if x.st = 1 then 1 else 0 }
  updScope (killAll s x.sid) x.sid fun x => { x with st := 3, writing := 0 }

/-- A record page that is not present holds the scope, with its entrants parked (R347). At acceptance none has a thread yet. -/
def parkSurvivors (s : State) (x : Tourn) : State :=
  (x.alive.filter Entrant.isOpen).foldl (fun s e => closeRound s x.sid e.idx e.lid) s

/-- The record's write (R347, R355): whole or not at all. `round` is the last round ranked. -/
def writeScope (s : State) (x : Tourn) : State :=
  match s.op? x.op with
  | none => updScope s x.sid fun x => { x with ended := true }
  | some o =>
    let round := if x.st = 1 then x.round else x.ranked
    let word := stateWord round x.alive.length x.n x.nextSt
    let head := bytesOf 8 word.toNat
    let b := s.block? o.bid
    let ps := piecesOf x.addr 8 ++ (if x.writing = 1 then [] else piecesOf (addrAt x.addr 64) 1024)
    match engResolve b x.vf .engineWrite ps s with
    | (.error ⟨.notPresent pg, va⟩, s) => holdOp (if x.writing = 1 then s else parkSurvivors s x) o pg va .engineWrite 1
    | (.error ⟨.trap code, va⟩, s) => loseScope (trapOwner s o code va) x
    | (.ok ks, s) =>
      let s := writeKeys s o.lid x.vf true ks (head ++ (if x.writing = 1 then [] else x.results))
      let s := updScope s x.sid fun x => { x with ranked := round, shown := x.alive.length }
      if x.writing = 1 && !x.closing then updScope s x.sid fun x => { x with writing := 0 }
      else if x.nextSt = 0 then startRound s x
      else endScope (updScope s x.sid fun x => { x with st := x.nextSt }) x

def launchGone (s : State) (e : Entrant) : Bool := (s.launch? e.lid).isNone

/-- A kill that leaves one survivor, or none, ends the scope at once (R353). -/
def scopeEndDue (s : State) (x : Tourn) : Bool := !x.ended && !x.lost && x.closing && x.writing != 0 && opFree s x.op

def handoverDue (s : State) (x : Tourn) : Bool :=
  !x.ended &&
  (if x.lost then x.entrants.all (launchGone s)
   else if x.writing != 0 then opFree s x.op
   else x.st == 1 && scopeWhole s x && (x.entrants.filter fun e => !e.alive).all (launchGone s))

/-- Handover, the record's write and the next round or the end (R354, R355). -/
def execTournamentHandover (sid : Nat) (s : State) : Host.Outcome State Fault Refusal :=
  match s.scope? sid with
  | none => .next s
  | some x =>
    if !handoverDue s x then .next s
    else if x.lost then done (endScope s x)
    else
      let s := if x.writing = 0 then updScope (handOver s x) sid fun x => { x with writing := 2 } else s
      match s.scope? sid with
      | some x => done (writeScope s x)
      | none => done s

end Sys2Proof.Machine
end

