-- ==== Sys2Proof/Machine/Tile.lean ====
section
/-! DEFINITION. Tile handles and the tile engine (01 R38, R39; 08 R199–R207). The engine's writes are made whole at its
completion event, once every page it needs has translated (95); each word that it reads is one that it could have found
there since it could begin (R197, log 39). -/

namespace Sys2Proof.Machine

/-! ### Shapes (R199, R200) -/

/-- Element width in bits by format code; 0 for a code that names no format. -/
def tileWidth : Nat → Nat
  | 0 => 16 | 1 => 16 | 2 => 8 | 3 => 8 | 4 => 6 | 5 => 6 | 6 => 4 | 7 => 8 | 8 => 2 | 9 => 64 | 10 => 32 | _ => 0
def isMx (fmt : Nat) : Bool := decide (2 ≤ fmt) && decide (fmt ≤ 6)
def Shape.w (h : Shape) : Nat := tileWidth h.fmt
def Shape.stride (h : Shape) : Nat := (h.cols * h.w + 127) / 128 * 16
def Shape.sstride (h : Shape) : Nat := (h.cols + 511) / 512 * 16
/-- The declared size. -/
def Shape.size (h : Shape) : Nat := h.rows * h.stride + (if isMx h.fmt then h.rows * h.sstride else 0)
def ceil8 (n : Nat) : Nat := (n + 7) / 8

/-- A signed 32-bit field. -/
def int32 (n : Nat) : Int := (BitVec.ofNat 32 n).toInt

/-- The record with the basic values of Table 8-4 put in when `x` is false. -/
def Shape.ofBytes (x : Bool) (bs : List Byte) : Shape :=
  let v := Sys2Proof.ofBytes bs
  let f := bitsN v
  let tcols := f 160 32; let fmt := f 288 4
  { sfill := if x then BitVec.ofNat 8 (f 480 8) else 0x7F, fill := if x then BitVec.ofNat 32 (f 448 32) else 0,
    spitch := if x then f 384 48 else (tcols + 31) / 32, sbase := BitVec.ofNat 64 (f 320 64), voff := f 296 16, fmt := fmt,
    cols := f 272 16, rows := f 256 16, col0 := int32 (f 224 32), row0 := int32 (f 192 32), tcols := tcols, trows := f 128 32,
    pitch := if x then f 64 48 else ceil8 (tcols * tileWidth fmt), base := BitVec.ofNat 64 (f 0 64) }

/-- Table 8-5: a bad record first, then the lowest status among the causes (R201). -/
def bindStatus (b : Block) (x : Bool) (bs : List Byte) : Nat :=
  let f := bitsN (Sys2Proof.ofBytes bs)
  let h := Shape.ofBytes x bs
  if f 488 24 != 0 || f 432 16 != 0 || f 312 8 != 0 || f 292 4 != 0 || f 112 16 != 0 then 0x05
  else if 10 < h.fmt then 0x01
  else if h.cols == 0 || decide (256 < h.cols) || h.rows == 0 || decide (256 < h.rows) || h.tcols == 0 || h.trows == 0 then 0x02
  else if (decide (h.w < 8) && (h.col0 % 32 != 0 || h.cols % 32 != 0)) || (isMx h.fmt && h.sbase == 0) then 0x03
  else if b.vlimit < h.voff * 128 + h.size then 0x04
  else 0

/-! ### The tile table -/

def Block.handle (b : Block) (n : Nat) : Handle := ((b.handles.find? fun h => h.1 == n).map Prod.snd).getD {}
def handleOf (s : State) (bid n : Nat) : Handle := ((s.block? bid).map fun b => b.handle n).getD {}
def setHandle (s : State) (bid n : Nat) (h : Handle) : State :=
  updBlock s bid fun b => { b with handles := b.handles.filter (fun x => x.1 != n) ++ [(n, h)] }

/-- A command with no reads at issue: each active lane in turn (R196). -/
def engCommand (f : Fields) (p : Pre) (one : Ctx → Thread → State → LaneDone) (s : State) : Host.Outcome State Fault Refusal :=
  issue f p (fun c s =>
    let (traps, s) := perLane c (fun t (_ : Unit) s => one c t s) ((lanes s c).map fun t => (t, .ok ())) s
    { s := s, traps := traps }) s

def laneTrap (s : State) (code : BitVec 8) : LaneDone := { s := s, trap := some (code, 0) }

def execTbind (p : Pre) (d : Reg) (h : BitVec 6) (a : Reg) (off : BitVec 24) (x : Bool) (s : State) :=
  command (enTbind 0x120 p d h a off x) p (fun c t => baseOff a off c.l t) 1 64 (fun c t bs s =>
    let hd := handleOf s c.b.bid h.toNat
    if hd.st != .empty then laneTrap s 0x08
    else
      let b := (s.block? c.b.bid).getD c.b
      let st := bindStatus b x bs
      let sh := Shape.ofBytes x bs
      let new : Handle := { shape := some sh, rowBind := sh.row0, colBind := sh.col0 }
      let s := if st = 0 then setHandle s c.b.bid h.toNat new else s
      { s := sendResult s t.uid none [(d.toNat, word32 st)] [] (ckpt := true) }) s

/-- Bytes with no value of their own (log 14). -/
def freeBytes (s : State) (n : Nat) : List Byte × State :=
  ((List.range n).map fun i => zx 8 (Config.freeWord (s.free + i)), { s with free := s.free + n })

/-- Where a tile's storage lies. -/
def tileKey (b : Block) (sh : Shape) : Nat := vaultSpace + b.vpage * 2 ^ 16 + sh.voff * 128

/-- A ready handle becomes empty and its contents undefined (R205, 09 R239). -/
def emptyHandle (s : State) (bid n : Nat) (unbind : Bool) : State :=
  let h := handleOf s bid n
  let s := match s.block? bid, h.shape, h.st with
    | some b, some sh, .ready => let (bs, s) := freeBytes s sh.size; memWrite s (tileKey b sh) bs
    | _, _, _ => s
  setHandle s bid n (if unbind then {} else { h with st := .empty })

def execTfree (p : Pre) (h : BitVec 6) (unbind : Bool) (s : State) :=
  engCommand (enTfree 0x121 p h unbind) p (fun c _ s =>
    let hd := handleOf s c.b.bid h.toNat
    if hd.st == .filling || hd.st == .draining || hd.heldStores != 0 then laneTrap s 0x08
    else { s := emptyHandle s c.b.bid h.toNat unbind }) s

/-- `.at`: the handle's origin from B and C (R202). -/
def originAt (c : Ctx) (t : Thread) (at_ : Bool) (b k : Reg) (sh : Shape) : Shape :=
  if at_ then { sh with row0 := (readReg c.l t b).toInt, col0 := (readReg c.l t k).toInt } else sh
/-- A packed format's origin must stand on 32 columns. -/
def badOrigin (c : Ctx) (t : Thread) (at_ : Bool) (k : Reg) (sh : Shape) : Bool :=
  at_ && decide (sh.w < 8) && (readReg c.l t k).toInt % 32 != 0

def fillIssue (f : Fields) (p : Pre) (h : BitVec 6) (at_ : Bool) (b k : Reg) (load : Bool) (s : State) :
    Host.Outcome State Fault Refusal :=
  if counterFull s p .cp then stallCourse s
  else
    engCommand f p (fun c t s =>
      let hd := handleOf s c.b.bid h.toNat
      match hd.shape, hd.st with
      | some sh, .empty =>
        if badOrigin c t at_ k sh then laneTrap s 0x02
        else
          let sh := originAt c t at_ b k sh
          let s := setHandle s c.b.bid h.toNat { hd with shape := some sh, st := .filling }
          { s := startOp s t c.core c.vf c.pc .cp 0 fun _ => .fill h.toNat sh load }
      | _, _ => laneTrap s 0x08) s

def execTload (p : Pre) (h : BitVec 6) (at_ : Bool) (b c : Reg) (s : State) :=
  fillIssue (enTat 0x122 p h at_ b c) p h at_ b c true s
def execTfill (p : Pre) (h : BitVec 6) (s : State) := fillIssue (enH 0x125 p h) p h false 0 0 false s

def storeIssue (f : Fields) (p : Pre) (h : BitVec 6) (at_ : Bool) (b k : Reg) (fmt : Option MxFmt) (s : State) :
    Host.Outcome State Fault Refusal :=
  if counterFull s p .cp then stallCourse s
  else
    engCommand f p (fun c t s =>
      let hd := handleOf s c.b.bid h.toNat
      match hd.shape with
      | none => laneTrap s 0x08
      | some sh =>
        if hd.st == .empty then laneTrap s 0x08
        else
          let sh' := originAt c t at_ b k sh
          let quant := fmt.isSome && (sh.fmt != 10 || sh'.col0 % 32 != 0 || sh.cols % 32 != 0)
          if badOrigin c t at_ k sh || quant then laneTrap s 0x02
          else
            let s := setHandle s c.b.bid h.toNat { hd with shape := some sh', heldStores := hd.heldStores + 1 }
            { s := startOp s t c.core c.vf c.pc .cp 0 fun _ => .store h.toNat sh' fmt false }) s

def execTstore (p : Pre) (h : BitVec 6) (at_ : Bool) (b c : Reg) (s : State) :=
  storeIssue (enTat 0x123 p h at_ b c) p h at_ b c none s
def execTstoreq (p : Pre) (h : BitVec 6) (at_ : Bool) (b c : Reg) (fmt : MxFmt) (s : State) :=
  storeIssue (enTq 0x124 p h at_ b c fmt) p h at_ b c (some fmt) s

def tileCode : TileState → Nat
  | .empty => 0 | .filling => 1 | .ready => 2 | .draining => 3

def execTstate (p : Pre) (d : Reg) (h : BitVec 6) (s : State) :=
  issue (enDH 0x126 p d h) p (fun c s =>
    let hd := handleOf s c.b.bid h.toNat
    let v := tileCode hd.st + boolBit hd.shape.isSome * 4
    { s := c.act.foldl (fun s u =>
        sendResult s u none [(d.toNat, word32 v), (d.toNat + 1, word32 hd.bytes)] [] (ckpt := true)) s }) s

/-! ### Clipping (R199, R202, R203) -/

/-- The columns of a tile row that lie inside the tensor. -/
def clip (sh : Shape) (i : Nat) : Option (Nat × Nat × Nat) :=
  let r := sh.row0 + i
  let lo := max sh.col0 0
  let hi := min (sh.col0 + sh.cols) sh.tcols
  if 0 ≤ r && decide (r < sh.trows) && decide (lo < hi) then some (r.toNat, lo.toNat, hi.toNat) else none

/-- Bytes of the tensor row that hold columns lo to hi − 1 at width `w`. -/
def rowSpan (sh : Shape) (w r lo hi : Nat) : DWord × Nat :=
  (sh.base + BitVec.ofNat 64 (r * sh.pitch + lo * w / 8), ceil8 (hi * w) - lo * w / 8)

def blocksOf (sh : Shape) : Nat := (sh.cols + 31) / 32
/-- The scale byte of tile block (i, b), when its first element lies inside the tensor. -/
def scaleVa (sh : Shape) (i b : Nat) : Option DWord :=
  let r := sh.row0 + i
  let c := sh.col0 + 32 * b
  if 0 ≤ r && decide (r < sh.trows) && decide (0 ≤ c) && decide (c < sh.tcols) then
    some (sh.sbase + BitVec.ofNat 64 (r.toNat * sh.spitch + (c / 32).toNat))
  else none

/-- Reads of an engine, all of them or the first failure. -/
def engReads (b : Option Block) (vf : Nat) : List (Option (DWord × Nat)) → State → Except Trip (List (List Byte)) × State
  | [], s => (.ok [], s)
  | none :: ps, s =>
    match engReads b vf ps s with
    | (.ok r, s) => (.ok ([] :: r), s)
    | (.error e, s) => (.error e, s)
  | some (va, n) :: ps, s =>
    match engRead s b vf va n with
    | (.error e, s) => (.error e, s)
    | (.ok x, s) =>
      match engReads b vf ps s with
      | (.ok r, s) => (.ok (x :: r), s)
      | (.error e, s) => (.error e, s)

/-- Elements as one little-endian string of `w`-bit fields. -/
def packBits (w : Nat) (xs : List Nat) : Nat := xs.foldr (fun x acc => acc * 2 ^ w + x % 2 ^ w) 0
def unpackBits (w n v : Nat) : List Nat := (List.range n).map fun i => bitsN v (i * w) w

def fillBits (sh : Shape) : Nat := if sh.w = 64 then sh.fill.toNat * 2 ^ 32 + sh.fill.toNat else sh.fill.toNat % 2 ^ sh.w

/-- The bytes of tile row `i`, from the tensor bytes of its inside columns. -/
def fillRow (sh : Shape) (load : Bool) (i : Nat) (bs : List Byte) : List Byte :=
  let fillV := fillBits sh
  let els : List Nat :=
    match (if load then clip sh i else none) with
    | none => List.replicate sh.cols fillV
    | some (_, lo, hi) =>
      let v := Sys2Proof.ofBytes bs
      (List.range sh.cols).map fun j =>
        let c := sh.col0 + j
        if decide ((lo : Int) ≤ c) && decide (c < hi) then bitsN v ((c.toNat - lo) * sh.w) sh.w else fillV
  bytesOf (ceil8 (sh.cols * sh.w)) (packBits sh.w els)

/-- The tile's storage after a fill: rows, then scale rows. -/
def fillStorage (s : State) (b : Block) (sh : Shape) (load : Bool) (rows : List (List Byte)) (scales : List (List Byte)) : State :=
  let key := tileKey b sh
  let s := (List.range sh.rows).foldl (fun s i => memWrite s (key + i * sh.stride) (fillRow sh load i (rows.getD i []))) s
  if !isMx sh.fmt then s
  else
    let nb := blocksOf sh
    (List.range sh.rows).foldl (fun s i =>
      memWrite s (key + sh.rows * sh.stride + i * sh.sstride)
        ((List.range nb).map fun k => ((scales.getD (i * nb + k) []).headD sh.sfill))) s

def fillReads (sh : Shape) (load : Bool) : List (Option (DWord × Nat)) :=
  (List.range sh.rows).map fun i => if load then (clip sh i).map fun x => rowSpan sh sh.w x.1 x.2.1 x.2.2 else none
def scaleReads (sh : Shape) (load : Bool) : List (Option (DWord × Nat)) :=
  if !isMx sh.fmt then []
  else (List.range sh.rows).flatMap fun i => (List.range (blocksOf sh)).map fun k =>
    if load then (scaleVa sh i k).map fun a => (a, 1) else none

/-! ### Events of the tile engine -/

/-- The operation takes its turn on the drain path, which a quad's blocks share in request order (R254). -/
def onDrainPath (m : MOp) : Bool := [0x194, 0x195, 0x196, 0x199, 0x19A].contains m.f.op.toNat
def holdsPath (x : Stream) : Bool := x.running.any fun r => onDrainPath r.op

/-- The block's stream has ended or stopped: the weight context is free (09 R254), but for an operation in progress the
drain path too, and an MRECV that waits for a beat ends (R232). -/
def streamIsOver (s : State) (bid : Nat) : State :=
  let busy := (((s.block? bid).bind Block.stream).map holdsPath).getD false
  let s : State := { s with wctx := s.wctx.map fun w =>
    { w with holder := if w.holder == some bid then none else w.holder, reqs := w.reqs.filter (fun q => q.bid != bid),
             path := if busy && w.path.contains bid then bid :: w.path.filter (· != bid) else w.path.filter (· != bid) } }
  ((((s.block? bid).map Block.xinsts).getD []).map XInst.gang).dedup.foldl (fun s g => xRecheck s bid g) s

/-- A sequencer stops (09 R238): its launch terminates with the cause. -/
def stopSequencer (s : State) (bid : Nat) (code : BitVec 8) (pc va : DWord) : State :=
  match s.block? bid with
  | none => s
  | some b =>
    let halt (x : Stream) : Stream := { x with stopped := true, queue := [] }
    let s := streamIsOver (updBlock s bid fun b => { b with stream := b.stream.map halt }) bid
    let (d, s) := draw s 257
    beginTerm s b.lid { kind := 1, code := code, tid := noThread, blk := b.idx, pc := pc, va := va,
                        clock := s.clock, stopAt := s.clock + d }

/-- The failed access of a fill or a store: the thread that issued it traps (R198), or the sequencer whose fill it is stops. -/
def engineFails (s : State) (o : EOp) (code : BitVec 8) (va : DWord) : State :=
  if o.uid.isSome then trapOwner s o code va else stopSequencer s o.bid code o.pc va

/-- A fill or store is over; a fill of the block's sequencer may have been the last thing its block waited for. -/
def finishTileOp (s : State) (o : EOp) : State :=
  let s := finishOp s o [] []
  if o.uid.isNone then checkBlock s o.bid else s

/-- A fill or store that an access ended: the handle leaves the transition and the operation completes. -/
def endTileOp (s : State) (o : EOp) : State :=
  let s := match o.work with
    | .fill n _ _ => setHandle s o.bid n { handleOf s o.bid n with st := .empty }
    | .store n _ _ started =>
      let h := handleOf s o.bid n
      setHandle s o.bid n { h with st := if started then .ready else h.st, heldStores := if started then h.heldStores else h.heldStores - 1 }
    | _ => s
  finishTileOp s o

def heldFree (s : State) (op : Nat) : Bool := ((s.op? op).map fun o => o.held.isEmpty).getD false

def tileFillDue (s : State) (op : Nat) : Bool :=
  match s.op? op with
  | some o => (match o.work with | .fill _ _ _ => o.held.isEmpty | _ => false)
  | none => false

def execTileFillComplete (op : Nat) (s : State) : Host.Outcome State Fault Refusal :=
  match s.op? op with
  | none => .next s
  | some o =>
    match o.work, s.block? o.bid with
    | .fill n sh load, some b =>
      if !o.held.isEmpty then .next s
      else done (withLooks s o fun s =>
        match engReads (some b) o.vf (fillReads sh load ++ scaleReads sh load) s with
        | (.error ⟨.notPresent pg, va⟩, s) => holdOp s o pg va .engineRead 1
        | (.error ⟨.trap code, va⟩, s) => endTileOp (engineFails s o code va) o
        | (.ok bs, s) =>
          let s := fillStorage s b sh load (bs.take sh.rows) (bs.drop sh.rows)
          let s := setHandle s o.bid n { handleOf s o.bid n with st := .ready, bytes := sh.size }
          finishTileOp s o)
    | _, _ => .next s

def tileStoreStartDue (s : State) (op : Nat) : Bool :=
  match s.op? op with
  | some o => (match o.work with | .store n _ _ started => !started && (handleOf s o.bid n).st == .ready | _ => false)
  | none => false

/-- A held store finds its handle ready and sets it to draining (R204, R205). -/
def execTileStoreStart (op : Nat) (s : State) : Host.Outcome State Fault Refusal :=
  match s.op? op with
  | none => .next s
  | some o =>
    match o.work with
    | .store n sh fmt false =>
      let h := handleOf s o.bid n
      if h.st != .ready then .next s
      else
        let s := setHandle s o.bid n { h with st := .draining, heldStores := h.heldStores - 1 }
        done (updOp s op fun o => { o with work := .store n sh fmt true })
    | _ => .next s

/-- Element codes of tile row `i`. -/
def tileRow (s : State) (b : Block) (sh : Shape) (i : Nat) : List Nat :=
  unpackBits sh.w sh.cols (Sys2Proof.ofBytes (memRead s (tileKey b sh + i * sh.stride) (ceil8 (sh.cols * sh.w))))
def tileScale (s : State) (b : Block) (sh : Shape) (i k : Nat) : Byte :=
  memByte s (tileKey b sh + sh.rows * sh.stride + i * sh.sstride + k)

/-- A tile's storage as an operation in progress finds it, word by word (R197): for `read` to take elements from. -/
def lookTile (s : State) (b : Block) (sh : Shape) : State × State :=
  let (bs, s) := readKeys s [(tileKey b sh, sh.size)]
  (memWrite s (tileKey b sh) bs, s)

def mxCode : MxFmt → Nat
  | .e4m3 => 2 | .e5m2 => 3 | .e2m3 => 4 | .e3m2 => 5 | .e2m1 => 6

/-- What a store writes, from the storage as it stands in `s`: element codes of each row at width `w`, scales of each block. -/
def storeData (s : State) (b : Block) (sh : Shape) (fmt : Option MxFmt) : Nat × List (List Nat) × List (List Byte) :=
  match fmt with
  | none =>
    (sh.w, (List.range sh.rows).map (tileRow s b sh),
      if isMx sh.fmt then (List.range sh.rows).map fun i => (List.range (blocksOf sh)).map (tileScale s b sh i) else [])
  | some m =>
    let q (i : Nat) : List (List Nat × Nat × Flags) :=
      (List.range (blocksOf sh)).map fun k => quantise m (((tileRow s b sh i).drop (32 * k)).take 32)
    (tileWidth (mxCode m), (List.range sh.rows).map fun i => (q i).flatMap Prod.fst,
      (List.range sh.rows).map fun i => (q i).map fun x => BitVec.ofNat 8 x.2.1)

/-- One row's inside elements merged into the bytes that hold them. -/
def mergeRow (w lo hi : Nat) (els : List Nat) (old : List Byte) : List Byte :=
  let n := (hi - lo) * w
  let sh := lo * w % 8
  let v := packBits w els
  let o := Sys2Proof.ofBytes old
  bytesOf old.length (o % 2 ^ sh + v % 2 ^ n * 2 ^ sh + o / 2 ^ (sh + n) * 2 ^ (sh + n))

/-- The writes of a store: address, length, and the bytes from the old ones. -/
def storeWrites (sh : Shape) (w : Nat) (els : List (List Nat)) (scales : List (List Byte)) :
    List ((DWord × Nat) × (List Byte → List Byte)) :=
  (List.range sh.rows).flatMap fun i =>
    let row := match clip sh i with
      | some (r, lo, hi) =>
        let mine := ((els.getD i []).drop (lo - sh.col0).toNat).take (hi - lo)
        [(rowSpan sh w r lo hi, mergeRow w lo hi mine)]
      | none => []
    let sc := ((List.range (scales.getD i []).length).filterMap fun k =>
      (scaleVa sh i k).map fun a => ((a, 1), fun (_ : List Byte) => [(scales.getD i []).getD k 0]))
    row ++ sc

/-- Resolves every write before any is made. -/
def resolveAll (b : Option Block) (vf : Nat) (acc : Acc) : List (DWord × Nat) → State → Except Trip (List (List (Nat × Nat))) × State
  | [], s => (.ok [], s)
  | (va, n) :: ps, s =>
    match engResolve b vf acc (piecesOf va n) s with
    | (.error e, s) => (.error e, s)
    | (.ok ks, s) =>
      match resolveAll b vf acc ps s with
      | (.ok r, s) => (.ok (ks :: r), s)
      | (.error e, s) => (.error e, s)

def tileStoreDue (s : State) (op : Nat) : Bool :=
  match s.op? op with
  | some o => (match o.work with | .store _ _ _ started => started && o.held.isEmpty | _ => false)
  | none => false

def execTileStoreComplete (op : Nat) (s : State) : Host.Outcome State Fault Refusal :=
  match s.op? op with
  | none => .next s
  | some o =>
    match o.work, s.block? o.bid with
    | .store n sh fmt true, some b =>
      if !o.held.isEmpty then .next s
      else done (withLooks s o fun s =>
        let (seen, s) := lookTile s b sh
        let (w, els, scales) := storeData seen b sh fmt
        let ws := storeWrites sh w els scales
        match resolveAll (some b) o.vf .engineWrite (ws.map Prod.fst) s with
        | (.error ⟨.notPresent pg, va⟩, s) => holdOp s o pg va .engineWrite 1
        | (.error ⟨.trap code, va⟩, s) => endTileOp (engineFails s o code va) o
        | (.ok ks, s) =>
          let s := (ws.zip ks).foldl (fun s x =>
            let (old, s) := readKeys s x.2
            writeKeys s o.lid o.vf true x.2 (x.1.2 old)) s
          let s := setHandle s o.bid n { handleOf s o.bid n with st := .ready }
          finishOp s o [] [])
    | _, _ => .next s

end Sys2Proof.Machine
end

