-- ==== Sys2Proof/Machine/Gather.lean ====
section
/-! DEFINITION. The gather family (08 R208–R215, 13 R301). A command writes at its completion event, once no element is
parked and its packed side and record translate (95); what its reads may find is said in `lookAt` (R197, log 39). -/

namespace Sys2Proof.Machine

/-! ### Issue -/

/-- A descriptor; the basic values when `x` is false (Table 8-7). -/
def Gather.ofBytes (x : Bool) (kind op iw cap : Nat) (addr : DWord) (bs : List Byte) : Gather :=
  let f := bitsN (Sys2Proof.ofBytes bs)
  let count := f 224 16 + 1
  { kind := kind, op := op, iw := iw, count := count, esize := f 240 7 + 1, pitch := f 192 32, dst := BitVec.ofNat 64 (f 128 64),
    idx := BitVec.ofNat 64 (f 64 64), table := BitVec.ofNat 64 (f 0 64), fill := if x then BitVec.ofNat 32 (f 320 32) else 0,
    demand := if x then f 352 1 = 1 else true, frec := if x then BitVec.ofNat 64 (f 256 64) else 0, desc := addr, cap := cap,
    posted := 0, only := List.range count }
def gatherBad (x : Bool) (bs : List Byte) : Bool :=
  let f := bitsN (Sys2Proof.ofBytes bs)
  f 247 9 != 0 || (x && (f 353 159 != 0 || f 256 64 % 64 != 0))

/-- The descriptor, and the header of the fault record for its cap. -/
def readGather (c : Ctx) (uid : Nat) (x : Bool) (a : DWord) (s : State) : Except Trip (List Byte × Nat) × State :=
  match readChunks c uid 64 a 1 s with
  | (.error e, s) => (.error e, s)
  | (.ok d, s) =>
    let frec := bitsN (ofBytes d) 256 64
    if !x || gatherBad x d || frec == 0 then (.ok (d, 0), s)
    else
      match readChunks c uid 64 (BitVec.ofNat 64 frec) 1 s with
      | (.error e, s) => (.error e, s)
      | (.ok h, s) => (.ok (d, natAt h 8 4), s)

def gatherIssue (f : Fields) (p : Pre) (a : Reg) (off : BitVec 24) (x : Bool) (kind op iw : Nat) (s : State) :
    Host.Outcome State Fault Refusal :=
  if counterFull s p .ga then stallCourse s
  else
    commandR f p (fun c t s => readGather c t.uid x (baseOff a off c.l t) s) (fun c t r s =>
      if gatherBad x r.1 then laneTrap s 0x02
      else
        let g := Gather.ofBytes x kind op iw r.2 (baseOff a off c.l t) r.1
        { s := startOp s t c.core c.vf c.pc .ga 0 fun _ => .gather g }) s

def execGathI32 (p : Pre) (a : Reg) (off : BitVec 24) (x : Bool) (s : State) := gatherIssue (enAX 0x127 p a off x) p a off x 1 0 4 s
def execGathI64 (p : Pre) (a : Reg) (off : BitVec 24) (x : Bool) (s : State) := gatherIssue (enAX 0x128 p a off x) p a off x 1 0 8 s
def execScatI32 (p : Pre) (a : Reg) (off : BitVec 24) (x : Bool) (s : State) := gatherIssue (enAX 0x129 p a off x) p a off x 2 0 4 s
def execScatI64 (p : Pre) (a : Reg) (off : BitVec 24) (x : Bool) (s : State) := gatherIssue (enAX 0x12A p a off x) p a off x 2 0 8 s
def execScatcI32 (p : Pre) (a : Reg) (off : BitVec 24) (op : BitVec 2) (x : Bool) (s : State) :=
  gatherIssue (enScatc 0x12B p a off op x) p a off x 3 op.toNat 4 s
def execScatcI64 (p : Pre) (a : Reg) (off : BitVec 24) (op : BitVec 2) (x : Bool) (s : State) :=
  gatherIssue (enScatc 0x12C p a off op x) p a off x 3 op.toNat 8 s

/-! ### GREPLAY (R215) -/

/-- Bytes of the bitmap. -/
def mapBytes (count : Nat) : Nat := (ceil8 count + 63) / 64 * 64

def recordBad (h : List Byte) : Bool :=
  let kind := natAt h 21 1; let iw := natAt h 20 1; let count := natAt h 16 4
  kind == 0 || decide (3 < kind) || natAt h 12 4 != 0 || (iw != 4 && iw != 8) || count == 0 || decide (65536 < count)

/-- The record's header and bitmap and the descriptor. -/
def readReplayRec (c : Ctx) (uid : Nat) (a : DWord) (s : State) : Except Trip (List Byte × List Byte × List Byte) × State :=
  match readChunks c uid 64 a 1 s with
  | (.error e, s) => (.error e, s)
  | (.ok h, s) =>
    if recordBad h then (.ok (h, [], []), s)
    else
      match readPieces c uid 64 (a + 64) (mapBytes (natAt h 16 4) / 64) s with
      | (.error e, s) => (.error e, s)
      | (.ok m, s) =>
        match readChunks c uid 64 (BitVec.ofNat 64 (natAt h 24 8)) 1 s with
        | (.error e, s) => (.error e, s)
        | (.ok d, s) => (.ok (h, m, d), s)

def execGreplay (p : Pre) (a : Reg) (off : BitVec 24) (s : State) :=
  if counterFull s p .ga then stallCourse s
  else
    commandR (enAmem 0x12D p a off) p (fun c t s => readReplayRec c t.uid (baseOff a off c.l t) s) (fun c t x s =>
      let h := x.1
      if recordBad h || gatherBad true x.2.2 then laneTrap s 0x02
      else
        let count := natAt h 16 4
        let bits := ofBytes x.2.1
        let g := Gather.ofBytes true (natAt h 21 1) (natAt h 22 1 % 4) (natAt h 20 1) (natAt h 8 4) (BitVec.ofNat 64 (natAt h 24 8)) x.2.2
        let g : Gather := { g with count := count, frec := baseOff a off c.l t, posted := natAt h 32 8,
                                   only := (List.range count).filter fun k => bits.testBit k }
        { s := startOp s t c.core c.vf c.pc .ga 0 fun _ => .gather g }) s

/-! ### Elements (R209, R210, R214) -/

/-- What becomes of an element: where its bytes lie, or parked on a page, or faulted. -/
inductive Elem where
  | data (keys : List (Nat × Nat))
  | parked (page : Nat) (va : DWord) (acc : Acc)
  | fault (code : BitVec 8) (va : DWord)
deriving DecidableEq, Repr

/-- A failed access of an element. -/
def Gather.miss (g : Gather) (why : Trouble) (va : DWord) (acc : Acc) : Elem :=
  match why with
  | .trap code => .fault code va
  | .notPresent pg => if g.demand then .parked pg va acc else .fault 0x10 va

/-- What an access to the table is in a fault entry: a read for a gather, a write for a scatter. -/
def Gather.side (g : Gather) : Acc := if g.kind = 1 then .engineRead else .engineWrite

/-- Element `k`, found by its index, which is an element access itself (R209, R210): an aligned one is single-copy atomic. One
whose page has been answered deliver-trap faults with 0x10 (R212), also when the page has come since. -/
def Gather.element (s : State) (b : Option Block) (vf : Nat) (g : Gather) (k : Nat) : Elem × State :=
  let ia := g.idx + BitVec.ofNat 64 (k * g.iw)
  match g.denied.find? fun x => x.1 == k with
  | some x => (.fault 0x10 x.2, s)
  | none =>
  match engRead s b vf ia g.iw (ia.toNat % g.iw == 0) with
  | (.error e, s) => (g.miss e.why ia .engineRead, s)
  | (.ok bs, s) =>
    let i : DWord := if g.iw = 4 then sx 64 (BitVec.ofNat 32 (Sys2Proof.ofBytes bs)) else BitVec.ofNat 64 (Sys2Proof.ofBytes bs)
    let e := g.table + i * BitVec.ofNat 64 g.pitch
    if g.kind = 3 && canonicalVa e && (g.esize % 4 != 0 || e.toNat % 4 != 0) then (.fault 0x05 e, s)
    else
      let ps := piecesOf e g.esize
      match engResolve b vf (if g.kind = 2 then .engineWrite else .engineRead) ps s with
      | (.error t, s) => (g.miss t.why t.va g.side, s)
      | (.ok ks, s) =>
        -- SCATC's read-modify-write needs both rights (R214)
        if g.kind ≠ 3 then (.data ks, s)
        else match engResolve b vf .engineWrite ps s with
          | (.error t, s) => (g.miss t.why t.va g.side, s)
          | (.ok ks, s) => (.data ks, s)

/-- Every element still to be performed. -/
def resolveElements (b : Option Block) (vf : Nat) (g : Gather) : List Nat → State → List (Nat × Elem) × State
  | [], s => ([], s)
  | k :: ks, s =>
    let (e, s) := g.element s b vf k
    let (es, s) := resolveElements b vf g ks s
    ((k, e) :: es, s)

def fillBytes (g : Gather) : List Byte := (List.range g.esize).map fun j => BitVec.ofNat 8 (g.fill.toNat / 2 ^ (8 * (j % 4)))

/-- The packed side's address of element `k`. -/
def Gather.packed (g : Gather) (k : Nat) : DWord := g.dst + BitVec.ofNat 64 (k * g.esize)

/-- R214 on one 32-bit word. -/
def combine (op : Nat) (m v : Nat) : Nat :=
  match op with
  | 0 => (m + v) % 2 ^ 32
  | 1 => (fAdd f32 .rn false m v).1
  | 2 => (maxS (BitVec.ofNat 32 m) (BitVec.ofNat 32 v)).toNat
  | _ => (fMinMax f32 true false m v).1
def combineWords (op : Nat) (old new : List Byte) : List Byte :=
  (List.range (old.length / 4)).flatMap fun i => bytesOf 4 (combine op (natAt old (4 * i) 4) (natAt new (4 * i) 4))

/-- What element `k` writes, its packed bytes and packed keys given; a gather reads its data from `dat`. -/
def performElement (lid vf : Nat) (g : Gather) (s : State) (e : Elem) (packedKeys : List (Nat × Nat)) (dat : List Byte) : State :=
  match g.kind, e with
  | 1, .data _ => writeKeys s lid vf true packedKeys dat
  | 1, .fault _ _ => writeKeys s lid vf true packedKeys (fillBytes g)
  | 2, .data ks => writeKeys s lid vf true ks dat
  | 3, .data ks => writeKeys s lid vf true ks (combineWords g.op (ks.flatMap fun k => memRead s k.1 k.2) dat)
  | _, _ => s

/-! ### The fault record (R211) -/

def faultsOf (g : Gather) (es : List (Nat × Elem)) : List (Nat × BitVec 8 × DWord) :=
  ((es.filterMap fun x => match x.2 with | .fault c va => some (x.1, c, va) | _ => none) ++ g.ended).mergeSort
    fun a b => decide (a.1 ≤ b.1)

/-- What the engine writes of the record: its first eight bytes, and what follows the cap, which stays as software wrote
it. -/
def recordHead (g : Gather) (fs : List (Nat × BitVec 8 × DWord)) : List Byte :=
  bytesOf 4 fs.length ++ bytesOf 4 (fs.take g.cap).length
def recordTail (g : Gather) (fs : List (Nat × BitVec 8 × DWord)) : List Byte :=
  bytesOf 4 0 ++ bytesOf 4 g.count ++ bytesOf 4 (g.iw + g.kind * 2 ^ 8 + g.op * 2 ^ 16) ++ bytesOf 8 g.desc.toNat ++
    bytesOf 8 g.posted ++ bytesOf 24 0 ++ bytesOf (mapBytes g.count) ((fs.map fun x => 2 ^ x.1).sum) ++
    (fs.take g.cap).flatMap fun x => bytesOf 4 x.1 ++ bytesOf 4 x.2.1.toNat ++ bytesOf 8 x.2.2.toNat
def recordPieces (g : Gather) (fs : List (Nat × BitVec 8 × DWord)) : List (DWord × Nat) :=
  if g.frec = 0 then [] else piecesOf g.frec 8 ++ piecesOf (addrAt g.frec 12) (recordTail g fs).length

/-- Elements that park: one walk for each distinct page, with its count and the access of its first element (R212). -/
def parkElements (s : State) (o : EOp) (g : Gather) (ps : List ((Nat × Nat × DWord) × Acc)) : State :=
  let pages := (ps.map fun x => x.1.2.1).dedup
  let s := updOp s o.id fun o => { o with work := .gather { g with parked := ps.map Prod.fst }, held := pages }
  pages.foldl (fun s pg =>
    let mine := ps.filter fun x => x.1.2.1 == pg
    askWalk s o.vf pg ((mine.head?.map Prod.snd).getD g.side) (.engine o.id 2 mine.length)) s

/-- Is an element single-copy atomic (R210)? -/
def Gather.whole (g : Gather) (ks : List (Nat × Nat)) : Bool :=
  ks.length == 1 && [1, 2, 4, 8].contains g.esize && ks.all fun k => k.1 % g.esize == 0

/-- The data that elements move. Elements at one address are read once (R209): `seen` is what has been read. -/
def readElements (g : Gather) (seen : List (List (Nat × Nat) × List Byte)) :
    List ((Nat × Elem) × List (Nat × Nat)) → State → List (List Byte) × State
  | [], s => ([], s)
  | x :: xs, s =>
    let ks := match g.kind, x.1.2 with
      | 1, .data ks => ks
      | 1, _ => []
      | _, _ => x.2
    let (d, s) : List Byte × State :=
      match seen.find? fun y => y.1 == ks with
      | some y => (y.2, s)
      | none => readKeys s ks (g.whole ks)
    let (ds, s) := readElements g ((ks, d) :: seen) xs s
    (d :: ds, s)

/-- The command is performed: reads first, then the writes in ascending k, then the record. -/
def performGather (s : State) (o : EOp) (g : Gather) (es : List (Nat × Elem)) (pk : List (List (Nat × Nat))) (rec_ : List (Nat × Nat))
    (fs : List (Nat × BitVec 8 × DWord)) : State :=
  let (dat, s) := readElements g [] (es.zip pk) s
  let s := ((es.zip pk).zip dat).foldl (fun s x => performElement o.lid o.vf g s x.1.1.2 x.1.2 x.2) s
  let s := writeKeys s o.lid o.vf true rec_ (recordHead g fs ++ recordTail g fs)
  let s := match g.frec == 0, fs.find? fun f => !g.ended.any fun e => e.1 == f.1 with
    | true, some f => trapOwner s o f.2.1 f.2.2
    | _, _ => s
  finishOp s o [] []

def gatherDue (s : State) (op : Nat) : Bool :=
  match s.op? op with
  | some o => (match o.work with | .gather _ => o.held.isEmpty | _ => false)
  | none => false

def execGatherFamilyComplete (op : Nat) (s : State) : Host.Outcome State Fault Refusal :=
  match s.op? op with
  | none => .next s
  | some o =>
    match o.work with
    | .gather g =>
      if !o.held.isEmpty then .next s
      else done (withLooks s o fun s =>
        let b := s.block? o.bid
        let (es, s) := resolveElements b o.vf g (g.only.filter fun k => !g.ended.any fun e => e.1 == k) s
        let parked := es.filterMap fun x => match x.2 with | .parked pg va acc => some ((x.1, pg, va), acc) | _ => none
        if !parked.isEmpty then
          -- R301: once its launch has ended, no element of the command stays parked
          match ((s.launch? o.lid).bind Launch.term).bind fun t => if t.stopped then some t.code else none with
          | some code => updOp s op fun o => { o with work := .gather { g with ended := g.ended ++ parked.map fun x => (x.1.1, code, x.1.2.2) } }
          | none => parkElements s o g parked
        else
          let acc : Acc := if g.kind = 1 then .engineWrite else .engineRead
          -- a scatter's faulted element needs no packed bytes
          let side : List (DWord × Nat) := es.map fun x =>
            match g.kind, x.2 with
            | 1, _ => (g.packed x.1, g.esize)
            | _, .data _ => (g.packed x.1, g.esize)
            | _, _ => (0, 0)
          let fs := faultsOf g es
          match resolveAll b o.vf acc side s with
          | (.error ⟨.notPresent pg, va⟩, s) => holdOp s o pg va acc 1
          | (.error ⟨.trap code, va⟩, s) => finishOp (trapOwner s o code va) o [] []
          | (.ok pk, s) =>
            match engResolve b o.vf .engineWrite (recordPieces g fs) s with
            | (.error ⟨.notPresent pg, va⟩, s) => holdOp s o pg va .engineWrite 1
            | (.error ⟨.trap code, va⟩, s) => finishOp (trapOwner s o code va) o [] []
            | (.ok rk, s) => performGather s o g es pk rk fs)
    | _ => .next s

/-! ### Answers for parked elements (R212, R301) -/

/-- The page's answer reaches the elements parked on it: they are read again, or refused, or ended with a code. -/
def answerElements (g : Gather) (page : Nat) (deny : Bool) (endCode : Option (BitVec 8)) : Gather :=
  let mine := g.parked.filter fun x => x.2.1 == page
  let rest := g.parked.filter fun x => x.2.1 != page
  match endCode with
  | some code => { g with parked := rest, ended := g.ended ++ mine.map fun x => (x.1, code, x.2.2) }
  | none => { g with parked := rest, denied := if deny then g.denied ++ mine.map fun x => (x.1, x.2.2) else g.denied }

end Sys2Proof.Machine
end

