-- ==== Sys2Proof/Machine/Ring.lean ====
section
/-! DEFINITION. Stream rings and the ring writer (08 R224–R227, 17 R344). A post is one entry on its way to a ring; the
posts of a thread on a ring, and those of one command, go in their order. -/

namespace Sys2Proof.Machine

/-! ### The ring header (Table 8-13) -/

structure RingHdr where
  state : Nat
  reg : Nat
  ended : Nat
  tail : Nat
  head : Nat
  drop : Nat
  cap : Nat
  ent : DWord
deriving DecidableEq, Repr

def RingHdr.ofBytes (h : List Byte) : RingHdr :=
  ⟨natAt h 0 1, natAt h 4 2, natAt h 6 2, natAt h 8 4, natAt h 12 4, natAt h 16 4, natAt h 20 4, BitVec.ofNat 64 (natAt h 24 8)⟩
def RingHdr.full (r : RingHdr) : Bool := decide (r.cap ≤ (r.tail + 2 ^ 32 - r.head) % 2 ^ 32)
/-- Has the producer registered and not ended? -/
def RingHdr.live (r : RingHdr) (producer : Nat) : Bool :=
  decide (producer < 16) && r.reg.testBit producer && !r.ended.testBit producer

/-- R225: the id that a registration takes, or the refusal. -/
def registerId (r : RingHdr) : Except Word Nat :=
  if r.state = 2 || r.reg = 0xFFFF then .error 0xFFFFFFFF#32
  else if r.cap < 16 || 2 ^ 24 < r.cap || 2 ^ Nat.log2 r.cap != r.cap then .error 0xFFFFFFFE#32
  else .ok (((List.range 16).find? fun i => !r.reg.testBit i).getD 0)

/-- The writes of a registration: the state byte and the reg field. -/
def registerWrites (a : DWord) (r : RingHdr) (id : Nat) : List (DWord × List Byte) :=
  [(a, [1]), (addrAt a 4, bytesOf 2 (Nat.lor r.reg (2 ^ id)))]

/-- What an engine writes at once: pages that join a replay's write set, words of a ring, which never do (R322), and the
publication of a ring's tail, a release at system scope (R224). -/
structure Writes where
  data : List (DWord × List Byte) := []
  ring : List (DWord × List Byte) := []
  tail : List (DWord × List Byte) := []

def writeAll (lid vf : Nat) (note : Bool) (ws : List (DWord × List Byte)) (ks : List (List (Nat × Nat))) (s : State) : State :=
  (ws.zip ks).foldl (fun s x => writeKeys s lid vf note x.2 x.1.2) s

/-- Writes of an engine at several addresses, all or none: the ring's words, the data, then the tail. -/
def engWrites (s : State) (b : Option Block) (lid vf : Nat) (w : Writes) : Except Trip Unit × State :=
  match resolveAll b vf .engineWrite ((w.ring ++ w.data ++ w.tail).map fun x => (x.1, x.2.length)) s with
  | (.error e, s) => (.error e, s)
  | (.ok ks, s) =>
    let r := w.ring.length
    let d := r + w.data.length
    let s := writeAll lid vf true w.data ((ks.drop r).take w.data.length) (writeAll lid vf false w.ring (ks.take r) s)
    (.ok (), writeAll lid vf false w.tail (ks.drop d) (flushFor s vf (ks.drop d).flatten))

/-- The header as the ring writer reads it. -/
def readRing (o : EOp) (a : DWord) (s : State) : Except Trip RingHdr × State :=
  match engRead s (s.block? o.bid) o.vf a 64 with
  | (.ok h, s) => (.ok (RingHdr.ofBytes h), s)
  | (.error e, s) => (.error e, s)

/-- An access of an uncounted command failed: the page is waited for, or the thread traps and gets no answer (R198). -/
def tripOp (s : State) (o : EOp) (acc : Acc) (e : Trip) : State :=
  match e.why with
  | .notPresent pg => holdOp s o pg e.va acc 1
  | .trap code => finishOp (trapOwner s o code e.va) o [] []

/-- SROPEN's operation goes on: the header is read and the producer registered. -/
def tryRopen (s : State) (id : Nat) : State :=
  match s.op? id with
  | none => s
  | some o =>
    match o.work with
    | .ropen a d =>
      match readRing o a s with
      | (.error e, s) => tripOp s o .engineRead e
      | (.ok r, s) =>
        match registerId r with
        | .error v => finishOp s o [(d, v)] []
        | .ok id =>
          match engWrites s (s.block? o.bid) o.lid o.vf { ring := registerWrites a r id } with
          | (.error e, s) => tripOp s o .engineWrite e
          | (.ok _, s) => finishOp s o [(d, BitVec.ofNat 32 id)] []
    | _ => s

/-- A lane's record address, before anything is read: misaligned or not canonical. -/
def recordTrap (a : DWord) (align : Nat) : Option (BitVec 8 × DWord) :=
  if !canonicalVa a then some (0x06, a) else if a.toNat % align ≠ 0 then some (0x05, a) else none

def execSropen (p : Pre) (d a : Reg) (off : BitVec 24) (s : State) :=
  issue (enDA 0x133 p d a off) p (fun c s => perLaneAt c (baseOff a off c.l) (fun t a s =>
    match recordTrap a 64 with
    | some x => { s := s, trap := some x }
    | none =>
      let (id, s) := startUncounted s c t (some d) (.ropen a d.toNat)
      { s := tryRopen s id }) s) s
/-! ### Posts -/

def addPost (s : State) (op : Nat) (ring : DWord) (producer : Nat) (slot tok : Word) (fin : Bool) : State :=
  let (id, s) := fresh s
  { s with posts := s.posts ++ [{ id := id, op := op, ring := ring, producer := producer, slot := slot, tok := tok, fin := fin }] }

def ringIssue (f : Fields) (p : Pre) (a : Reg) (off : BitVec 24) (b : Reg) (data : Option (Reg × Reg)) (s : State) :
    Host.Outcome State Fault Refusal :=
  if counterFull s p .sl then stallCourse s
  else
    engCommand f p (fun c t s =>
      let ring := baseOff a off c.l t
      let op := s.nextId
      let s := startOp s t c.core c.vf c.pc .sl 0 fun _ => .ring ring
      let who := (readReg c.l t b).toNat
      match data with
      | some (x, y) => { s := addPost s op ring who (readReg c.l t x) (readReg c.l t y) false }
      | none => { s := addPost s op ring who 0 0 true }) s

def execSrpost (p : Pre) (a : Reg) (off : BitVec 24) (b c e : Reg) (s : State) :=
  ringIssue (enABCE 0x134 p a off b c e) p a off b (some (c, e)) s
def execSrend (p : Pre) (a : Reg) (off : BitVec 24) (b : Reg) (s : State) := ringIssue (enAB 0x135 p a off b) p a off b none s

/-- The 16 bytes of an entry (R224). -/
def ringEntry (slot tok : Word) (producer flags : Nat) : List Byte :=
  bytesOf 4 slot.toNat ++ bytesOf 4 tok.toNat ++ bytesOf 8 (producer % 256 + flags * 2 ^ 8)

/-! ### Slot field records, which a ring's close also writes (R216, R344) -/

def Field.is (f : Field) (vf : Nat) (addr : DWord) : Bool := f.vf == vf && f.addr == addr
def field? (s : State) (vf : Nat) (addr : DWord) : Option Field := s.fields.find? fun f => f.is vf addr
def updField (s : State) (vf : Nat) (addr : DWord) (g : Field → Field) : State :=
  { s with fields := s.fields.map fun f => if f.is vf addr then g f else f }
/-- The record's words [895:672]. -/
def Field.words (f : Field) : List Byte :=
  ([f.cursor, f.passes, f.logn, f.status.toNat, f.nfinal, f.late, f.bad] : List Nat).flatMap (bytesOf 4)
def recordWords (f : Field) : DWord × List Byte := (addrAt f.addr 84, f.words)
/-- Its status word [799:768]. -/
def statusWord (f : Field) : DWord × List Byte := (addrAt f.addr 96, bytesOf 4 f.status.toNat)

/-- Writes of a slot command; a page answered deliver-trap traps (R216). -/
def slotWrites (s : State) (o : EOp) (w : DWord × List Byte) : Except Trip Unit × State :=
  if o.denied.contains (pageOf w.1) then (.error ⟨.trap 0x10, w.1⟩, s)
  else engWrites s (s.block? o.bid) o.lid o.vf { data := [w] }

def ofRing (vf : Nat) (ring : DWord) (f : Field) : Bool := f.vf == vf && f.ring == ring && ring != 0
def ringClosed (f : Field) : Field := { f with status := f.status ||| 8 }

/-- An SLBIND.free ends: the record's status is written with bit 0 clear, the other words as they stand, and the field is
unbound (R344). -/
def finishUnbind (s : State) (o : EOp) (f : Field) (d : Nat) : State :=
  match slotWrites s o (recordWords { f with status := f.status &&& ~~~1#32 }) with
  | (.error ⟨.notPresent pg, va⟩, s) => holdOp s o pg va .engineWrite 1
  | (r, s) =>
    let s := match r with
      | .error ⟨.trap code, va⟩ => trapOwner s o code va
      | _ => s
    finishOp { s with fields := s.fields.filter fun x => !x.is f.vf f.addr } o [(d, 0)] []

/-! ### The ring writer's events -/

def postOp (s : State) (x : Post) : Option EOp := s.op? x.op

/-- Is the post the next of its command, and of its thread on its ring? -/
def postTurn (s : State) (x : Post) : Bool :=
  let uid := (postOp s x).bind EOp.uid
  s.posts.all fun y => decide (x.id ≤ y.id) ||
    !(y.op == x.op || (y.ring == x.ring && uid.isSome && ((postOp s y).bind EOp.uid) == uid))

def ringPostDue (s : State) (id : Nat) : Bool :=
  match s.posts.find? fun x => x.id == id with
  | some x => x.full.isNone && postTurn s x && heldFree s x.op
  | none => false
def ringPollDue (s : State) (id : Nat) : Bool :=
  match s.posts.find? fun x => x.id == id with
  | some x => (match x.full with | some c => decide (c + 256 ≤ s.clock) && heldFree s x.op | none => false)
  | none => false

def updPost (s : State) (id : Nat) (f : Post → Post) : State :=
  { s with posts := s.posts.map fun x => if x.id == id then f x else x }

/-- A command whose last post is published: an SRPOST or SREND is over; an SLBIND.free ends; an SLPASS goes on. -/
def postsDone (s : State) (o : EOp) : State :=
  if s.posts.any (fun x => x.op == o.id) then s
  else
    match o.work with
    | .ring _ => finishOp s o [] []
    | .slot a (.unbind d) => (match field? s o.vf a with | some f => finishUnbind s o f d | none => finishOp s o [(d, 0)] [])
    | _ => s

def dropPost (s : State) (o : EOp) (id : Nat) : State :=
  postsDone { s with posts := s.posts.filter fun x => x.id != id } o

/-- A command goes on without its posts; of a ring's close, which is published, only the record that failed is left out. A
pass does nothing more (R216). -/
def abortPosts (s : State) (o : EOp) : State :=
  let left (x : Post) : Option Post :=
    if x.op != o.id then some x
    else if x.shut.length < 2 then none
    else some { x with shut := x.shut.drop 1 }
  let published := s.posts.any fun x => x.op == o.id && !x.shut.isEmpty
  let s := { s with posts := s.posts.filterMap left }
  let s := match o.work with
    | .slot a _ => updField s o.vf a fun f => if f.busy == some o.id && !published then { f with todo := [] } else f
    | _ => s
  postsDone s o

/-- An access of a post failed: a page that is not present holds it; anything else traps the thread (R198, R216). -/
def postTrip (s : State) (o : EOp) (acc : Acc) (e : Trip) : State :=
  match e.why with
  | .notPresent pg => holdOp s o pg e.va acc 1
  | .trap code => abortPosts (trapOwner s o code e.va) o

/-- The entry of a post, and the header words that change before the tail. -/
def postWrites (x : Post) (r : RingHdr) : List (DWord × List Byte) :=
  let at_ := addrAt r.ent (16 * (r.tail % r.cap))
  if x.closing then [(at_, ringEntry 0 0 0xFF 4), (x.ring, [2])]
  else if x.fin then [(at_, ringEntry 0 0 x.producer 2), (addrAt x.ring 6, bytesOf 2 (Nat.lor r.ended (2 ^ x.producer)))]
  else [(at_, ringEntry x.slot x.tok x.producer 1)]

/-- The close is published: the records of the ring's fields are told, that of the command's own field with its completion
(R344). -/
def ringShut (s : State) (o : EOp) (x : Post) : State :=
  let own (f : Field) : Bool := match o.work with | .slot a _ => f.is o.vf a | _ => false
  let s : State := { s with fields := s.fields.map fun f => if ofRing o.vf x.ring f && own f then ringClosed f else f }
  match (s.fields.filter fun f => ofRing o.vf x.ring f && !own f).map Field.addr with
  | [] => dropPost s o x.id
  | addrs => updPost s x.id fun x => { x with shut := addrs }

/-- One record is told. -/
def tellRecord (s : State) (o : EOp) (x : Post) (a : DWord) : State :=
  let next (s : State) : State :=
    if x.shut.length < 2 then dropPost s o x.id else updPost s x.id fun x => { x with shut := x.shut.drop 1 }
  match field? s o.vf a with
  | none => next s
  | some f =>
    if f.ring != x.ring then next s
    else
      match slotWrites s o (statusWord (ringClosed f)) with
      | (.error e, s) => postTrip s o .engineWrite e
      | (.ok _, s) => next (updField s o.vf a ringClosed)

/-- The engine's producer id. -/
def Field.producer (f : Field) : Nat := f.status.toNat / 2 ^ 8 % 2 ^ 8
/-- Is it the end entry of a field's own sub-stream (16 R338)? -/
def endsField (vf : Nat) (x : Post) (f : Field) : Bool := x.fin && !x.closing && ofRing vf x.ring f && f.producer == x.producer
/-- The entry has gone out. -/
def sentEntry (s : State) (vf : Nat) (x : Post) : State :=
  { s with fields := s.fields.map fun f => if endsField vf x f then { f with endOut := true } else f }

/-- One step of a post: dropped and counted, held on a full ring, or written and published (R224, R226, R227). -/
def writePost (s : State) (o : EOp) (x : Post) : State :=
  match x.shut with
  | a :: _ => tellRecord s o x a
  | [] =>
    match readRing o x.ring s with
    | (.error e, s) => postTrip s o .engineRead e
    | (.ok r, s) =>
      let write (w : Writes) (next : State → State) (s : State) : State :=
        match engWrites s (s.block? o.bid) o.lid o.vf w with
        | (.error e, s) => postTrip s o .engineWrite e
        | (.ok _, s) => next s
      if !x.closing && (!r.live x.producer || (!x.fin && r.state == 2)) then
        write { ring := [(addrAt x.ring 16, bytesOf 4 (r.drop + 1))] } (fun s => dropPost (sentEntry s o.vf x) o x.id) s
      else if r.full then updPost s x.id fun x => { x with full := some s.clock }
      else
        write { ring := postWrites x r, tail := [(addrAt x.ring 8, bytesOf 4 (r.tail + 1))] } (fun s =>
          let s := sentEntry s o.vf x
          if x.closing then ringShut s o x
          else if x.fin && Nat.lor r.ended (2 ^ x.producer) == r.reg then updPost s x.id fun x => { x with closing := true }
          else dropPost s o x.id) s

def execStreamRingPost (id : Nat) (s : State) : Host.Outcome State Fault Refusal :=
  match s.posts.find? fun x => x.id == id with
  | none => .next s
  | some x =>
    if !ringPostDue s id then .next s
    else
      match postOp s x with
      | some o => done (writePost s o x)
      | none => .next s

/-- Every 256 clocks the held post reads head again with acquire at system scope (R224). -/
def execStreamRingHeadPoll (id : Nat) (s : State) : Host.Outcome State Fault Refusal :=
  match s.posts.find? fun x => x.id == id with
  | none => .next s
  | some x =>
    if !ringPollDue s id then .next s
    else
      match postOp s x with
      | none => .next s
      | some o =>
        match readRing o x.ring s with
        | (.error e, s) => done (postTrip s o .engineRead e)
        | (.ok r, s) => done (updPost s id fun x => { x with full := if r.full then some s.clock else none })

end Sys2Proof.Machine
end

