-- ==== Sys2Proof/Machine/Slots.lean ====
section
/-! DEFINITION. Slot fields and the slot engine (08 R216–R223, 16 R329–R341). The arrays are read and written in memory;
the model's Field holds what the engine took at bind, its counters and its pending candidates. -/

namespace Sys2Proof.Machine

/-! ### Binding (R217, R329) -/

/-- The record as SLBIND takes it (Table 8-9). -/
def Field.ofBytes (vf : Nat) (addr : DWord) (bs : List Byte) : Field :=
  let f := bitsN (Sys2Proof.ofBytes bs)
  let d (lo : Nat) : DWord := BitVec.ofNat 64 (f lo 64)
  { vf := vf, addr := addr, n := f 0 32, logcap := f 640 32, freelist := d 576, valid := d 512, kvpt := d 448, ring := d 384,
    log := d 320, conf := d 256, tok := d 192, stArr := d 128, bad := f 864 32, late := f 832 32, nfinal := f 800 32, status := 1,
    logn := f 736 32, passes := f 704 32, cursor := f 672 32 }

def Rule.bad (r : Rule) : Bool := !(decide (r.thr ≤ r.tht) && decide (r.tht ≤ r.thf)) || (r.kmax != 0 && decide (r.kmax < r.kmin))
/-- The rule of a field record, or of a rule record under `.x`. -/
def Rule.ofBytes (x : Bool) (bs : List Byte) : Rule :=
  let f := bitsN (Sys2Proof.ofBytes bs)
  if x then ⟨f 0 16, f 16 16, f 32 16, f 64 16, f 80 16⟩ else ⟨f 48 16, f 64 16, f 80 16, f 96 16, f 112 16⟩

def bindBad (bs : List Byte) : Bool :=
  let f := bitsN (Sys2Proof.ofBytes bs)
  f 0 32 == 0 || decide (65536 < f 0 32) || (Rule.ofBytes false bs).bad || f 32 16 != 0 || f 896 1152 != 0 ||
    ([128, 192, 256, 320, 384, 448, 512, 576] : List Nat).any fun lo => f lo 64 % 64 != 0

/-- What SLBIND reads: the record, as loads of its thread (R196). -/
def readField (c : Ctx) (t : Thread) (free : Bool) (a : DWord) (s : State) : Except Trip (List Byte) × State :=
  if a.toNat % 256 ≠ 0 then (.error ⟨.trap 0x05, a⟩, s)
  else if free then (if canonicalVa a then (.ok [], s) else (.error ⟨.trap 0x06, a⟩, s))
  else readChunks c t.uid 256 a 4 s

/-! ### The engine's own words of the arrays (16 R330) -/

def Field.base (f : Field) : SlotArr → DWord
  | .st => f.stArr | .conf => f.conf | .tok => f.tok | .valid => f.valid | .tail => f.freelist
/-- Bytes of an array. -/
def Field.extent (f : Field) : SlotArr → Nat
  | .st => (f.n + 3) / 4 | .conf => 2 * f.n | .tok => 4 * f.n | .valid => 4 * ((f.n + 31) / 32) | .tail => 4
def Field.ownWords (f : Field) (a : SlotArr) : List (Option Word) := ((f.own.find? fun x => x.1 == a).map Prod.snd).getD []
def Field.ownWord (f : Field) (a : SlotArr) (k : Nat) : Option Word := (f.ownWords a)[k]?.join
def Field.setOwn (f : Field) (a : SlotArr) (k : Nat) (w : Word) : Field :=
  { f with own := f.own.map fun x => if x.1 == a then (a, x.2.set k (some w)) else x }

def wordsIn : Nat → List Byte → List Word
  | 0, _ => []
  | n + 1, bs => BitVec.ofNat 32 (natAt bs 0 4) :: wordsIn n (bs.drop 4)

/-- The words of an array as they stand, none where its page cannot be read. -/
def peekWords (b : Option Block) (vf : Nat) : List (DWord × Nat) → State → List (Option Word) × State
  | [], s => ([], s)
  | (va, n) :: ps, s =>
    let k := (n + 3) / 4
    let (r, s) := engPiece s b vf va n .engineRead
    let (rest, s) := peekWords b vf ps s
    match r with
    | .ok key => ((wordsIn k (memRead s key n)).map some ++ rest, s)
    | .error _ => (List.replicate k none ++ rest, s)

def slotArrays : List SlotArr := [.st, .conf, .tok, .valid, .tail]

/-- A free-list ring's tail as the engine has it, when another bound field uses the ring. -/
def sharedTail (s : State) (f : Field) : Option (List (Option Word)) :=
  (s.fields.find? fun g => g.vf == f.vf && g.freelist == f.freelist).map fun g => g.ownWords .tail

/-- At bind the engine takes the arrays as software has initialised them (R217). -/
def takeArrays (b : Option Block) (f : Field) (s : State) : Field × State :=
  slotArrays.foldl (fun (x : Field × State) a =>
    let (ws, s) := peekWords b f.vf (piecesOf (f.base a) (f.extent a)) x.2
    let ws := if a == .tail then (sharedTail s f).getD ws else ws
    ({ x.1 with own := x.1.own ++ [(a, ws)] }, s)) (f, s)

/-- A page of them that is not present, for which the bind waits (R198, log 89). -/
def absentArray (b : Option Block) (f : Field) (s : State) : Option (Nat × DWord) :=
  let pieces := (slotArrays.filter fun a => a != .tail || f.freelist != 0).flatMap fun a => piecesOf (f.base a) (f.extent a)
  pieces.findSome? fun x =>
    match (engPiece s b f.vf x.1 x.2 .engineRead).1 with
    | .error (.notPresent pg) => some (pg, x.1)
    | _ => none

/-! ### Binding -/

/-- The field is bound with the engine's producer id (0xFF without a ring); a field complete at bind ends its sub-stream. -/
def bindField (s : State) (o : EOp) (d : Nat) (f : Field) (prod : Nat) (ring : List (DWord × List Byte)) : State :=
  let complete := f.cursor == f.n
  let f : Field := { f with status := word32 (1 + boolBit complete * 2 + prod * 2 ^ 8) }
  match absentArray (s.block? o.bid) f s with
  | some x => holdOp s o x.1 x.2 .engineRead 1
  | none =>
  match engWrites s (s.block? o.bid) o.lid o.vf { ring := ring, data := [recordWords f] } with
  | (.error e, s) => tripOp s o .engineWrite e
  | (.ok _, s) =>
    let (f, s) := takeArrays (s.block? o.bid) f s
    let s := finishOp { s with fields := s.fields ++ [f] } o [(d, 0)] []
    if complete && f.ring != 0 then
      let (id, s) := fresh s
      addPost { s with ops := s.ops ++ [{ o with id := id, pend := 0, work := .ring f.ring, held := [] }] } id f.ring prod 0 0 true
    else s

/-- SLBIND's operation: the lowest status of Table 8-10 that applies; a ring page that is not present holds it. -/
def bindOp (s : State) (o : EOp) (f : Field) (d : Nat) : State :=
  let answer (st : Nat) (s : State) : State := finishOp s o [(d, word32 st)] []
  let space := decide (1024 ≤ (s.fields.filter fun x => x.vf == o.vf).length)
  if (field? s o.vf f.addr).isSome then answer 0x02 s
  else if f.ring = 0 then (if space then answer 0x04 s else bindField s o d f 0xFF [])
  else
    match readRing o f.ring s with
    | (.error e, s) => tripOp s o .engineRead e
    | (.ok r, s) =>
      match registerId r with
      | .error _ => answer 0x03 s
      | .ok id => if space then answer 0x04 s else bindField s o d f id (registerWrites f.ring r id)

/-! ### The order of commands on a field (R218) -/

def isSlotOp (vf : Nat) (addr : DWord) (o : EOp) : Bool :=
  match o.work with
  | .slot a _ => o.vf == vf && a == addr
  | _ => false
def isPass (o : EOp) : Bool :=
  match o.work with
  | .slot _ (.pass _) => true
  | _ => false
/-- Are the thread's earlier commands on the field processed? An SLPASS counts as processed once it has taken its candidates;
an SLTRUNC, which drops candidates to its end, only then. -/
def slotTurn (s : State) (o : EOp) (addr : DWord) : Bool :=
  let busy := (field? s o.vf addr).bind Field.busy
  s.ops.all fun x => !(decide (x.id < o.id) && x.uid == o.uid && isSlotOp o.vf addr x) || (busy == some x.id && isPass x)

/-- An SLBIND.free at its turn, once nothing issued before it is left on the field: the end entry of an engine sub-stream that
has not gone out is posted first, and waited for where the bind has it on its way (R338). -/
def unbindOp (s : State) (o : EOp) (f : Field) (d : Nat) : State :=
  if f.busy == some o.id then postsDone s o
  else if f.busy.isSome || s.ops.any (fun x => isSlotOp f.vf f.addr x && decide (x.id < o.id)) then s
  else
    let s := updField s f.vf f.addr fun f => { f with busy := some o.id }
    if f.ring = 0 || f.endOut then finishUnbind s o f d
    else
      match s.posts.find? fun x => endsField f.vf x f && ((postOp s x).map EOp.vf == some f.vf) with
      | some x =>
        let s : State := { s with posts := s.posts.map fun y => if y.id == x.id then { y with op := o.id } else y }
        (match s.op? x.op with | some q => finishOp s q [] [] | none => s)
      | none => addPost s o.id f.ring f.producer 0 0 true

/-- A waiting SLBIND or SLBIND.free goes on. -/
def trySlot (s : State) (op : Nat) : State :=
  match s.op? op with
  | none => s
  | some o =>
    if !o.held.isEmpty then s
    else
      match o.work with
      | .slot a (.bind f d) => if slotTurn s o a then bindOp s o f d else s
      | .slot a (.unbind d) => (match field? s o.vf a with | some f => unbindOp s o f d | none => finishOp s o [(d, 0)] [])
      | _ => s

/-- Those of a field, when one of its commands has ended. -/
def trySlots (s : State) (vf : Nat) (addr : DWord) : State :=
  ((s.ops.filter (isSlotOp vf addr)).map EOp.id).foldl trySlot s

/-- Nothing of a thread issues before this result lands. -/
def awaitAll (s : State) (uid pend : Nat) : State :=
  updThread s uid fun t => { t with pend := t.pend.map fun p => if p.id == pend then { p with all := true } else p }

def execSlbind (p : Pre) (d a : Reg) (off : BitVec 24) (free : Bool) (s : State) :=
  commandR (enSlbind 0x12E p d a off free) p (fun c t s => readField c t free (baseOff a off c.l t) s) (fun c t bs s =>
    let va := baseOff a off c.l t
    let answer (st : Word) (s : State) : LaneDone := { s := sendResult s t.uid none [(d.toNat, st)] [] (ckpt := true) }
    let start (cmd : SlotCmd) (s : State) : LaneDone :=
      let (id, s) := startUncounted s c t (some d) (.slot va cmd)
      let s := trySlot s id
      -- the thread's next command finds the field bound or free
      { s := match s.op? id with | some o => awaitAll s t.uid o.pend | none => s }
    if !free then (if bindBad bs then answer 0x01 s else start (.bind (Field.ofBytes c.vf va bs) d.toNat) s)
    else
      match field? s c.vf va with
      | none => answer 0x05 s
      | some f =>
        if f.freed then answer 0x05 s
        else start (.unbind d.toNat) (updField s c.vf va fun f => { f with freed := true })) s

/-! ### Issue of the counted commands -/

/-- The bound field a lane names, or its trap (R218). -/
def boundField (c : Ctx) (a : DWord) (s : State) : Option (BitVec 8) :=
  if a.toNat % 256 ≠ 0 then some 0x05
  else if !canonicalVa a then some 0x06
  else match field? s c.vf a with
    | some f => if f.freed then some 0x02 else none
    | none => some 0x02

def slotIssue (f : Fields) (p : Pre) (a : Reg) (off : BitVec 24) (regs : List Nat) (cmd : Ctx → Thread → SlotCmd) (s : State) :
    Host.Outcome State Fault Refusal :=
  if counterFull s p .sl then stallCourse s
  else
    engCommand f p (fun c t s =>
      let va := baseOff a off c.l t
      match boundField c va s with
      | some code => { s := s, trap := some (code, if code = 0x02 then 0 else va) }
      | none =>
        let (pend, s) := if regs.isEmpty then (0, s) else awaitResult s t.uid regs []
        { s := startOp s t c.core c.vf c.pc .sl pend fun _ => .slot va (cmd c t) }) s

def execSlpost (p : Pre) (a : Reg) (off : BitVec 24) (b c e : Reg) (s : State) :=
  slotIssue (enABCE 0x12F p a off b c e) p a off [] (fun k t => .post (readReg k.l t b) (readReg k.l t c) (readReg k.l t e)) s
def execSlread (p : Pre) (d a : Reg) (off : BitVec 24) (sel : SlSel) (b : Reg) (s : State) :=
  slotIssue (enSlread 0x131 p d a off sel b) p a off [d.toNat, d.toNat + 1] (fun k t => .read sel (readReg k.l t b)) s
def execSltrunc (p : Pre) (d a : Reg) (off : BitVec 24) (b : Reg) (s : State) :=
  slotIssue (enDAB 0x132 p d a off b) p a off [d.toNat] (fun k t => .trunc (readReg k.l t b)) s

/-- The rule an SLPASS captures at issue; the field is judged before anything is read. -/
def readRule (c : Ctx) (x : Bool) (b : Reg) (a : DWord) (t : Thread) (s : State) : Except Trip (List Byte) × State :=
  match boundField c a s with
  | some code => (.error ⟨.trap code, if code = 0x02 then 0 else a⟩, s)
  | none =>
    let at_ := if x then readPair c.l t b else a
    match resolve s c.b c.vf at_ 16 16 .load .dflt with
    | (.error e, s) => (.error ⟨e, at_⟩, s)
    | (.ok pl, s) => let (bs, s) := readNow c t.uid pl 16 s; (.ok bs, countVault c at_ s)

def execSlpass (p : Pre) (a : Reg) (off : BitVec 24) (x : Bool) (b : Reg) (s : State) :=
  if counterFull s p .sl then stallCourse s
  else
    commandR (enSlpass 0x130 p a off x b) p (fun c t s => readRule c x b (baseOff a off c.l t) t s) (fun c t bs s =>
      let r := Rule.ofBytes x bs
      let junk := x && (natAt bs 6 2 != 0 || natAt bs 12 4 != 0)
      if junk || r.bad then laneTrap s 0x02
      else
        let va := baseOff a off c.l t
        { s := startOp s t c.core c.vf c.pc .sl 0 fun _ => .slot va (.pass r) }) s

/-! ### The engine's work on a field: its accesses in order, stopped by the first that fails -/

structure Run where
  s : State
  f : Field
  o : EOp
  next : List SlotJob := []                  -- what follows this job
  post : Option (Word × Word × Bool) := none -- an entry: slot, token, end
  err : Option (Acc × Trip) := none

def Run.fail (r : Run) (acc : Acc) (e : Trip) : Run := { r with err := some (acc, e) }
def Run.rd (r : Run) (va : DWord) (n : Nat) : Nat × Run :=
  if r.err.isSome then (0, r)
  else if r.o.denied.contains (pageOf va) then (0, r.fail .engineRead ⟨.trap 0x10, va⟩)
  else
    match engRead r.s (r.s.block? r.o.bid) r.f.vf va n with
    | (.ok bs, s) => (ofBytes bs, { r with s := s })
    | (.error e, s) => (0, { r with s := s }.fail .engineRead e)
/-- The engine's writes stand in what its other commands on the field have seen of memory too: a pass is whole before the
next (R218). -/
def Run.wr (r : Run) (va : DWord) (n v : Nat) : Run :=
  if r.err.isSome then r
  else if r.o.denied.contains (pageOf va) then r.fail .engineWrite ⟨.trap 0x10, va⟩
  else
    match engResolve (r.s.block? r.o.bid) r.f.vf .engineWrite (piecesOf va n) r.s with
    | (.error e, s) => { r with s := s }.fail .engineWrite e
    | (.ok ks, s) =>
      let s := writeKeys s r.o.lid r.f.vf true ks (bytesOf n v)
      let put (m : List Host.Cell) : List Host.Cell :=
        (ks.foldl (fun (x : List Host.Cell × List Byte) k => (Sparse.setList (w := 8) x.1 k.1 (x.2.take k.2), x.2.drop k.2)) (m, bytesOf n v)).1
      { r with s := { s with ops := s.ops.map fun o => if isSlotOp r.f.vf r.f.addr o then { o with past := o.past.map put } else o } }
/-- A change of the field's own words, unless the run has failed. -/
def Run.upd (r : Run) (g : Field → Field) : Run := if r.err.isSome then r else { r with f := g r.f }

/-- Word `k` of an array, its bytes in the array alone: the engine's own one, or that of memory where software stored in
it (R330). -/
def Run.word (r : Run) (a : SlotArr) (k : Nat) : Nat × Run :=
  let (v, r) := r.rd (addrAt (r.f.base a) (4 * k)) (min 4 (r.f.extent a - 4 * k))
  match r.f.ownWord a k with
  | none => (v, r.upd fun f => f.setOwn a k (word32 v))
  | some w =>
    if r.err.isSome || w.toNat == v then (v, r)
    else
      let (i, s) := draw r.s 2
      ((if i = 0 then v else w.toNat), { r with s := s })
/-- Word `k` as the engine has it, which a rewriting starts from. -/
def Run.base (r : Run) (a : SlotArr) (k : Nat) : Nat × Run :=
  match r.f.ownWord a k with
  | some w => (w.toNat, r)
  | none => r.word a k
/-- Bits [lo + w - 1:lo] of the word are rewritten. -/
def Run.put (r : Run) (a : SlotArr) (k lo w v : Nat) : Run :=
  let (x, r) := r.base a k
  let y := x - x / 2 ^ lo % 2 ^ w * 2 ^ lo + v * 2 ^ lo
  (r.wr (addrAt (r.f.base a) (4 * k)) (min 4 (r.f.extent a - 4 * k)) y).upd fun f => f.setOwn a k (word32 y)

/-- State code of a slot; 11 reads as masked. -/
def Run.st (r : Run) (i : Nat) : Nat × Run :=
  let (v, r) := r.word .st (i / 16)
  let k := v / 2 ^ (2 * (i % 16)) % 4
  (if k = 3 then 0 else k, r)
/-- Token, confidence, state (R331). -/
def Run.setSlot (r : Run) (i st tok conf : Nat) : Run :=
  ((r.put .tok i 0 32 tok).put .conf (i / 2) (16 * (i % 2)) 16 conf).put .st (i / 16) (2 * (i % 16)) 2 st
/-- R335. -/
def Run.log (r : Run) (v : Nat) : Run :=
  if r.f.logn < r.f.logcap then (r.wr (addrAt r.f.log (4 * r.f.logn)) 4 v).upd fun f => { f with logn := f.logn + 1 }
  else r.upd fun f => { f with status := f.status ||| 16 }

abbrev Cand := Nat × Nat × Nat     -- slot, token, confidence

/-- By confidence descending, then slot ascending. -/
def candOrder (x y : Cand) : Bool := decide (y.2.2 < x.2.2) || (x.2.2 == y.2.2 && decide (x.1 ≤ y.1))

/-- One new final slot (R220, R331, R333), then the cursor loop. -/
def Run.final (r : Run) (x : Cand) : Run :=
  let r := (r.setSlot x.1 2 x.2.1 x.2.2).upd fun f => { f with nfinal := f.nfinal + 1 }
  let (page, r) := r.rd (addrAt r.f.kvpt (8 * (x.1 / 16))) 8
  let r := if page = 0 then r.upd fun f => { f with status := f.status ||| 4 } else r.put .valid (x.1 / 32) (x.1 % 32) 1 1
  { r.log x.1 with next := [.release] }

/-- The cursor loop of R220 at the slot it has reached. A post is published before the cursor moves. -/
def Run.release (r : Run) : Run :=
  if r.f.n ≤ r.f.cursor then r
  else
    let (st, r) := r.st r.f.cursor
    if st ≠ 2 then r
    else
      let (tok, r) := r.word .tok r.f.cursor
      { r with next := [.moved, .release], post := if r.f.ring = 0 then none else some (word32 r.f.cursor, word32 tok, false) }

/-- States of the candidates' slots; those already final are late and leave. -/
def Run.sift : List Cand → Run → List (Cand × Nat) × Run
  | [], r => ([], r)
  | x :: xs, r =>
    let (st, r) := r.st x.1
    if st = 2 then Run.sift xs (r.upd fun f => { f with late := min (f.late + 1) (2 ^ 32 - 1) })
    else let (ys, r) := Run.sift xs r; ((x, st) :: ys, r)

/-- The pass rule of R220 over the candidates taken: what it changes, slot by slot. -/
def passJobs (k : Rule) (cs : List (Cand × Nat)) : List SlotJob :=
  let all := (cs.map Prod.fst).mergeSort candOrder
  let high := all.filter fun x => decide (k.thf ≤ x.2.2)
  let fin0 := if k.kmax = 0 then high else high.take k.kmax
  let rest := all.filter fun x => !fin0.contains x
  let fin := fin0 ++ rest.take (k.kmin - fin0.length)
  let others := cs.filter fun x => !fin.contains x.1
  let tent := (others.filter fun x => decide (k.tht ≤ x.1.2.2) || high.contains x.1).map Prod.fst
  let reopen := (others.filter fun x => !tent.contains x.1 && x.2 == 1 && decide (x.1.2.2 < k.thr)).map Prod.fst
  reopen.map (fun x => .slot x.1 0 0 0) ++ tent.map (fun x => .slot x.1 1 x.2.1 x.2.2) ++
    (fin.mergeSort fun x y => decide (x.1 ≤ y.1)).map (fun x => .final x.1 x.2.1 x.2.2) ++ [.ending, .passed]

/-- The free-list ring's tail moves on, for every field that uses the ring (R330: written from the engine's own). -/
def Run.putTail (r : Run) : Run :=
  let (x, r) := r.base .tail 0
  let y := (x + 1) % 2 ^ 32
  let r := r.put .tail 0 0 32 y
  if r.err.isSome then r
  else { r with s := { r.s with fields := r.s.fields.map fun g =>
                         if g.vf == r.f.vf && g.freelist == r.f.freelist then g.setOwn .tail 0 (word32 y) else g } }

def Run.clearSlot (r : Run) (i : Nat) : Run :=
  let (st, r) := r.st i
  let r := r.setSlot i 0 0 0
  let r := r.upd fun f => { f with nfinal := if st = 2 then f.nfinal - 1 else f.nfinal, cands := f.cands.filter fun x => x.1 != i }
  r.put .valid (i / 32) (i % 32) 1 0
/-- A page goes to the free-list ring, or is lost to a full one. -/
def Run.freePage (r : Run) (j : Nat) : Run :=
  let at_ := addrAt r.f.kvpt (8 * j)
  let (e, r) := r.rd at_ 8
  if e = 0 then r
  else
    let fl := r.f.freelist
    let (tail, r) := r.word .tail 0
    let (head, r) := r.rd (addrAt fl 4) 4
    let (cap, r) := r.rd (addrAt fl 8) 4
    let r :=
      if cap ≤ (tail + 2 ^ 32 - head) % 2 ^ 32 then r.upd fun f => { f with status := f.status ||| 32 }
      else (r.wr (addrAt fl (16 + 8 * (tail % cap))) 8 e).putTail
    r.wr at_ 8 0

/-- One piece of a pass or truncation. -/
def Run.job (r : Run) (k : Rule) : SlotJob → Run
  | .sift =>
    let (cs, r) := Run.sift (r.f.taken.mergeSort fun x y => decide (x.1 ≤ y.1)) r
    { r.upd (fun f => { f with taken := [] }) with next := passJobs k cs }
  | .slot i st tok conf => r.setSlot i st tok conf
  | .final i tok conf => r.final (i, tok, conf)
  | .release => r.release
  | .moved => r.upd fun f => { f with cursor := f.cursor + 1 }
  | .ending =>
    if r.f.cursor == r.f.n && !r.f.status.getLsbD 1 then
      { r.upd (fun f => { f with status := f.status ||| 2 }) with post := if r.f.ring = 0 then none else some (0, 0, true) }
    else r
  | .passed => r.upd fun f => { f with passes := (f.passes + 1) % 2 ^ 32 }
  | .clear i => r.clearSlot i
  | .freePage j => r.freePage j
  | .note v => r.log v

/-- The next piece is made; a page that is not present holds it, and any other failure ends the command with the writes it
has made (R216). -/
def runJob (s : State) (o : EOp) (f : Field) (k : Rule) : State :=
  match f.todo with
  | [] => s
  | j :: js =>
    withLooks s o (fun s =>
      let r := Run.job { s := s, f := f, o := o } k j
      match r.err with
      | some (acc, ⟨.notPresent pg, va⟩) => holdOp r.s o pg va acc 1
      | some (_, ⟨.trap code, va⟩) => updField (trapOwner r.s o code va) f.vf f.addr fun _ => { r.f with todo := [] }
      | none =>
        let s := updField r.s f.vf f.addr fun _ => { r.f with todo := r.next ++ js }
        match r.post with
        | some (slot, tok, fin) => addPost s o.id f.ring f.producer slot tok fin
        | none => s)

/-- The engine's writes of a command that ends: the record's words with release at device scope, then completion (R216). -/
def closeCommand (s : State) (o : EOp) (addr : DWord) (result : List Word) : State :=
  match field? s o.vf addr with
  | none => finishOp s o [] []
  | some f =>
    match slotWrites s o (recordWords f) with
    | (.error ⟨.notPresent pg, va⟩, s) => holdOp s o pg va .engineWrite 1
    | (r, s) =>
      let s := match r with
        | .error ⟨.trap code, va⟩ => trapOwner s o code va
        | _ => s
      let s := updField s o.vf addr fun f => if f.busy == some o.id then { f with busy := none } else f
      let regs := ((o.uid.bind s.thread?).bind fun t => (t.pend.find? fun p => p.id == o.pend).map Pend.regs).getD []
      let s := finishOp s o ((regs.map Prod.fst).zip result) []
      trySlots s o.vf addr

/-- The op a slot event names, with its field record and command. -/
def slotOp (s : State) (op : Nat) : Option (EOp × DWord × SlotCmd) :=
  match s.op? op with
  | some o => (match o.work with | .slot a c => some (o, a, c) | _ => none)
  | none => none

/-- Is the pass or truncation on the field free to begin, or to go on? -/
def slotStep (s : State) (o : EOp) (a : DWord) : Bool :=
  o.held.isEmpty && s.posts.all (fun x => x.op != o.id) &&
  (match field? s o.vf a with
    | some f => if f.busy == some o.id then !f.todo.isEmpty else f.busy.isNone && slotTurn s o a
    | none => true)

/-! ### SLPOST (R219) -/

def slpostDue (s : State) (op : Nat) : Bool :=
  match slotOp s op with
  | some (o, a, .post _ _ _) => o.held.isEmpty && slotTurn s o a
  | _ => false

/-- A candidate joins the pending set: the higher confidence, then the lower token. -/
def mergeCand (f : Field) (slot tok conf : Word) : Field :=
  if f.n ≤ slot.toNat || 2 ^ 16 ≤ conf.toNat then { f with bad := min (f.bad + 1) (2 ^ 32 - 1) }
  else
    let x : Cand := (slot.toNat, tok.toNat, conf.toNat)
    match f.cands.find? fun y => y.1 == x.1 with
    | none => { f with cands := f.cands ++ [x] }
    | some y =>
      if y.2.2 < x.2.2 || (x.2.2 == y.2.2 && decide (x.2.1 < y.2.1)) then
        { f with cands := f.cands.map fun z => if z.1 == x.1 then x else z }
      else f

def execSlpostMerge (op : Nat) (s : State) : Host.Outcome State Fault Refusal :=
  match slotOp s op with
  | some (o, a, .post slot tok conf) =>
    if !slpostDue s op then .next s
    else
      let s' := closeCommand (updField s o.vf a fun f => mergeCand f slot tok conf) o a []
      -- a record page that is not present holds the command before its merge
      if (s'.op? op).isSome then
        (match field? s o.vf a with
         | some f => done (updField s' o.vf a fun _ => f)
         | none => done s')
      else done s'
  | _ => .next s

/-! ### SLPASS (R220, R221) -/

def slpassApplyDue (s : State) (op : Nat) : Bool :=
  match slotOp s op with
  | some (o, a, .pass _) => slotStep s o a
  | _ => false

/-- A pass begins, taking the candidates merged so far (R337), or makes its next piece. -/
def execSlpassApply (op : Nat) (s : State) : Host.Outcome State Fault Refusal :=
  match slotOp s op with
  | some (o, a, .pass k) =>
    if !slpassApplyDue s op then .next s
    else
      match field? s o.vf a with
      | none => done (finishOp s o [] [])
      | some f =>
        if f.busy == some op then done (runJob s o f k)
        else done (updField s o.vf a fun f => { f with busy := some op, taken := f.cands, cands := [], todo := [.sift] })
  | _ => .next s

/-- Everything is written, and every post of the pass published. -/
def slpassCompleteDue (s : State) (op : Nat) : Bool :=
  match slotOp s op with
  | some (o, a, .pass _) =>
    o.held.isEmpty && s.posts.all (fun x => x.op != op) &&
      ((field? s o.vf a).map fun f => f.busy == some op && f.todo.isEmpty).getD false
  | _ => false

def execSlpassComplete (op : Nat) (s : State) : Host.Outcome State Fault Refusal :=
  match slotOp s op with
  | some (o, a, .pass _) => if !slpassCompleteDue s op then .next s else done (closeCommand s o a [])
  | _ => .next s

/-! ### SLTRUNC (R223, R334) -/

def truncJobs (n p : Nat) : List SlotJob :=
  ((List.range n).drop p).map .clear ++ ((List.range ((n + 15) / 16)).drop ((p + 15) / 16)).map .freePage ++
    [.note (2 ^ 31 + min p (2 ^ 31 - 1))]

/-- It begins, makes its next piece, or ends. -/
def sltruncDue (s : State) (op : Nat) : Bool :=
  match slotOp s op with
  | some (o, a, .trunc _) =>
    slotStep s o a || (o.held.isEmpty && ((field? s o.vf a).map fun f => f.busy == some op && f.todo.isEmpty).getD false)
  | _ => false

def execSltruncApply (op : Nat) (s : State) : Host.Outcome State Fault Refusal :=
  match slotOp s op with
  | some (o, a, .trunc p) =>
    if !sltruncDue s op then .next s
    else
      match field? s o.vf a with
      | none => done (finishOp s o [] [])
      | some f =>
        if f.busy == some op then
          (if f.todo.isEmpty then done (closeCommand s o a [0]) else done (runJob s o f ⟨0, 0, 0, 0, 0⟩))
        else if p.toNat < f.cursor then done (closeCommand s o a [1])
        else done (updField s o.vf a fun f => { f with busy := some op, todo := truncJobs f.n p.toNat })
  | _ => .next s

/-! ### SLREAD (R222) -/

def slreadDue (s : State) (op : Nat) : Bool :=
  match slotOp s op with
  | some (o, a, .read _ _) =>
    o.held.isEmpty && slotTurn s o a && (match field? s o.vf a with | some f => f.busy.isNone | none => true)
  | _ => false

def Run.answer (r : Run) (sel : SlSel) (slot : Nat) : List Word × Run :=
  let out := ([0xFFFFFFFF#32, 0xFFFFFFFF#32], r)
  match sel with
  | .cur => ([word32 r.f.cursor, word32 r.f.passes], r)
  | .cnt => ([word32 r.f.nfinal, word32 r.f.late], r)
  | .st => ([word32 r.f.logn, r.f.status], r)
  | .tok =>
    if r.f.n ≤ slot then out
    else
      let (st, r) := r.st slot
      let (tok, r) := r.word .tok slot
      ([word32 st, word32 tok], r)
  | .val =>
    if r.f.n ≤ slot then out
    else
      let (k, r) := r.word .conf (slot / 2)
      let (v, r) := r.word .valid (slot / 32)
      ([word32 (k / 2 ^ (16 * (slot % 2)) % 2 ^ 16), word32 (boolBit (v.testBit (slot % 32)))], r)

def execSlreadAnswer (op : Nat) (s : State) : Host.Outcome State Fault Refusal :=
  match slotOp s op with
  | some (o, a, .read sel slot) =>
    if !slreadDue s op then .next s
    else
      match field? s o.vf a with
      | none => done (finishOp s o [] [])
      | some f =>
        done (withLooks s o (fun s =>
          let (v, r) := Run.answer { s := s, f := f, o := o } sel slot.toNat
          match r.err with
          | some (acc, ⟨.notPresent pg, va⟩) => holdOp r.s o pg va acc 1
          | some (_, ⟨.trap code, va⟩) => closeCommand (trapOwner r.s o code va) o a []
          | none => closeCommand r.s o a v))
  | _ => .next s

end Sys2Proof.Machine
end

