-- ==== Sys2Proof/Machine/Coll.lean ====
section
/-! DEFINITION. Collectives (08 R228–R230, 21 R373). An instance is named by the operation of its earliest member and is
performed whole at its completion event; a member whose access fails traps, and the others go on without it. The ranks of
other devices are the fabric's: none of them joins here, and an instance that waits for one ends when its device is lost
(log 20). -/

namespace Sys2Proof.Machine

/-! ### Issue -/

/-- A descriptor as a member's command (Table 8-14). -/
def collOf (c : Ctx) (x : Bool) (kind : Nat) (op : CredOp) (ty : CredTy) (sy : Bool) (a : DWord) (bs : List Byte) (seq : Nat) : Coll :=
  let f := bitsN (ofBytes bs)
  { kind := kind, comm := if x then .explicit c.vf (f 128 32) else .launch c.l.lid, rank := if x then f 160 32 else c.b.idx,
    nranks := if x then f 192 32 else c.l.rcd.nblk, count := f 224 32, root := f 256 32, tag := f 288 32,
    src := BitVec.ofNat 64 (f 0 64), dst := BitVec.ofNat 64 (f 64 64), desc := a, op := op, ty := ty, sy := sy, det := c.l.rcd.det,
    seq := seq }

def seqOf (s : State) (comm : Comm) (rank : Nat) : Nat :=
  ((s.collSeq.find? fun x => x.1 == comm && x.2.1 == rank).map fun x => x.2.2).getD 0
def bumpSeq (s : State) (comm : Comm) (rank : Nat) : State :=
  let n := seqOf s comm rank
  { s with collSeq := (comm, rank, n + 1) :: s.collSeq.filter fun x => !(x.1 == comm && x.2.1 == rank) }

def collIssue (f : Fields) (p : Pre) (a : Reg) (off : BitVec 24) (x : Bool) (kind : Nat) (op : CredOp) (ty : CredTy) (sy : Bool)
    (s : State) : Host.Outcome State Fault Refusal :=
  if counterFull s p .co then stallCourse s
  else
    command f p (fun c t => baseOff a off c.l t) 1 64 (fun c t bs s =>
      let s := releaseBy s t.uid c.core c.vf (if sy then .sy else .dv)
      let k := collOf c x kind op ty sy (baseOff a off c.l t) bs 0
      let k : Coll := { k with seq := seqOf s k.comm k.rank }
      let s := if kind < 4 then bumpSeq s k.comm k.rank else s
      { s := startOp s t c.core c.vf c.pc .co 0 fun _ => .coll k }) s

def execCred (p : Pre) (a : Reg) (off : BitVec 24) (op : CredOp) (ty : CredTy) (sy x : Bool) (s : State) :=
  collIssue (enCred 0x136 p a off op ty sy x) p a off x 0 op ty sy s
def execCgath (p : Pre) (a : Reg) (off : BitVec 24) (sy x : Bool) (s : State) :=
  collIssue (enColl 0x137 p a off sy x) p a off x 1 .add .s32 sy s
def execCbcast (p : Pre) (a : Reg) (off : BitVec 24) (sy x : Bool) (s : State) :=
  collIssue (enColl 0x138 p a off sy x) p a off x 2 .add .s32 sy s
def execCscat (p : Pre) (a : Reg) (off : BitVec 24) (sy x : Bool) (s : State) :=
  collIssue (enColl 0x139 p a off sy x) p a off x 3 .add .s32 sy s
def execCsend (p : Pre) (a : Reg) (off : BitVec 24) (sy x : Bool) (s : State) :=
  collIssue (enColl 0x13A p a off sy x) p a off x 4 .add .s32 sy s
def execCrecv (p : Pre) (a : Reg) (off : BitVec 24) (sy x : Bool) (s : State) :=
  collIssue (enColl 0x13B p a off sy x) p a off x 5 .add .s32 sy s

/-! ### The fabric rank table (R373) -/

/-- First rank, ranks and node of every entry of a communicator. -/
def rankEntries (s : State) (comm : Nat) : List (Nat × Nat × Nat) :=
  (List.range 1024).filterMap fun i =>
    let f := barField s 0 (0x70000 + 16 * i)
    if f 104 1 = 1 && f 0 32 = comm then some (f 32 32, f 64 32, f 96 8) else none

def entriesOf (s : State) (comm : Nat) : List (Nat × Nat × Nat) := (rankEntries s comm).mergeSort fun x y => decide (x.1 ≤ y.1)
/-- An entry's node: this device or an enabled peer. -/
def nodeGood (s : State) (node : Nat) : Bool :=
  node == 0xFF || (decide (node < 128) && barField s 0 (0x50000 + 16 * node) 32 1 == 1)
/-- Are the ranks from `next` to `n - 1` covered once each by the entries in ascending first rank? -/
def covers (n : Nat) : List (Nat × Nat × Nat) → Nat → Bool
  | [], next => decide (n ≤ next)
  | (r0, k, _) :: es, next => if k = 0 || n ≤ r0 then covers n es next else r0 == next && covers n es (next + k)

/-- The node that holds a rank. -/
def nodeOf (s : State) (comm rank : Nat) : Option Nat :=
  ((entriesOf s comm).find? fun e => decide (e.1 ≤ rank) && decide (rank < e.1 + e.2.1)).map fun e => e.2.2

/-- Is the member's rank table fault-free, and its own rank this device's? Only an explicit communicator under .sy has one
(log 20). -/
def tableGood (s : State) (k : Coll) : Bool :=
  match k.comm, k.sy with
  | .explicit _ id, true =>
    (entriesOf s id).all (fun e => nodeGood s e.2.2) && covers k.nranks (entriesOf s id) 0 &&
      (decide (k.nranks ≤ k.rank) || nodeOf s id k.rank == some 0xFF)
  | _, _ => true

/-- R371, R372: a peer is lost when it cannot be reached or no port is up. -/
def peerLost (s : State) (node : Nat) : Bool := s.peersDown.contains node || !s.ports.any (fun p => decide (p < 36))
/-- Has a fabric failure lost a member (R230)? Of a CSEND or CRECV that is the peer alone. -/
def memberLost (s : State) (k : Coll) : Bool :=
  match k.comm, k.sy with
  | .explicit _ id, true =>
    if 4 ≤ k.kind then ((nodeOf s id k.root).map fun node => node != 0xFF && peerLost s node).getD false
    else (entriesOf s id).any fun e => decide (e.1 < k.nranks) && e.2.1 != 0 && e.2.2 != 0xFF && peerLost s e.2.2
  | _, _ => false

/-! ### Instances (R229) -/

def collOp? (o : EOp) : Option Coll :=
  match o.work with
  | .coll k => some k
  | _ => none
def collOps (s : State) : List (EOp × Coll) := s.ops.filterMap fun o => (collOp? o).map fun k => (o, k)

/-- The other end of a point-to-point command: (communicator, sender, receiver, tag). -/
def pairKey (k : Coll) : Comm × Nat × Nat × Nat :=
  if k.kind = 4 then (k.comm, k.rank, k.root, k.tag) else (k.comm, k.root, k.rank, k.tag)

/-- The first unmatched send and receive of a key, once there are both. -/
def pairOf (s : State) (k : Coll) : List (EOp × Coll) :=
  let mine := (collOps s).filter fun x => decide (4 ≤ x.2.kind) && pairKey x.2 == pairKey k
  match mine.find? (fun x => x.2.kind == 4), mine.find? (fun x => x.2.kind == 5) with
  | some a, some b => if a.1.id < b.1.id then [a, b] else [b, a]
  | _, _ => []

/-- The members that have joined `k`'s instance. -/
def joined (s : State) (k : Coll) : List (EOp × Coll) :=
  (collOps s).filter fun x => decide (x.2.kind < 4) && x.2.comm == k.comm && x.2.seq == k.seq

def badRank (k : Coll) : Bool :=
  decide (k.nranks = 0) || decide (k.nranks ≤ k.rank) || ((k.kind == 2 || k.kind == 3 || decide (4 ≤ k.kind)) && decide (k.nranks ≤ k.root))

/-- Members and status of the instance whose earliest member is `op`, when it can end: 0 to be performed, else the
status that every member receives. -/
def instanceOf (s : State) (op : Nat) : Option (List (EOp × Coll) × Nat) :=
  match (s.op? op).bind collOp? with
  | none => none
  | some k =>
    let self := (collOps s).filter fun x => x.1.id == op
    let alone := !tableGood s k || (decide (4 ≤ k.kind) && badRank k) || k.nranks == 0
    if alone then some (self, 2)
    else
      let ms := if k.kind < 4 then joined s k else pairOf s k
      let first := (ms.head?.map fun x => x.1.id) == some op
      if memberLost s k then some ((if ms.isEmpty then self else ms), 3)
      else if !first || (decide (k.kind < 4) && decide (ms.length < k.nranks)) then none
      else if ms.any (fun x => badRank x.2) || (decide (k.kind < 4) && !(ms.map fun x => x.2.rank).Nodup) then some (ms, 2)
      else
        let same (y : Coll) : Bool :=
          if k.kind < 4 then
            y.kind == k.kind && y.count == k.count && y.op == k.op && y.ty == k.ty && y.nranks == k.nranks && y.root == k.root
          else y.count == k.count && y.nranks == k.nranks
        some (ms, if ms.all fun x => same x.2 then 0 else 1)

def collectiveDue (s : State) (op : Nat) : Bool :=
  match instanceOf s op with
  | some (ms, _) => ms.all fun x => x.1.held.isEmpty
  | none => false

/-! ### The operations (R230) -/

def credBytes : CredTy → Nat
  | .s32 => 4 | .n32 => 4 | .s64 => 8 | .f32 => 4 | .f64 => 8 | .bf16 => 2
def credFmt : CredTy → Option Fmt
  | .f32 => some f32 | .f64 => some f64 | .bf16 => some bf16 | _ => none
def credSigned : CredTy → Bool
  | .n32 => false | _ => true

def credInt (op : CredOp) (signed : Bool) (n x y : Nat) : Nat :=
  let v (z : Nat) : Int := if signed && decide (2 ^ (8 * n - 1) ≤ z) then (z : Int) - 2 ^ (8 * n) else z
  match op with
  | .add => (x + y) % 2 ^ (8 * n)
  | .min => if v x ≤ v y then x else y
  | .max => if v x ≤ v y then y else x
  | .and => Nat.land x y
  | .or => Nat.lor x y
  | .xor => Nat.xor x y
def credFn (op : CredOp) (ty : CredTy) (x y : Nat) : Nat :=
  match credFmt ty with
  | none => credInt op (credSigned ty) (credBytes ty) x y
  | some m =>
    match op with
    | .min => (fMinMax m false false x y).1
    | .max => (fMinMax m true false x y).1
    | _ => (fAdd m .rn false x y).1

/-- The canonical tree: an absent leaf passes its sibling's value up. -/
def treeFold (f : Nat → Nat → Nat) : Nat → List Nat → Nat
  | 0, xs => xs.headD 0
  | k + 1, xs =>
    let rec pairs : List Nat → List Nat
      | x :: y :: r => f x y :: pairs r
      | r => r
    treeFold f k (pairs xs)

/-- An order of the engine's own: two values at a time. -/
def freeFold (f : Nat → Nat → Nat) : Nat → List Nat → State → Nat × State
  | 0, xs, s => (xs.headD 0, s)
  | k + 1, xs, s =>
    let (i, s) := draw s xs.length
    match takeOut i xs with
    | none => (xs.headD 0, s)
    | some (x, rest) =>
      if rest.isEmpty then (x, s)
      else
        let (j, s) := draw s rest.length
        match takeOut j rest with
        | none => (x, s)
        | some (y, rest) => freeFold f k (f x y :: rest) s

/-- CRED's elements, one after the other. -/
def credElems (k : Coll) (srcs : List (List Byte)) : List Nat → State → List Byte × State
  | [], s => ([], s)
  | i :: is, s =>
    let n := credBytes k.ty
    let xs := srcs.map fun b => natAt b (i * n) n
    let (v, s) := if k.det || (credFmt k.ty).isNone then (treeFold (credFn k.op k.ty) (Nat.log2 xs.length + 1) xs, s)
                  else freeFold (credFn k.op k.ty) xs.length xs s
    let (bs, s) := credElems k srcs is s
    (bytesOf n v ++ bs, s)

/-- What a member contributes: its source array. -/
def collReads (k : Coll) : DWord × Nat :=
  match k.kind with
  | 0 => (k.src, k.count * credBytes k.ty)
  | 1 => (k.src, k.count)
  | 2 => (k.src, if k.rank = k.root then k.count else 0)
  | 3 => (k.src, if k.rank = k.root then k.count * k.nranks else 0)
  | 4 => (k.src, k.count)
  | _ => (k.src, 0)

/-- What a member's dst receives, from the sources by rank. -/
def collResult (k : Coll) (ranked : List (Nat × List Byte)) (red : List Byte) : List Byte :=
  let at_ (r : Nat) : List Byte := ((ranked.find? fun x => x.1 == r).map Prod.snd).getD []
  match k.kind with
  | 0 => red
  | 1 => (List.range k.nranks).flatMap at_
  | 2 => at_ k.root
  | 3 => ((at_ k.root).drop (k.rank * k.count)).take k.count
  | 5 => at_ k.root
  | _ => []

/-- A trap that a member's access raises: whose, its code and its address. -/
abbrev CollTrap := EOp × BitVec 8 × DWord

/-- A member's access by `go`, unless one of its pages was denied (its thread has the trap, or is to have none): what it
gives, no result for a failed one, with the trap it raises; or the page it waits for. -/
def collAccess {α : Type} (o : EOp) (ps : List (DWord × Nat)) (go : State → Except Trip α × State) (s : State) :
    Except Trip (Option α × List CollTrap) × State :=
  if ps.any fun p => o.denied.contains (pageOf p.1) then (.ok (none, []), s)
  else
    match go s with
    | (.ok x, s) => (.ok (some x, []), s)
    | (.error ⟨.trap code, va⟩, s) => (.ok (none, [(o, code, va)]), s)
    | (.error e, s) => (.error e, s)

/-- The sources by rank; a contribution that could not be read is free (log 20). -/
def collSources : List (EOp × Coll) → State → Except (EOp × Trip) (List (Nat × List Byte) × List CollTrap) × State
  | [], s => (.ok ([], []), s)
  | (o, k) :: ms, s =>
    let (va, n) := collReads k
    match collAccess o (piecesOf va n) (fun s => looking s o fun s => engRead s (s.block? o.bid) o.vf va n) s with
    | (.error e, s) => (.error (o, e), s)
    | (.ok (bs, ts), s) =>
      let (bs, s) := match bs with
        | some bs => (bs, s)
        | none => freeBytes s n
      match collSources ms s with
      | (.error e, s) => (.error e, s)
      | (.ok (r, us), s) => (.ok ((k.rank, bs) :: r, ts ++ us), s)

/-- Writes of the members resolved; those that fail are left out. -/
def collTargets : List (EOp × DWord × List Byte) → State → Except (EOp × Trip) (List (EOp × List (Nat × Nat) × List Byte) × List CollTrap) × State
  | [], s => (.ok ([], []), s)
  | (o, va, bs) :: ws, s =>
    let ps := piecesOf va bs.length
    match collAccess o ps (engResolve (s.block? o.bid) o.vf .engineWrite ps) s with
    | (.error e, s) => (.error (o, e), s)
    | (.ok (ks, ts), s) =>
      match collTargets ws s with
      | (.error e, s) => (.error e, s)
      | (.ok (r, us), s) => (.ok ((ks.map fun ks => (o, ks, bs)).toList ++ r, ts ++ us), s)

/-- What each member's dst is to receive, and the traps of the reads. -/
def collPlan (ms : List (EOp × Coll)) (s : State) : Except (EOp × Trip) (List (EOp × DWord × List Byte) × List CollTrap) × State :=
  match collSources ms s with
  | (.error e, s) => (.error e, s)
  | (.ok (srcs, ts), s) =>
    let ranked := (ms.zip srcs).filterMap fun x => if x.1.2.kind = 5 then none else some x.2
    let sorted := ranked.mergeSort fun x y => decide (x.1 ≤ y.1)
    let (red, s) := match ms.head? with
      | some (_, k) => if k.kind = 0 then credElems k (sorted.map Prod.snd) (List.range k.count) s else ([], s)
      | none => ([], s)
    (.ok (ms.map (fun m => (m.1, m.2.dst, collResult m.2 ranked red)), ts), s)

def runCollective (s : State) (ms : List (EOp × Coll)) (stat : Nat) : State :=
  match (if stat ≠ 0 then (.ok ([], []), s) else collPlan ms s) with
  | (.error x, s) => tripOp s x.1 .engineRead x.2
  | (.ok (ws, ts), s) =>
    match collTargets (ws ++ ms.map fun m => (m.1, addrAt m.2.desc 56, bytesOf 8 stat)) s with
    | (.error x, s) => tripOp s x.1 .engineWrite x.2
    | (.ok (ks, us), s) =>
      let s := ks.foldl (fun s x => writeKeys s x.1.lid x.1.vf true x.2.1 x.2.2) s
      let s := (ts ++ us).foldl (fun s x => trapOwner s x.1 x.2.1 x.2.2) s
      ms.foldl (fun s m => finishOp s m.1 [] []) s

/-- A page of a member is not to be mapped: its instance goes on without the access (R198, log 20). -/
def denyColl (s : State) (o : EOp) (page : Nat) : State :=
  updOp s o.id fun o => { o with held := o.held.filter (· != page), denied := page :: o.denied }

def execCollectiveInstanceComplete (inst : Nat) (s : State) : Host.Outcome State Fault Refusal :=
  match instanceOf s inst with
  | none => .next s
  | some (ms, stat) => if ms.all fun x => x.1.held.isEmpty then done (runCollective s ms stat) else .next s

end Sys2Proof.Machine
end

