-- ==== Sys2Proof/Machine/Matrix.lean ====
section
/-! DEFINITION. The matrix sequencer (09): its front end, which reads the stream and enqueues operations, its back end,
which performs them in stream order while earlier ones are still to complete (R234), the drain chain, the weight context, and the two thread
instructions that meet it (08 R231, R232). -/

namespace Sys2Proof.Machine

/-! ### MPOST and MRECV (08 R231, R232) -/

def execMpost (p : Pre) (a : Reg) (n : BitVec 4) (s : State) :=
  if counterFull s p .mx then stallCourse s
  else
    engCommand (enMpost 0x13D p a n) p (fun c t s =>
      if ((s.block? c.b.bid).bind Block.stream).isNone then laneTrap s 0x01
      else
        let id := s.nextId
        let data := (List.range n.toNat).map fun i => readReg c.l t (a + BitVec.ofNat 8 i)
        let s := startOp s t c.core c.vf c.pc .mx 0 fun _ => .mpost
        { s := updBlock s c.b.bid fun b => { b with params := b.params ++ [⟨id, data⟩] } }) s

/-- An active lane of MRECV: its result awaited, its operation counted. -/
def recvLane (c : Ctx) (d pd : Nat) (t : Thread) (s : State) : Nat × State :=
  let (pid, s) := awaitResult s t.uid [d, d + 1] (if pd < 7 then [pd] else [])
  let id := s.nextId
  let s := startOp s t c.core c.vf c.pc .mx pid fun _ => .mrecv
  (pid, updThread s t.uid fun t => { t with pend := t.pend.map fun q => if q.id == pid then { q with op := some id } else q })

def execMrecv (p : Pre) (d : Reg) (cw : BitVec 2) (pd : BitVec 3) (s : State) :=
  if counterFull s p .mx then stallCourse s
  else
    issue (enMrecv 0x13C p d cw pd) p (fun c s =>
      let ts := c.uids.filterMap s.thread?
      let s := ts.foldl (fun s t =>
        let act := c.act.contains t.uid
        let (pid, s) := if act then recvLane c d.toNat pd.toNat t s else (0, s)
        xArrive s t.bid t.gang c.pc (.mrecv t.gang) d.toNat pd.toNat (waitBound cw)
          { uid := t.uid, lane := t.lane, active := act, pend := pid }) s
      { s := (ts.map Thread.gang).dedup.foldl (fun s g => xRecheck s c.b.bid g) s }) s

/-! ### The front end (R233–R235, R253) -/

def updStream (s : State) (bid : Nat) (f : Stream → Stream) : State :=
  updBlock s bid fun b => { b with stream := b.stream.map f }
def State.stream? (s : State) (bid : Nat) : Option Stream := (s.block? bid).bind Block.stream

/-- Address of the word the front end stands at. -/
def Stream.wordPc (x : Stream) : DWord := x.pc + 8 + BitVec.ofNat 64 (16 * x.idx)
def Stream.len (x : Stream) : Nat := (Header.of x.hword).length
def Stream.nextHeader (x : Stream) : DWord := x.pc + 8 + BitVec.ofNat 64 (16 * x.len)
def Stream.isLast (x : Stream) : Bool := x.idx + 1 == x.len
def Stream.goto (x : Stream) (H : DWord) : Stream := { x with pc := H, idx := 0, fetched := false }
def Stream.next (x : Stream) : Stream := if x.isLast then x.goto x.nextHeader else { x with idx := x.idx + 1 }

/-- The back end has completed everything enqueued. -/
def Stream.idle (x : Stream) : Bool := x.queue.isEmpty && x.running.isEmpty

/-- A permit returns once its iteration has been left and no operation of it is outstanding (R235). -/
def Stream.sweep (x : Stream) : Stream :=
  let used (i : Nat) : Bool := (x.queue ++ x.running.map MRun.op).any fun m => m.permits.contains i
  { x with permits := x.permits.filter fun p => !p.closed || used p.id }
def Stream.closePermit (x : Stream) (i : Nat) : Stream :=
  Stream.sweep { x with permits := x.permits.map fun p => if p.id == i then { p with closed := true } else p }

/-- The start of an iteration: it takes a free permit, or waits for one (R235). A pre-empted stream stops here after an
MNEXT (R255). -/
def grantPermit (s : State) (bid : Nat) : State :=
  match s.stream? bid with
  | none => s
  | some x =>
    let again := (x.loops.getLast?.map fun l => l.lc != 0).getD false
    if 8 ≤ x.permits.length || (x.pausing && again) then updStream s bid fun x => { x with wait := .permit }
    else
      let (id, s) := fresh s
      let give (x : Stream) : Stream :=
        { x with wait := .none, permits := x.permits ++ [⟨id, false⟩],
                 loops := x.loops.dropLast ++ (x.loops.getLast?.map fun l => { l with permit := id }).toList }
      updStream s bid give

/-- The stream ends (R251–R253). -/
def endStream (s : State) (bid : Nat) : State :=
  let fin (x : Stream) : Stream := { x with ended := true, wait := .none, loops := [], permits := [] }
  checkBlock (streamIsOver (updStream s bid fin) bid) bid

/-- The meaning of a stream word: `body` runs in the front end of the stream that has fetched it. In thread code it is an
illegal instruction (03 R85). -/
def streamWord (body : Block → Stream → State → State) (s : State) : Host.Outcome State Fault Refusal :=
  match s.cur with
  | .course _ => trapCourse 0x01 s
  | .stream bid =>
    let s := { s with cur := .none }
    match s.block? bid with
    | none => done s
    | some b =>
      match b.stream with
      | none => done s
      | some x => done (body b x (updStream s bid fun x => { x with lastFetch := some s.clock }))
  | .none => .next s

def ctxOf (s : State) (quad : Nat) : WCtx := (s.wctx.find? fun w => w.quad == quad).getD { quad := quad }
def setCtx (s : State) (w : WCtx) : State := { s with wctx := s.wctx.filter (fun y => y.quad != w.quad) ++ [w] }

def MOp.code (m : MOp) : Nat := m.f.op.toNat
/-- The operation uses the weight context (R254). -/
def MOp.weights (m : MOp) : Bool := decide (m.code ≤ 0x193) || m.code == 0x198

/-- The back end has reached the operation at the head of the queue: it asks for the weight context, or for its turn on
the drain path (R254). -/
def reach (s : State) (bid : Nat) : State :=
  match s.block? bid with
  | none => s
  | some b =>
    match b.stream.bind fun x => x.queue.head?.map fun m => (x, m) with
    | none => s
    | some (x, m) =>
      let w := ctxOf s (coreQuad b.core)
      if m.weights then
        (if w.holder == some bid || w.reqs.any (fun r => r.bid == bid) then s
         else setCtx s { w with reqs := w.reqs ++ [⟨bid, s.clock, false⟩] })
      else if onDrainPath m && decide (w.path.count bid < (if holdsPath x then 2 else 1)) then setCtx s { w with path := w.path ++ [bid] }
      else s

/-- The next parameter record is taken, and its mx operation completes (08 R231). -/
def takeParam (s : State) (b : Block) (q : Param) : State :=
  let s := updBlock s b.bid fun b => { b with params := b.params.filter fun y => y.op != q.op }
  match s.op? q.op with
  | some o => finishOp s o [] []
  | none => s

/-- An operation is placed in the block's queue of 64; a full queue holds the front end (R234). `good` is what the
encoding still asks of the word; `par` whether it takes a parameter record, which the front end waits for. -/
def enqueue (f : Fields) (good par : Bool) : State → Host.Outcome State Fault Refusal :=
  streamWord fun b x s =>
    if !good then stopSequencer s b.bid 0x01 x.wordPc 0
    else if 64 ≤ x.queue.length then s
    else
      let put (data : List Word) (s : State) : State :=
        let m : MOp := { f := f, pc := x.wordPc, lcs := x.loops.map Loop.lc, permits := x.loops.map Loop.permit, param := data }
        reach (updStream s b.bid fun x => { x.next with queue := x.queue ++ [m] }) b.bid
      if !par then put [] s
      else
        match b.params with
        | [] => updStream s b.bid fun x => { x with wait := .param }
        | q :: _ => put q.data (takeParam s b q)

def execMldwBf16 (a c e : BitVec 8) (r j : BitVec 2) (rel : Bool) (s : State) := enqueue (enMldw 0x180 a c e r j rel) true false s
def execMldwFp16 (a c e : BitVec 8) (r j : BitVec 2) (rel : Bool) (s : State) := enqueue (enMldw 0x181 a c e r j rel) true false s
def execMldwE4m3 (a c e : BitVec 8) (r j : BitVec 2) (rel : Bool) (s : State) := enqueue (enMldw 0x182 a c e r j rel) true false s
def execMldwE5m2 (a c e : BitVec 8) (r j : BitVec 2) (rel : Bool) (s : State) := enqueue (enMldw 0x183 a c e r j rel) true false s
def execMldwE2m3 (a c e : BitVec 8) (r j : BitVec 2) (rel : Bool) (s : State) := enqueue (enMldw 0x184 a c e r j rel) true false s
def execMldwE3m2 (a c e : BitVec 8) (r j : BitVec 2) (rel : Bool) (s : State) := enqueue (enMldw 0x185 a c e r j rel) true false s
def execMldwE2m1 (a c e : BitVec 8) (r j : BitVec 2) (rel : Bool) (s : State) := enqueue (enMldw 0x186 a c e r j rel) true false s
def execMldwI8 (a c e : BitVec 8) (r j : BitVec 2) (rel : Bool) (s : State) := enqueue (enMldw 0x187 a c e r j rel) true false s
def execMldwT2 (a c e : BitVec 8) (r j : BitVec 2) (rel : Bool) (s : State) := enqueue (enMldw 0x188 a c e r j rel) true false s
def execMldwF64 (a c e : BitVec 8) (r j : BitVec 2) (rel : Bool) (s : State) := enqueue (enMldw 0x189 a c e r j rel) true false s
def execMstrmBf16 (d a c e : BitVec 8) (r j : BitVec 2) (rel : Bool) (m0 : BitVec 8) (s : State) :=
  enqueue (enMstrm 0x18A d a c e r j rel m0) true false s
def execMstrmFp16 (d a c e : BitVec 8) (r j : BitVec 2) (rel : Bool) (m0 : BitVec 8) (s : State) :=
  enqueue (enMstrm 0x18B d a c e r j rel m0) true false s
def execMstrmE4m3 (d a c e : BitVec 8) (r j : BitVec 2) (rel : Bool) (m0 : BitVec 8) (s : State) :=
  enqueue (enMstrm 0x18C d a c e r j rel m0) true false s
def execMstrmE5m2 (d a c e : BitVec 8) (r j : BitVec 2) (rel : Bool) (m0 : BitVec 8) (s : State) :=
  enqueue (enMstrm 0x18D d a c e r j rel m0) true false s
def execMstrmE2m3 (d a c e : BitVec 8) (r j : BitVec 2) (rel : Bool) (m0 : BitVec 8) (s : State) :=
  enqueue (enMstrm 0x18E d a c e r j rel m0) true false s
def execMstrmE3m2 (d a c e : BitVec 8) (r j : BitVec 2) (rel : Bool) (m0 : BitVec 8) (s : State) :=
  enqueue (enMstrm 0x18F d a c e r j rel m0) true false s
def execMstrmE2m1 (d a c e : BitVec 8) (r j : BitVec 2) (rel : Bool) (m0 : BitVec 8) (s : State) :=
  enqueue (enMstrm 0x190 d a c e r j rel m0) true false s
def execMstrmI8 (d a c e : BitVec 8) (r j : BitVec 2) (rel : Bool) (m0 : BitVec 8) (s : State) :=
  enqueue (enMstrm 0x191 d a c e r j rel m0) true false s
def execMstrmF64 (d a c e : BitVec 8) (r j : BitVec 2) (rel : Bool) (m0 : BitVec 8) (rm : Rm) (s : State) :=
  enqueue (enMstrmF 0x192 d a c e r j rel m0 rm) true false s
def execMswap (s : State) := enqueue (enM0 0x193) true false s
/-- R244. -/
def execMzero (d m0 rows : BitVec 8) (s : State) :=
  enqueue (enMzero 0x194 d m0 rows) (decide (m0.toNat + rows.toNat + 1 ≤ 256)) false s
def execMdrain (d a : BitVec 8) (st : Stages) (z : Bool) (kind : MKind) (m0 : BitVec 8) (r j : BitVec 2) (s : State) :=
  enqueue (enMdrain 0x195 d a st z kind m0 r j) true false s
def execMdrainl (d : BitVec 8) (g : BitVec 5) (st : Stages) (z : Bool) (kind : MKind) (m0 rows : BitVec 8) (beats : BitVec 3)
    (s : State) :=
  enqueue (enMdrainL 0x196 d g st z kind m0 rows beats) (decide (m0.toNat + rows.toNat + 1 ≤ 256)) false s
def execMchain (a b : BitVec 8) (fmt : ChainFmt) (bias table : Bool) (s : State) :=
  enqueue (enMchain 0x197 a b fmt bias table) true false s
/-- G is 1 to 8 and G × S at most 256 (R249). -/
def execMgrp (d a b c : BitVec 8) (st : Stages) (g : BitVec 4) (sz : BitVec 8) (s : State) :=
  enqueue (enMgrp 0x198 d a b c st g sz)
    (decide (1 ≤ g.toNat) && decide (g.toNat ≤ 8) && decide (g.toNat * (sz.toNat + 1) ≤ 256)) true s
def execAsave (d : BitVec 8) (j : BitVec 2) (lc q : Bool) (off : BitVec 24) (s : State) :=
  enqueue (enAsave 0x199 d j lc q off) true q s
def execAload (d : BitVec 8) (j : BitVec 2) (lc q : Bool) (off : BitVec 24) (s : State) :=
  enqueue (enAsave 0x19A d j lc q off) true q s
def countRange (c : BitVec 11) : Bool := decide (1 ≤ c.toNat) && decide (c.toNat ≤ 1024)
def execMbara (b : BitVec 4) (c : BitVec 11) (s : State) := enqueue (enMbar 0x19B b c) (countRange c) false s

/-- The sequencer's one arrival at a barrier (R251): none for a count mismatch, also at a second arrival in one phase, where
R126's order would make no check and Table 9-1 gives 0x0A (DESIGN CHOICE, log 101). -/
def seqArrive (s : State) (bid n c : Nat) : Option State :=
  match s.block? bid with
  | none => none
  | some b =>
    let x := getBarrier b n
    if x.seq != 0 then (if x.expected == c then some s else none)
    else if x.arrived.isEmpty || x.expected == c then
      some (checkBarrier (setBarrier s bid n { x with expected := c, seq := 1 }) bid n)
    else none

/-- MBARW runs in the front end: it arrives, and waits for the phase with an acquire at quad scope (R251). While it waits
the weight context is given up (R254). -/
def execMbarw (b : BitVec 4) (c : BitVec 11) (s : State) :=
  streamWord (fun blk x s =>
    if !countRange c then stopSequencer s blk.bid 0x01 x.wordPc 0
    else
      let old := (getBarrier blk b.toNat).phase
      -- the wait stands before the arrival, which may end it at once
      let s := updStream s blk.bid fun x => { x.next with wait := .bar b.toNat old }
      match seqArrive s blk.bid b.toNat c.toNat with
      | none => stopSequencer s blk.bid 0x0A x.wordPc 0
      | some s =>
        let waits := ((s.stream? blk.bid).map fun x => x.wait != .none).getD false
        if waits then
          reach { s with wctx := s.wctx.map fun w => { w with holder := if w.holder == some blk.bid then none else w.holder } } blk.bid
        else s) s

/-- MLOOP (R253): a count of 0 skips to the header after the matching MNEXT. -/
def execMloop (q : Bool) (n : BitVec 24) (s : State) :=
  streamWord (fun b x s =>
    if !x.isLast || 4 ≤ x.loops.length || (!q && 0x800000 ≤ n.toNat) then stopSequencer s b.bid 0x01 x.wordPc 0
    else
      let start (count : Nat) (s : State) : State :=
        if count = 0 then updStream s b.bid fun x => { x.next with skip := 1 }
        else
          grantPermit (updStream s b.bid fun x =>
            { x.next with loops := x.loops ++ [⟨0, count, x.nextHeader, 0⟩] }) b.bid
      if !q then start n.toNat s
      else
        match b.params with
        | [] => updStream s b.bid fun x => { x with wait := .param }
        | r :: _ => start (r.data.headD 0).toNat (takeParam s b r)) s

/-- MNEXT (R253), where a holder of 2,048 clocks gives the weight context up to a block that waits for it (R254). -/
def execMnext (s : State) :=
  streamWord (fun b x s =>
    match x.loops.getLast? with
    | none => stopSequencer s b.bid 0x01 x.wordPc 0
    | some l =>
      if !x.isLast then stopSequencer s b.bid 0x01 x.wordPc 0
      else
        let w := ctxOf s (coreQuad b.core)
        let s := if w.holder == some b.bid && !w.reqs.isEmpty && decide (w.since + 2048 ≤ s.clock) then reach (setCtx s { w with holder := none }) b.bid else s
        let s := updStream s b.bid fun x => x.closePermit l.permit
        if l.lc + 1 < l.count then
          let again : Loop := { l with lc := l.lc + 1 }
          grantPermit (updStream s b.bid fun x => { x.goto l.body with loops := x.loops.dropLast ++ [again] }) b.bid
        else updStream s b.bid fun x => { x.next with loops := x.loops.dropLast }) s

/-- MEND stops fetching; the stream ends once the back end has completed (R253). -/
def execMend (s : State) :=
  streamWord (fun b _ s =>
    let fin (x : Stream) : Stream :=
      Stream.sweep { x with wait := .finish, loops := [], permits := x.permits.map fun p => { p with closed := true } }
    let s := updStream s b.bid fin
    if ((s.stream? b.bid).map Stream.idle).getD false then endStream s b.bid else s) s

/-! ### The front end's turn: once in each clock (R233) -/

/-- Has every thread of the block exited (R252)? -/
def allExited (s : State) (bid : Nat) : Bool := s.threads.all fun t => t.bid != bid || t.life == .exited

def streamDue (s : State) (bid : Nat) : Bool :=
  match s.block? bid with
  | none => false
  | some b =>
    match b.stream with
    | none => false
    | some x =>
      x.started && !x.ended && !x.stopped && b.res != .saved && x.heldPages.isEmpty && x.lastFetch != some s.clock &&
      (match x.wait with
        | .none => true
        | .permit => decide (x.permits.length < 8) && !(x.pausing && (x.loops.getLast?.map fun l => l.lc != 0).getD false)
        | .finish => x.idle
        | .bar _ _ => allExited s bid && x.idle
        | .param => !b.params.isEmpty || (allExited s bid && x.idle))

/-- A fetch for the word at `pc` failed at `a` (R238). A stream fetch at a non-canonical address stops with 0x03 and va 0: no
rule names its cause (DESIGN CHOICE, log 102). -/
def streamTrouble (s : State) (b : Block) (vf : Nat) (pc a : DWord) (t : Trouble) : State :=
  match t with
  | .notPresent pg =>
    askWalk (updStream s b.bid fun x => { x with heldPages := x.heldPages ++ [pg] }) vf pg .fetch (.stream b.bid)
  | .trap c => stopSequencer s b.bid (if c == 0x06 then 0x03 else c) pc (if c == 0x06 then 0 else a)

/-- While a loop is skipped, only the last word of each block counts: MLOOP and MNEXT nest (R253). A word skipped so has no
effect, a stop for an opcode outside the stream's (R85) included, which no rule says (DESIGN CHOICE, log 99). -/
def skipBlock (s : State) (b : Block) (vf : Nat) (x : Stream) : State :=
  let a := x.pc + 8 + BitVec.ofNat 64 (16 * (x.len - 1))
  match fetchWord s b.core vf a with
  | (.error (t, va), s) => streamTrouble s b vf a va t
  | (.ok w, s) =>
    let op := (Fields.unpack w).op
    let depth := if op == 0x19D then x.skip + 1 else if op == 0x19E then x.skip - 1 else x.skip
    updStream s b.bid fun x => { x.goto x.nextHeader with skip := depth }

/-- The front end's turn: it ends a wait, reads a header, or stands at a word that it is about to run. -/
def streamTurn (bid : Nat) (s : State) : State :=
  if !streamDue s bid then s
  else
    match s.block? bid with
    | none => s
    | some b =>
      match b.stream with
      | none => s
      | some x =>
        let s := updStream s bid fun x => { x with lastFetch := some s.clock }
        let vf := vfOf s b.lid
        match x.wait with
        | .permit => grantPermit s bid
        | .finish => endStream s bid
        | .bar _ _ => endStream s bid
        | .param =>
          if b.params.isEmpty then endStream s bid
          else { updStream s bid (fun x => { x with wait := .none }) with cur := .stream bid }
        | .none =>
          if !x.fetched then
            match fetchDword s b.core vf x.pc with
            | (.error t, s) => streamTrouble s b vf x.pc x.pc t
            | (.ok w, s) =>
              match (Header.of w).streamCheck with
              | some c => stopSequencer s bid (BitVec.ofNat 8 c) x.pc 0
              | none =>
                let s := updStream s bid fun x => { x with hword := w, fetched := true }
                if x.skip = 0 then { s with cur := .stream bid } else s
          else if x.skip ≠ 0 then skipBlock s b vf x
          else { s with cur := .stream bid }

/-- The word a stream's turn stands at, or what became of the stream when it could not be read. -/
def streamFetch (s : State) (bid : Nat) : Option (BitVec 128) × State :=
  match s.block? bid with
  | none => (none, { s with cur := .none })
  | some b =>
    match b.stream with
    | none => (none, { s with cur := .none })
    | some x =>
      match fetchWord s b.core (vfOf s b.lid) x.wordPc with
      | (.ok w, s) => (some w, s)
      | (.error (t, va), s) => (none, streamTrouble { s with cur := .none } b (vfOf s b.lid) x.wordPc va t)

/-- A word that is no stream instruction stops the sequencer (Table 9-1). -/
def streamBadWord (bid : Nat) (s : State) : Host.Outcome State Fault Refusal :=
  let s := { s with cur := .none }
  done (stopSequencer s bid 0x01 (((s.stream? bid).map Stream.wordPc).getD 0) 0)

/-! ### Element arithmetic of the array (04 R102–R105) -/

/-- The value of an element code by format code (Table 8-4); integer formats apart. -/
def elemVal : Nat → Nat → FVal
  | 0, x => bf16.decode x
  | 1, x => f16.decode x
  | 2, x => mxDecode .e4m3 x
  | 3, x => mxDecode .e5m2 x
  | 4, x => mxDecode .e2m3 x
  | 5, x => mxDecode .e3m2 x
  | 6, x => mxDecode .e2m1 x
  | 9, x => f64.decode x
  | _, x => f32.decode x
/-- The integer of an i8 or t2 code; the ternary code 0b10 reads as 0 (R96). -/
def elemInt (fmt x : Nat) : Int :=
  if fmt = 8 then (match x with | 1 => 1 | 3 => -1 | _ => 0) else (BitVec.ofNat 8 x).toInt

/-- R102. -/
def pairing (w a : Nat) : Bool :=
  (isMx w && isMx a) || (decide (w ≤ 1) && decide (a ≤ 1)) || (w == 7 && a == 7) || (w == 8 && a == 7) || (w == 9 && a == 9)

def infSign : FVal → Option Bool
  | .inf s => some s
  | _ => none

/-- The exact sum of finite values: an integer at weight 2^q. -/
def exactSum (q : Int) : List FVal → Int
  | [] => 0
  | .fin s m e :: vs => scaled s m e q + exactSum q vs
  | _ :: vs => exactSum q vs
def leastExp : List FVal → Int
  | [] => 0
  | .fin _ _ e :: vs => min e (leastExp vs)
  | _ :: vs => leastExp vs

/-- One block of R103. `sa`, `sb` are scale bytes, none for bf16 and fp16. -/
def floatBlock (acc : Nat) (xs ys : List FVal) (sa sb : Option Nat) : Nat :=
  let ps := List.zipWith mulV xs ys
  let vs := ps.filterMap id
  let infs := vs.filterMap infSign
  if xs.any FVal.isNan || ys.any FVal.isNan || sa == some 0xFF || sb == some 0xFF then f32.nan
  else if ps.any Option.isNone || (infs.contains true && infs.contains false) then f32.nan
  else
    match infs with
    | g :: _ => (f32.addV .rn (f32.decode acc) (.inf g)).1
    | [] =>
      let q := leastExp vs
      let t := exactSum q vs
      let e (b : Option Nat) : Int := match b with | some v => (v : Int) - 127 | none => 0
      (f32.addV .rn (f32.decode acc) (.fin (decide (t < 0)) t.natAbs (q + e sa + e sb))).1

def floatBlocks (fw fa : Nat) : Nat → Nat → Nat → List Nat → List Nat → List Nat → List Nat → Nat
  | 0, _, acc, _, _, _, _ => acc
  | n + 1, j, acc, ws, as, sw, sa =>
    let acc := floatBlock acc ((as.take 32).map (elemVal fa)) ((ws.take 32).map (elemVal fw)) sa[j]? sw[j]?
    floatBlocks fw fa n (j + 1) acc (ws.drop 32) (as.drop 32) sw sa

/-- R104: the blocks' sums, clamped one by one, and whether a clamp took place. -/
def intBlocks (fw : Nat) : Nat → Int → Bool → List Nat → List Nat → Int × Bool
  | 0, acc, c, _, _ => (acc, c)
  | n + 1, acc, c, ws, as =>
    let t := acc + (List.zipWith (fun w a => elemInt fw w * elemInt 7 a) (ws.take 32) (as.take 32)).sum
    let u := max (-(2 ^ 31 : Int)) (min (2 ^ 31 - 1) t)
    intBlocks fw n u (c || t != u) (ws.drop 32) (as.drop 32)

/-- R105. -/
def f64Dot (rm : Rm) (acc : Nat) (ws as : List Nat) : Nat :=
  (List.zip as ws).foldl (fun acc x => (f64.fma rm (f64.decode x.1) (f64.decode x.2) (f64.decode acc)).1) acc

def rmOf (f : Fields) : Rm := (Rm.of? f.rm).getD .rn

/-! ### Planes (R236) -/

def planeKey (d m n : Nat) : Nat := (256 * d + m) * 256 + n
def Stream.word (x : Stream) (d m n : Nat) : Word := x.planes.get (planeKey d m n)
def Stream.setWord (x : Stream) (d m n : Nat) (v : Word) : Stream := { x with planes := x.planes.set (planeKey d m n) v }
def Stream.zeroRow (x : Stream) (d m cols : Nat) : Stream :=
  let lo := planeKey d m 0
  { x with planes := x.planes.filter fun kv => !(decide (lo ≤ kv.1) && decide (kv.1 < lo + cols)) }

/-- One plane element updated from an activation row and a weight row; true when an int32 clamp took place. -/
def mulElem (x : Stream) (w : Weights) (fa d m n : Nat) (rm : Rm) (arow asc : List Nat) : Stream × Bool :=
  let wrow := w.elems.getD n []
  if fa = 9 then
    let acc := (x.word d m (2 * n)).toNat + (x.word d m (2 * n + 1)).toNat * 2 ^ 32
    let v : DWord := BitVec.ofNat 64 (f64Dot rm acc wrow arow)
    ((x.setWord d m (2 * n) (pairLo v)).setWord d m (2 * n + 1) (pairHi v), false)
  else
    let nb := (w.k + 31) / 32
    if fa = 7 then
      let (v, c) := intBlocks w.fmt nb (x.word d m n).toInt false wrow arow
      (x.setWord d m n (BitVec.ofInt 32 v), c)
    else
      (x.setWord d m n (BitVec.ofNat 32 (floatBlocks w.fmt fa nb 0 (x.word d m n).toNat wrow arow (w.scales.getD n []) asc)), false)

/-- MSTRM's loop over the rows of the tile (R243). -/
def mulRows (x : Stream) (w : Weights) (fa d m0 : Nat) (rm : Rm) (rows scales : List (List Nat)) : Stream × Bool :=
  (List.range rows.length).foldl (fun acc i =>
    (List.range w.n).foldl (fun acc n =>
      let (y, c) := mulElem acc.1 w fa d (m0 + i) n rm (rows.getD i []) (scales.getD i [])
      (y, acc.2 || c)) acc) (x, false)

/-! ### The drain chain (R245) -/

/-- A magnitude code's value where every exponent but 0 is a normal one. -/
def magVal (g : Fmt) (mag : Nat) : FVal :=
  let ex := mag / 2 ^ (g.p - 1)
  if ex = 0 then .fin false mag g.qmin else .fin false (2 ^ (g.p - 1) + mag % 2 ^ (g.p - 1)) (g.qmin + (ex - 1 : Nat))

/-- An f32 converted by RNE to a format with largest finite code `top`, saturating; true when it saturated. -/
def satFloat (g : Fmt) (top nanCode x : Nat) : Nat × Bool :=
  match f32.decode x with
  | .nan _ => (nanCode, false)
  | .inf s => (g.neg s top, true)
  | .fin s m e =>
    if m = 0 then (g.neg s 0, false)
    else if cmpV (.fin false m e) (magVal g top) == .gt then (g.neg s top, true)
    else
      let q := max (magLog m e - g.p + 1) g.qmin
      let (n, _) := roundTo .rn s m e false q
      (g.neg s (n + (q - g.qmin).toNat * 2 ^ (g.p - 1)), false)

def satInt8 (x : Nat) : Nat × Bool :=
  let (v, _) := toInteger .rn (-(2 ^ 40)) (2 ^ 40) (f32.decode x)
  let u := max (-128) (min 127 v)
  ((BitVec.ofInt 8 u).toNat, (f32.decode x).isNan || u != v)

/-- Stage 4 (R245). A NaN gives the format's NaN of sign 0, whatever its own sign (04 R88). -/
def chainQuant (f : ChainFmt) (x : Nat) : Nat × Bool :=
  match f with
  | .bf16 => satFloat bf16 bf16.maxBits bf16.nan x
  | .fp16 => satFloat f16 f16.maxBits f16.nan x
  | .e4m3 => satFloat (mxFmt .e4m3) 0x7E 0x7F x
  | .e5m2 => satFloat (mxFmt .e5m2) 0x7B 0x7E x
  | .i8 => satInt8 x
def chainCode : ChainFmt → Nat
  | .bf16 => 0 | .fp16 => 1 | .e4m3 => 2 | .e5m2 => 3 | .i8 => 7

def fadd (x y : Nat) : Nat := (f32.addV .rn (f32.decode x) (f32.decode y)).1
def fsub (x y : Nat) : Nat := (f32.addV .rn (f32.decode x) (f32.decode y).negate).1
def fmulN (x y : Nat) : Nat := (f32.mul .rn (f32.decode x) (f32.decode y)).1

/-- Act (R245), each step rounded RNE. -/
def chainAct (c : Chain) (x : Nat) : Nat :=
  let lo := c.lo.toNat
  let sc := (f32.div .rn (f32.decode 0x42800000) (f32.decode (fsub c.hi.toNat lo))).1
  let u := fmulN (fsub x lo) sc
  match f32.decode u with
  | .nan _ => f32.nan
  | v =>
    let i := (toInteger .rd 0 63 v).1
    let fr := fsub u (f32.ofInteger .rn i).1
    let y (k : Nat) : Nat := (c.y.getD k 0).toNat
    (f32.fma .rn (f32.decode fr) (f32.decode (fsub (y (i.toNat + 1)) (y i.toNat))) (f32.decode (y i.toNat))).1

/-- The enabled stages on one word of column `n`: the code delivered, and whether estat bit 2 is set. -/
def chainElem (c : Chain) (st : Stages) (kind : MKind) (n : Nat) (w : Word) : Nat × Bool :=
  let x := if kind == .i32 then (f32.ofInteger .rn w.toInt).1 else w.toNat
  let x := if st.b then fadd x (c.bias.get n).toNat else x
  let x := if st.a then chainAct c x else x
  if st.q then chainQuant c.fmt x else (x, false)

/-- `cols` elements of a plane row through the chain. -/
def chainRow (x : Stream) (st : Stages) (kind : MKind) (d m cols : Nat) : List Nat × Bool :=
  match kind with
  | .f64 => ((List.range cols).map fun n => (x.word d m (2 * n)).toNat + (x.word d m (2 * n + 1)).toNat * 2 ^ 32, false)
  | _ =>
    let r := (List.range cols).map fun n => chainElem x.chain st kind n (x.word d m n)
    (r.map Prod.fst, r.any Prod.snd)

/-- The format a drained tile must have (R247). -/
def drainFmt (c : Chain) (st : Stages) (kind : MKind) : Nat :=
  if st.q then chainCode c.fmt else if kind == .f64 then 9 else 10

def setEstat (s : State) (bid bit : Nat) (on : Bool) : State :=
  if on then updBlock s bid fun b => { b with estat := b.estat ||| (1#3 <<< bit) } else s

/-- Rows of a plane written into rows of a tile; e4m3 and e5m2 carry the scale byte 0x7F (R99, R245). -/
def drainTile (s : State) (b : Block) (sh : Shape) (st : Stages) (kind : MKind) (d : Nat) (rows : List (Nat × Nat)) : State :=
  match s.stream? b.bid with
  | none => s
  | some x =>
    rows.foldl (fun s r =>
      let (els, sat) := chainRow x st kind d r.1 sh.cols
      let s := setEstat s b.bid 2 sat
      let s := memWrite s (tileKey b sh + r.2 * sh.stride) (bytesOf (ceil8 (sh.cols * sh.w)) (packBits sh.w els))
      if isMx sh.fmt then
        memWrite s (tileKey b sh + sh.rows * sh.stride + r.2 * sh.sstride) (List.replicate (blocksOf sh) 0x7F)
      else s) s

/-- What R247 asks of the tile that a drain of `rows` rows from `m0` writes. -/
def drainOk (c : Chain) (st : Stages) (kind : MKind) (sh : Shape) : Bool :=
  !(kind == .f64 && (st.b || st.a || st.q)) && sh.fmt == drainFmt c st kind &&
  decide (sh.cols ≤ if kind == .f64 then 128 else 256)

/-! ### The back end (R234, R239) -/

def MOp.isMldw (m : MOp) : Bool := decide (0x180 ≤ m.code) && decide (m.code ≤ 0x189)
def MOp.isMstrm (m : MOp) : Bool := decide (0x18A ≤ m.code) && decide (m.code ≤ 0x192)
def MOp.stages (m : MOp) : Stages := ⟨m.f.mod0.getLsbD 0, m.f.mod0.getLsbD 1, m.f.mod0.getLsbD 2⟩
def MOp.zeroes (m : MOp) : Bool := m.f.mod0.getLsbD 3
def MOp.kind (m : MOp) : MKind := (MKind.of? (sl m.f.mod0 4 2)).getD .f32
def MOp.m0 (m : MOp) : Nat := m.f.imm.toNat % 256
def MOp.rows (m : MOp) : Nat := m.f.imm.toNat / 256 % 256 + 1
/-- A format code of MLDW's and MSTRM's opcodes. -/
def MOp.fmt (m : MOp) : Nat := if m.isMldw then m.code - 0x180 else if m.code = 0x192 then 9 else m.code - 0x18A

/-- A tile operand: its handle after ring selection, and the steps of its automatic fill (R239). -/
structure Operand where
  h : Nat
  drow : Int := 0
  dcol : Int := 0
deriving DecidableEq, Repr

def lcAt (m : MOp) (j : BitVec 2) : Nat := m.lcs.getD j.toNat 0
def ringed (m : MOp) (r j : BitVec 2) : Operand :=
  { h := m.f.a.toNat + lcAt m j % 2 ^ r.toNat, drow := lcAt m j * 16 * m.f.c.toInt, dcol := lcAt m j * 32 * m.f.e.toInt }

/-- MGRP's G, S and the sizes of its groups (R249). -/
def MOp.groups (m : MOp) : Nat := m.f.imm.toNat % 16
def MOp.span (m : MOp) : Nat := m.f.imm.toNat / 16 % 256 + 1
def MOp.sizes (m : MOp) : List (Nat × Nat) :=
  ((List.range m.groups).map fun i => (i, (m.param.getD i 0).toNat)).filter fun x => x.2 != 0

/-- The handles an operation reads. -/
def MOp.operands (m : MOp) : List Operand :=
  if m.isMldw || m.isMstrm then [ringed m (sl m.f.mod0 0 2) (sl m.f.mod0 2 2)]
  else if m.code = 0x197 then
    (if m.f.mod0.getLsbD 3 then [⟨m.f.a.toNat, 0, 0⟩] else []) ++ (if m.f.mod0.getLsbD 4 then [⟨m.f.b.toNat, 0, 0⟩] else [])
  else if m.code = 0x198 then
    m.sizes.flatMap fun x => [⟨m.f.a.toNat + x.1, 0, 0⟩, ⟨m.f.b.toNat + x.1, 0, 0⟩]
  else []
def MOp.plane? (m : MOp) : Option Nat := if m.isMstrm || (0x194 ≤ m.code && m.code ≤ 0x19A && m.code != 0x197) then some m.f.d.toNat else none

/-- What the operation at the head of the queue does next. -/
inductive Head where
  | stop (code : BitVec 8)
  | wait
  | go
deriving DecidableEq, Repr

/-- The operands in turn: the first that is unusable or not ready decides. -/
def operandsHead (b : Block) : List Operand → Head
  | [] => .go
  | o :: os =>
    if 63 < o.h then .stop 0x02
    else
      let h := b.handle o.h
      if h.shape.isNone then .stop 0x08
      else if h.st == .ready then operandsHead b os
      else .wait

/-- Must the operation wait for one in progress? MCHAIN and MBARA wait for all, MLDW and MSWAP for a copy into the shadow
plane, others for what touches their plane, where one MSTRM may follow another (R234, R241, R242, R246, R251). -/
def conflicts (m r : MOp) : Bool :=
  m.code == 0x197 || m.code == 0x19B || (m.weights && (r.isMldw && !m.isMstrm || r.code == 0x198)) ||
    (m.plane?.isSome && m.plane? == r.plane? && !(m.isMstrm && r.isMstrm))

def drainTarget (m : MOp) : Nat := if m.code = 0x198 then m.f.c.toNat else m.f.a.toNat + lcAt m (sl m.f.mod1 2 2) % 2 ^ (sl m.f.mod1 0 2).toNat

/-- Does the operation name the handle? -/
def MOp.names (m : MOp) (h : Nat) : Bool :=
  m.operands.any (fun o => o.h == h) || ((m.code == 0x195 || m.code == 0x198) && drainTarget m == h)

/-- Empty operands of the queue that no earlier operation names: the operand fetcher fills them (R239). -/
def fillsDue (b : Block) : List MOp → List MOp → List (MOp × Operand)
  | _, [] => []
  | before, m :: ms =>
    ((m.operands.filter fun o => decide (o.h ≤ 63) && (b.handle o.h).shape.isSome && (b.handle o.h).st == .empty &&
      !before.any fun e => e.names o.h).map fun o => (m, o)) ++ fillsDue b (before ++ [m]) ms

/-- What R249 asks of the parameter record. -/
def groupsOk (b : Block) (m : MOp) : Bool :=
  decide (m.groups ≤ m.param.length) &&
  m.sizes.all fun x => decide (x.2 ≤ m.span) &&
    decide (x.2 ≤ (((b.handle (m.f.b.toNat + x.1)).shape.map Shape.rows).getD m.span))

def headStep (s : State) (b : Block) (x : Stream) (m : MOp) : Head :=
  let planes := recPlanes (((s.launch? b.lid).map Launch.rcd).getD {})
  let w := ctxOf s (coreQuad b.core)
  if (m.plane?.map fun d => decide (planes ≤ d)).getD false then .stop 0x02
  else if m.code = 0x198 && !groupsOk b m then .stop 0x02
  else if x.running.any (fun r => conflicts m r.op) then .wait
  else if m.weights && !(w.holder == some b.bid && decide (w.busy ≤ s.clock)) then .wait
  else if onDrainPath m && (holdsPath x || w.path.head? != some b.bid) then .wait
  else operandsHead b m.operands

/-- The elements and scales of a tile's first `n` rows. -/
def readTile (s : State) (b : Block) (sh : Shape) (n : Nat) : List (List Nat) × List (List Nat) :=
  ((List.range n).map (tileRow s b sh),
    if isMx sh.fmt then (List.range n).map fun i => (List.range (blocksOf sh)).map fun k => (tileScale s b sh i k).toNat else [])

/-- MLDW into the shadow plane (R241). -/
def loadWeights (s : State) (b : Block) (sh : Shape) : State :=
  let (seen, s) := lookTile s b sh
  let (e, sc) := readTile seen b sh sh.rows
  let w : Weights := { fmt := sh.fmt, n := sh.rows, k := sh.cols, elems := e, scales := sc }
  updStream s b.bid fun x => { x with shadow := some w, loaded := true }

/-- MSWAP (R242). -/
def swapWeights (s : State) (bid : Nat) : State :=
  updStream s bid fun x => if x.loaded then { x with active := x.shadow, shadow := none, loaded := false } else x

def weightsFit (sh : Shape) : Bool := decide (sh.rows ≤ if sh.fmt = 9 then 128 else 256)

/-- MSTRM of a tile's first `n` rows into plane `d` from row `m0` (R243): none when R102 or the shapes forbid it. -/
def streamRows (s : State) (b : Block) (sh : Shape) (d m0 n : Nat) (rm : Rm) : Option State :=
  match s.stream? b.bid with
  | none => none
  | some x =>
    match x.active with
    | none => none
    | some w =>
      if !pairing w.fmt sh.fmt || sh.cols != w.k || decide (256 < m0 + n) then none
      else
        let (seen, s) := lookTile s b sh
        let (e, sc) := readTile seen b sh n
        let (x, clamp) := mulRows x w sh.fmt d m0 rm e sc
        some (setEstat (updStream s b.bid fun _ => x) b.bid 1 clamp)

def zeroRows (s : State) (bid d m0 n cols : Nat) : State :=
  updStream s bid fun x => (List.range n).foldl (fun x i => x.zeroRow d (m0 + i) cols) x

def kindOf (fmt : Nat) : MKind := if fmt = 9 then .f64 else if fmt = 7 || fmt = 8 then .i32 else .f32

/-- One group of MGRP (R249): none for a stop. -/
def doGroup (b : Block) (m : MOp) (out : Shape) (g : Nat × Nat) (s : State) : Option State :=
  match (b.handle (m.f.a.toNat + g.1)).shape, (b.handle (m.f.b.toNat + g.1)).shape, s.stream? b.bid with
  | some ws, some sh, some x =>
    let kind := kindOf ws.fmt
    let row := g.1 * m.span
    if !weightsFit ws || !decide (ws.fmt ≤ 9) || !drainOk x.chain m.stages kind out then none
    else
      let s := swapWeights (loadWeights s b ws) b.bid
      let s := setEstat s b.bid 0 (ws.fmt == 8 && ((s.stream? b.bid).bind Stream.active).any fun w => w.elems.any fun r => r.contains 2)
      let s := zeroRows s b.bid m.f.d.toNat row g.2 256
      (streamRows s b sh m.f.d.toNat row g.2 .rn).map fun s =>
        drainTile s b out m.stages kind m.f.d.toNat ((List.range g.2).map fun i => (row + i, row + i))
  | _, _, _ => none
def doGroups (b : Block) (m : MOp) (out : Shape) : List (Nat × Nat) → State → Option State
  | [], s => some s
  | g :: gs, s => (doGroup b m out g s).bind (doGroups b m out gs)

/-- What performing an operation comes to: a new state, with the beats of a drain onto lanes, or a stop with its code and
failing address. -/
inductive Perf where
  | ok (s : State) (drain : Option Drain := none)
  | stop (code : BitVec 8) (va : DWord)

/-- A drain's output handle: unbound or not empty stops with 0x08 (R247, R249). -/
def outHandle (b : Block) (h : Nat) : Except (BitVec 8) Shape :=
  if 63 < h then .error 0x02
  else
    match (b.handle h).shape with
    | none => .error 0x08
    | some sh => if (b.handle h).st != .empty then .error 0x08 else .ok sh

def releaseOperand (s : State) (b : Block) (m : MOp) : State :=
  if m.f.mod0.getLsbD 4 then m.operands.foldl (fun s o => emptyHandle s b.bid o.h false) s else s
def operandShape (b : Block) (m : MOp) : Option Shape := (m.operands.head?).bind fun o => (b.handle o.h).shape

def performMldw (s : State) (b : Block) (m : MOp) : Perf :=
  match operandShape b m with
  | none => .stop 0x08 0
  | some sh =>
    if sh.fmt != m.fmt || !weightsFit sh then .stop 0x02 0
    else .ok (releaseOperand (loadWeights s b sh) b m)

def performMstrm (s : State) (b : Block) (m : MOp) : Perf :=
  match operandShape b m with
  | none => .stop 0x08 0
  | some sh =>
    if sh.fmt != m.fmt then .stop 0x02 0
    else
      match streamRows s b sh m.f.d.toNat m.m0 sh.rows (rmOf m.f) with
      | none => .stop 0x02 0
      | some s => .ok (releaseOperand s b m)

/-- R247. The tile is written now; its handle becomes ready when the operation completes. A handle that is not empty stops
(0x08) before fmt, rows or cols do (0x02): no rule orders the causes (DESIGN CHOICE, log 100). -/
def performMdrain (s : State) (b : Block) (m : MOp) : Perf :=
  match outHandle b (drainTarget m) with
  | .error c => .stop c 0
  | .ok sh =>
    let c := ((s.stream? b.bid).map Stream.chain).getD { y := [] }
    if !drainOk c m.stages m.kind sh || decide (256 < m.m0 + sh.rows) then .stop 0x02 0
    else
      let s := drainTile s b sh m.stages m.kind m.f.d.toNat ((List.range sh.rows).map fun i => (m.m0 + i, i))
      let s := if m.zeroes then zeroRows s b.bid m.f.d.toNat m.m0 sh.rows (if m.kind == .f64 then 2 * sh.cols else sh.cols) else s
      .ok (setHandle s b.bid (drainTarget m) { b.handle (drainTarget m) with st := .filling })

/-- R248: the beats, each with the clock at which it enters the gang's queue. -/
def performMdrainl (s : State) (b : Block) (m : MOp) : Perf :=
  match s.stream? b.bid with
  | none => .ok s
  | some x =>
    let nb := m.f.imm.toNat / 2 ^ 16 % 8 + 1
    if m.kind == .f64 && (m.stages.b || m.stages.a || m.stages.q) then .stop 0x02 0
    else
      let rows := (List.range m.rows).map fun j =>
        match m.kind with
        | .f64 => ((List.range (32 * nb)).map fun c => (x.word m.f.d.toNat (m.m0 + j) c).toNat, false)
        | k => chainRow x m.stages k m.f.d.toNat (m.m0 + j) (32 * nb)
      let beat (j i : Nat) : Nat × Beat :=
        (s.clock + 24 + nb * j + i,
          { data := (((rows.getD j ([], false)).1.drop (32 * i)).take 32).map (BitVec.ofNat 32), row := m.m0 + j, beat := i })
      let beats := (List.range m.rows).flatMap fun j => (List.range nb).map (beat j)
      let s := setEstat s b.bid 2 (rows.any Prod.snd)
      let s := if m.zeroes then zeroRows s b.bid m.f.d.toNat m.m0 m.rows (32 * nb) else s
      .ok s (some ⟨m.f.b.toNat, beats⟩)

/-- R246. Absent parts keep their values. -/
def performMchain (s : State) (b : Block) (m : MOp) : Perf :=
  let bias := m.f.mod0.getLsbD 3
  let table := m.f.mod0.getLsbD 4
  let shOf (h : BitVec 8) : Shape := ((b.handle h.toNat).shape).getD (Shape.ofBytes false [])
  let row (on : Bool) (h : BitVec 8) (s : State) : List Word × State :=
    if on then
      let (seen, s) := lookTile s b (shOf h)
      ((tileRow seen b (shOf h) 0).map (BitVec.ofNat 32), s)
    else ([], s)
  let fits (h : BitVec 8) (ok : Nat → Bool) : Bool := (shOf h).fmt == 10 && (shOf h).rows == 1 && ok (shOf h).cols
  let finite (w : Word) : Bool := match f32.decode w.toNat with | .fin _ _ _ => true | _ => false
  if (bias && !fits m.f.a (fun c => decide (c ≤ 256))) || (table && !fits m.f.b (fun c => c == 67)) then .stop 0x02 0
  else
    let (t, s) := row table m.f.b s
    let (biases, s) := row bias m.f.a s
    let lo := t.getD 65 0; let hi := t.getD 66 0
    if table && (!finite lo || !finite hi || cmpV (f32.decode lo.toNat) (f32.decode hi.toNat) != .lt) then .stop 0x02 0
    else
      let fmt := (ChainFmt.of? (sl m.f.mod0 0 3)).getD .bf16
      let set (c : Chain) : Chain :=
        let c : Chain := { c with fmt := fmt }
        let c : Chain := if bias then { c with bias := Sparse.setList ([] : Sparse 32) 0 biases } else c
        if table then { c with y := t.take 65, lo := lo, hi := hi } else c
      .ok (updStream s b.bid fun x => { x with chain := set x.chain })

def performMgrp (s : State) (b : Block) (m : MOp) : Perf :=
  match outHandle b m.f.c.toNat with
  | .error c => .stop c 0
  | .ok sh =>
    if sh.rows < m.groups * m.span then .stop 0x02 0
    else
      match doGroups b m sh m.sizes s with
      | none => .stop 0x02 0
      | some s => .ok (setHandle s b.bid m.f.c.toNat { b.handle m.f.c.toNat with st := .filling })

/-- R250: byte offset of the plane's image in the window; a negative offset may come back by the loop's counter. -/
def imageOff (m : MOp) : Int :=
  128 * (if m.f.mod0.getLsbD 3 then ((m.param.headD 0).toNat : Int) else m.f.imm.toInt) +
  (if m.f.mod0.getLsbD 2 then 262144 * (lcAt m (sl m.f.mod0 0 2) : Int) else 0)
def performImage (s : State) (b : Block) (m : MOp) : Perf :=
  let o := imageOff m
  let key := vaultSpace + b.vpage * 2 ^ 16 + o.toNat
  let d := m.f.d.toNat
  if o < 0 || (b.vlimit : Int) < o + 262144 then .stop 0x09 (BitVec.ofInt 64 (b.vbase + o))
  else if m.code = 0x199 then
    match s.stream? b.bid with
    | none => .ok s
    | some x => .ok ((List.range 65536).foldl (fun s i => memWrite s (key + 4 * i) (bytesOf 4 (x.planes.get (d * 65536 + i)).toNat)) s)
  else
    let (bs, s) := readKeys s [(key, 262144)]
    let word (i : Nat) : Word := BitVec.ofNat 32 (natAt bs (4 * i) 4)
    .ok (updStream s b.bid fun x => (List.range 65536).foldl (fun x i => { x with planes := x.planes.set (d * 65536 + i) (word i) }) x)

/-- MBARA (R251): every earlier operation has completed; the writes are released at quad scope and the sequencer arrives. -/
def performMbara (s : State) (b : Block) (m : MOp) : Perf :=
  match seqArrive (release s b.core (vfOf s b.lid) .qd) b.bid (m.f.imm.toNat % 16) (m.f.imm.toNat / 16 % 2048) with
  | none => .stop 0x0A 0
  | some s => .ok s

def perform (s : State) (b : Block) (m : MOp) : Perf :=
  if m.isMldw then performMldw s b m
  else if m.isMstrm then performMstrm s b m
  else
    match m.code with
    | 0x193 => .ok (swapWeights s b.bid)
    | 0x194 => .ok (zeroRows s b.bid m.f.d.toNat m.m0 m.rows 256)
    | 0x195 => performMdrain s b m
    | 0x196 => performMdrainl s b m
    | 0x197 => performMchain s b m
    | 0x198 => performMgrp s b m
    | 0x19B => performMbara s b m
    | _ => performImage s b m

/-! #### Writes to the vault: made word by word until the operation completes (R247, R250) -/

/-- Where an operation writes: key and bytes. -/
def writeRange (b : Block) (m : MOp) : Option (Nat × Nat) :=
  if m.code = 0x195 || m.code = 0x198 then (b.handle (drainTarget m)).shape.map fun sh => (tileKey b sh, sh.size)
  else if m.code = 0x199 then some (vaultSpace + b.vpage * 2 ^ 16 + (imageOff m).toNat, 262144)
  else none

/-- The words of a range in which two states differ, as the second has them. -/
def changedWords (s s' : State) (r : Nat × Nat) : List (Nat × List Byte) :=
  ((wordPieces (r.2 + 1) r.1 r.2).map fun k => (k.1, memRead s' k.1 k.2)).filter fun w => memRead s w.1 w.2.length != w.2

/-- A word written, also in what the stream's looks have found. -/
def writeVault (s : State) (bid : Nat) (w : Nat × List Byte) : State :=
  updStream (memWrite s w.1 w.2) bid fun x => { x with past := x.past.map fun m => Sparse.setList (w := 8) m w.1 w.2 }

def updRun (s : State) (bid : Nat) (m : MOp) (f : MRun → MRun) : State :=
  updStream s bid fun x => { x with running := x.running.map fun r => if r.op == m then f r else r }

/-- What is left of an operation's writes is made. -/
def flushRun (bid : Nat) (s : State) (r : MRun) : State :=
  updRun (r.writes.foldl (fun s w => writeVault s bid w) s) bid r.op fun r => { r with writes := [] }
/-- Of what the operations in progress have still to write, the words that lie in some ranges are written. -/
def flushRuns (s : State) (bid : Nat) (rs : List (Nat × Nat)) : State :=
  let touched (w : Nat × List Byte) : Bool := rs.any fun r => rangesMeet w.1 w.2.length r.1 r.2
  (((s.stream? bid).map Stream.running).getD []).foldl (fun s r =>
    updRun ((r.writes.filter touched).foldl (fun s w => writeVault s bid w) s) bid r.op
      fun r => { r with writes := r.writes.filter fun w => !touched w }) s

def storageOf (b : Block) (h : Nat) : List (Nat × Nat) := ((b.handle h).shape.map fun sh => (tileKey b sh, sh.size)).toList
/-- What an operation reads or writes of the vault. -/
def MOp.ranges (b : Block) (m : MOp) : List (Nat × Nat) :=
  m.operands.flatMap (fun o => storageOf b o.h) ++ (writeRange b m).toList ++
  if m.code = 0x19A then [(vaultSpace + b.vpage * 2 ^ 16 + (imageOff m).toNat, 262144)] else []

/-- The automatic fill of R207: with nonzero steps it first sets the origin (R239). What earlier
operations have still to write where the tile lies is written first (R234). -/
def autoFill (s : State) (b : Block) (m : MOp) (o : Operand) : State :=
  let h := b.handle o.h
  match h.shape with
  | none => s
  | some sh =>
    let sh : Shape := if m.f.c != 0 || m.f.e != 0 then
        (if m.code = 0x198 then sh else { sh with row0 := h.rowBind + o.drow, col0 := h.colBind + o.dcol }) else sh
    let s := flushRuns s b.bid (storageOf b o.h)
  let (id, s) := fresh s
    let s := setHandle s b.bid o.h { h with shape := some sh, st := .filling }
    { s with ops := s.ops ++ [{ id := id, vf := vfOf s b.lid, lid := b.lid, bid := b.bid, uid := none, core := b.core,
                                pc := m.pc, work := .fill o.h sh true }] }

/-- One word of those to be written is written (a choice of the hardware, log 39). -/
def dripWord (s : State) (bid : Nat) : State :=
  let ws := (((s.stream? bid).map Stream.running).getD []).flatMap fun r => r.writes.map fun w => (r.op, w)
  let (i, s) := draw s ws.length
  match ws[i]? with
  | some (m, w) => updRun (writeVault s bid w) bid m fun r => { r with writes := r.writes.filter (· != w) }
  | none => s

/-! #### The events of the back end -/

def headOf (s : State) (bid : Nat) : Option (Block × Stream × MOp) :=
  match s.block? bid with
  | none => none
  | some b =>
    match b.stream with
    | none => none
    | some x => if x.stopped || b.res == .saved then none else x.queue.head?.map fun m => (b, x, m)

/-- The head operation is performed: what it reads, and what it will write over, follows every earlier write there (R234), and
what it writes to the vault is still to come about. -/
def performHead (s : State) (b : Block) (m : MOp) : State :=
  let s := flushRuns s b.bid (m.ranges b)
  let past := ((s.stream? b.bid).map Stream.past).getD []
  match perform { s with lens := past } b m with
  | .stop c va => stopSequencer { s with lens := [] } b.bid c m.pc va
  | .ok s' drain =>
    let ws := ((writeRange b m).map (changedWords s s')).getD []
    let go (x : Stream) : Stream :=
      { x with queue := x.queue.drop 1, past := [], running := x.running ++ [{ op := m, drain := drain, writes := ws }] }
    reach (updStream { s' with lens := [], mem := if ws.isEmpty then s'.mem else s.mem } b.bid go) b.bid

/-- May a look be taken at what the head operation is to read? -/
def streamLookDue (s : State) (bid : Nat) : Bool :=
  match headOf s bid with
  | some (b, _, m) => operandsHead b m.operands == .go
  | none => false

def backFills (s : State) (bid : Nat) : List (MOp × Operand) :=
  match headOf s bid with
  | some (b, x, _) => fillsDue b [] x.queue
  | none => []

def matrixPerformDue (s : State) (bid : Nat) : Bool :=
  !(backFills s bid).isEmpty || ((headOf s bid).map fun h => headStep s h.1 h.2.1 h.2.2 != .wait).getD false

/-- The back end starts an automatic fill, or takes the operation at the head of the queue. -/
def execMatrixOperationPerform (bid : Nat) (s : State) : Host.Outcome State Fault Refusal :=
  match headOf s bid with
  | none => .next s
  | some (b, x, m) =>
    let fills := backFills s bid
    let (i, s) := draw s (fills.length + if headStep s b x m == .wait then 0 else 1)
    match fills[i]? with
    | some (m, o) => done (autoFill s b m o)
    | none =>
      match headStep s b x m with
      | .wait => .next s
      | .stop c => done (stopSequencer s bid c m.pc 0)
      | .go => done (performHead s b m)

def completable (x : Stream) : List MRun := x.running.filter fun r => r.drain.isNone
def matrixCompleteDue (s : State) (bid : Nat) : Bool := ((s.stream? bid).map fun x => !(completable x).isEmpty).getD false

/-- An operation in progress completes: its last words are written, permits return, a drained tile is ready, MLDW.t2's bad
code is seen (R241), and the drain path is free for the next. -/
def completeRun (s : State) (b : Block) (x : Stream) (r : MRun) : State :=
  let m := r.op
  let s := flushRun b.bid s r
  let s := updStream s b.bid fun x => Stream.sweep { x with running := x.running.filter fun y => y.op != m }
  let s := if m.code = 0x195 || m.code = 0x198 then
      setHandle s b.bid (drainTarget m) { handleOf s b.bid (drainTarget m) with st := .ready } else s
  let w := ctxOf s (coreQuad b.core)
  let s := if onDrainPath m then setCtx s { w with path := w.path.erase b.bid } else s
  checkBlock (setEstat s b.bid 0 (m.isMldw && m.fmt == 8 && x.shadow.any fun w => w.elems.any fun r => r.contains 2)) b.bid

def execMatrixOperationComplete (bid : Nat) (s : State) : Host.Outcome State Fault Refusal :=
  match s.block? bid with
  | none => .next s
  | some b =>
    match b.stream with
    | none => .next s
    | some x =>
      let (i, s) := draw s (completable x).length
      match (completable x)[i]? with
      | none => .next s
      | some r => done (completeRun s b x r)

/-! ### Drained beats (R248) -/

/-- The drain onto lanes in progress: the drain path lets one at a time. -/
def Stream.draining (x : Stream) : Option Drain := x.running.findSome? MRun.drain
def Stream.setDrain (x : Stream) (d : Option Drain) : Stream :=
  { x with running := x.running.map fun r => if r.drain.isSome then { r with drain := d } else r }

/-- Has a gang a member that has not exited? -/
def gangLives (s : State) (bid gang : Nat) : Bool := !(gangMembers s bid gang).isEmpty
def beatsOf (b : Block) (gang : Nat) : List Beat := ((b.beats.find? fun q => q.1 == gang).map Prod.snd).getD []

def drainBeatDue (s : State) (bid : Nat) : Bool :=
  match s.block? bid with
  | none => false
  | some b =>
    match b.stream.bind Stream.draining with
    | some ⟨g, (clk, _) :: _⟩ => decide (clk ≤ s.clock) && (!gangLives s bid g || decide ((beatsOf b g).length < 64))
    | some ⟨_, []⟩ => true
    | none => false

/-- A beat enters its gang's queue; one that enters late delays every later beat by as much. -/
def execDrainBeatEnqueue (bid : Nat) (s : State) : Host.Outcome State Fault Refusal :=
  if !drainBeatDue s bid then .next s
  else
    match s.block? bid with
    | none => .next s
    | some b =>
      match b.stream.bind Stream.draining with
      | none => .next s
      | some ⟨_, []⟩ => done (updStream s bid fun x => x.setDrain none)
      | some ⟨g, (clk, beat) :: rest⟩ =>
        let late := s.clock - clk
        let rest := rest.map fun q => (q.1 + late, q.2)
        let left : Option Drain := if rest.isEmpty then none else some ⟨g, rest⟩
        let keep := gangLives s bid g
        let qs := b.beats.filter (fun q => q.1 != g) ++ [(g, beatsOf b g ++ [beat])]
        let s := updStream s bid fun x => x.setDrain left
        let s := if keep then updBlock s bid fun b => { b with beats := qs } else s
        done (xRecheck s bid g)

/-! ### The weight context (R254) -/

def reqPrio (s : State) (q : WReq) : Nat :=
  if q.raised then 16 else (((s.block? q.bid).bind fun b => s.launch? b.lid).map fun l => l.rcd.prio).getD 0

/-- The oldest request of the highest priority. -/
def bestReq (s : State) : List WReq → Option WReq
  | [] => none
  | q :: qs =>
    match bestReq s qs with
    | none => some q
    | some r => some (if reqPrio s r ≤ reqPrio s q then q else r)

def weightSwitchDue (s : State) (quad : Nat) : Bool :=
  let w := ctxOf s quad
  -- the array is another block's until what that has in progress there completes
  w.holder.isNone && !w.reqs.isEmpty && !s.blocks.any fun b =>
    coreQuad b.core == quad && (b.stream.map fun x => x.running.any fun r => r.op.weights).getD false

/-- The arbiter grants the context; saving the outgoing and restoring the incoming planes take 128 clocks each. -/
def execWeightContextSwitch (quad : Nat) (s : State) : Host.Outcome State Fault Refusal :=
  let w := ctxOf s quad
  if w.holder.isSome then .next s
  else
    match bestReq s w.reqs with
    | none => .next s
    | some q =>
      let saves := match w.last with | some l => l != q.bid && (s.block? l).isSome | none => false
      let cost := if w.last == some q.bid then 0 else 128 + (if saves then 128 else 0)
      done (setCtx s { w with holder := some q.bid, last := some q.bid, since := s.clock, busy := s.clock + cost,
                              reqs := w.reqs.filter fun r => r.bid != q.bid })

def weightRaiseDue (s : State) (bid : Nat) : Bool :=
  s.wctx.any fun w => w.reqs.any fun r => r.bid == bid && !r.raised && decide (r.since + 4096 ≤ s.clock)

/-- A request that has waited 4,096 clocks is raised above every priority. -/
def execWeightRequestRaise (bid : Nat) (s : State) : Host.Outcome State Fault Refusal :=
  if !weightRaiseDue s bid then .next s
  else
    let up (r : WReq) : WReq := if r.bid == bid then { r with raised := true } else r
    done { s with wctx := s.wctx.map fun w => { w with reqs := w.reqs.map up } }

end Sys2Proof.Machine
end

