-- ==== Sys2Proof/Machine/Digest.lean ====
section
/-! DEFINITION. SHA-256 of a byte string and the RSASSA-PKCS1-v1_5 check with it, as 14 R307 and 21 R375–R377 use them. -/

namespace Sys2Proof.Machine

/-- The first `n` primes of a list from which the multiples of each are struck out. -/
def sieve : Nat → List Nat → List Nat
  | 0, _ => []
  | _, [] => []
  | n + 1, p :: xs => p :: sieve n (xs.filter fun x => x % p != 0)
/-- The largest `r` with `r ^ k ≤ x`, its bits from number `n - 1` down put onto `r`. -/
def rootBits (k x : Nat) : Nat → Nat → Nat
  | 0, r => r
  | n + 1, r => rootBits k x n (if (r + 2 ^ n) ^ k ≤ x then r + 2 ^ n else r)
/-- The first 32 bits after the binary point of the `k`-th root of `p`: the standard's constants are these of primes. -/
def rootFraction (k p : Nat) : Nat := rootBits k (p * 2 ^ (32 * k)) 37 0 % 2 ^ 32
/-- The 64 round constants, and the hash value of the empty chain. -/
def roundConstants : List Nat := (sieve 64 ((List.range 310).map (· + 2))).map (rootFraction 3)
def chainStart : List Nat := (sieve 8 ((List.range 18).map (· + 2))).map (rootFraction 2)

def turn (x n : Nat) : Nat := (x * 2 ^ (32 - n) + x / 2 ^ n) % 2 ^ 32
/-- A word turned right by three amounts, or shifted right by the last, and added without carries. -/
def mix (p q r : Nat) (shift : Bool) (x : Nat) : Nat := turn x p ^^^ turn x q ^^^ (if shift then x / 2 ^ r else turn x r)

/-- The next word of the message schedule from the 16 before it, oldest first. -/
def nextWord (ws : List Nat) : Nat :=
  (ws.getD 0 0 + mix 7 18 3 true (ws.getD 1 0) + ws.getD 9 0 + mix 17 19 10 true (ws.getD 14 0)) % 2 ^ 32

/-- One round on the working words: two new ones come in, one at each half's head. -/
def shaRound (v : List Nat) (kw : Nat) : List Nat :=
  let at_ (i : Nat) : Nat := v.getD i 0
  let choose := (at_ 4 &&& (at_ 5 ^^^ at_ 6)) ^^^ at_ 6
  let agree := (at_ 0 &&& (at_ 1 ||| at_ 2)) ||| (at_ 1 &&& at_ 2)
  let t := at_ 7 + mix 6 11 25 false (at_ 4) + choose + kw
  ((t + mix 2 13 22 false (at_ 0) + agree) % 2 ^ 32 :: v.take 3) ++ ((at_ 3 + t) % 2 ^ 32 :: (v.drop 4).take 3)

/-- The rounds of a block: each takes the schedule's oldest word, which then moves on by one. -/
def shaRounds : List Nat → List Nat → List Nat → List Nat
  | [], _, v => v
  | k :: ks, ws, v => shaRounds ks (ws.drop 1 ++ [nextWord ws]) (shaRound v (k + ws.getD 0 0))

def shaBlock (ks h ws : List Nat) : List Nat := List.zipWith (fun x y => (x + y) % 2 ^ 32) h (shaRounds ks ws h)

/-- Bytes as a big-endian number, and back. -/
def bigEndian (bs : List Byte) : Nat := bs.foldl (fun n b => n * 256 + b.toNat) 0
def bigBytes (n v : Nat) : List Byte := (List.range n).map fun i => BitVec.ofNat 8 (v / 256 ^ (n - 1 - i))

def shaPad (bs : List Byte) : List Byte :=
  bs ++ 0x80#8 :: (List.replicate ((119 - bs.length % 64) % 64) 0#8 ++ bigBytes 8 (8 * bs.length))

/-- The chain of blocks of a padded message. -/
def shaChain (ks : List Nat) : Nat → List Byte → List Nat → List Nat
  | 0, _, h => h
  | n + 1, bs, h => shaChain ks n (bs.drop 64) (shaBlock ks h ((List.range 16).map fun i => bigEndian ((bs.drop (4 * i)).take 4)))

def sha256 (bs : List Byte) : List Byte :=
  let p := shaPad bs
  (shaChain roundConstants (p.length / 64) p chainStart).flatMap (bigBytes 4)

/-- x^e mod n over the `k` low bits of e, from the highest down. -/
def modPow (n x e : Nat) : Nat → Nat
  | 0 => 1 % n
  | k + 1 =>
    let r := modPow n x (e / 2) k
    let sq := r * r % n
    if e % 2 = 1 then sq * x % n else sq

/-- DER of DigestInfo for SHA-256. -/
def digestInfo : List Byte :=
  [0x30, 0x31, 0x30, 0x0d, 0x06, 0x09, 0x60, 0x86, 0x48, 0x01, 0x65, 0x03, 0x04, 0x02, 0x01, 0x05, 0x00, 0x04, 0x20]

/-- EMSA-PKCS1-v1_5 for 3,072 bits. -/
def pkcsBlock (digest : List Byte) : Nat :=
  bigEndian ([0x00#8, 0x01#8] ++ List.replicate (384 - 3 - 19 - 32) 0xFF#8 ++ [0x00#8] ++ digestInfo ++ digest)

/-- Does an RSA-3072 signature over a digest verify under a key? -/
def rsaVerifies (modulus exponent signature : Nat) (digest : List Byte) : Bool :=
  decide (2 ^ 3071 ≤ modulus) && decide (modulus < 2 ^ 3072) && decide (signature < modulus) &&
  modPow modulus signature exponent (Nat.log2 exponent + 1) == pkcsBlock digest

end Sys2Proof.Machine
end

