-- ==== Sys2Proof/Machine/Sched.lean ====
section
/-! DEFINITION. Inside a core (14 R315–R320, 01 R46–R48): which slots are ready, the picker, swaps and joins, the forming
of slots from pallets, and the waits that end by themselves. Each event has no effect when it is not due (log 12). -/

namespace Sys2Proof.Machine

/-! ### Readiness (R315) -/

def slotThreads (s : State) (x : Slot) : List Thread := x.uids.filterMap s.thread?

/-- The word at an address, if it can be read, with nothing changed. -/
def peekWord (s : State) (core vf : Nat) (a : DWord) : Option (BitVec 128) :=
  match (fetchWord s core vf a).1 with
  | .ok w => some w
  | .error _ => none

/-- The fields of the word a thread stands at. -/
def nextFields (s : State) (core : Nat) (t : Thread) : Option Fields :=
  if (Header.of t.hword).length ≤ t.idx then none
  else (peekWord s core (vfOf s t.lid) (t.hdr + 8 + BitVec.ofNat 64 (16 * t.idx))).map Fields.unpack

/-- Is this mark on a register or predicate that the word touches (R64), or one that holds its thread whatever the word? A
word that is no instruction (R85) waits for the marks on its guard like any other before it traps (DESIGN CHOICE, log 35). -/
def markOn (f : Fields) (p : Pend) : Bool :=
  match p.due with
  | .fixed _ => false
  | _ =>
    let rs := f.regSrcs ++ f.regDsts
    let ps := f.predSrcs ++ f.predDsts ++ [f.g.g0.toNat, f.g.g1.toNat]
    p.all || p.regs.any (fun w => rs.contains w.1) || p.preds.any fun w => ps.contains w.1
def marked (f : Fields) (t : Thread) : Bool := t.pend.any (markOn f)
/-- A mark that is a long wait (R316). -/
def longMarked (f : Fields) (t : Thread) : Bool := t.pend.any fun p => p.long && markOn f p

/-- R63: the first word of a block waits for every fixed-latency write outstanding. -/
def unlanded (t : Thread) (clk : Nat) : Bool :=
  t.idx == 0 && t.pend.any fun p => match p.due with | .fixed c => decide (clk < c) | _ => false

/-- The counter a command raises (R30). -/
def cmdClass (op : Nat) : Option EngClass :=
  if 0x122 ≤ op && op ≤ 0x125 then some .cp
  else if 0x127 ≤ op && op ≤ 0x12D then some .ga
  else if op = 0x12F || op = 0x130 || op = 0x131 || op = 0x132 || op = 0x134 || op = 0x135 then some .sl
  else if 0x136 ≤ op && op ≤ 0x13B then some .co
  else if op = 0x13C || op = 0x13D then some .mx
  else if op = 0x116 then some .rp
  else if op = 0x117 then some .tr
  else none
def classFull (s : State) (f : Fields) (t : Thread) : Bool :=
  match cmdClass f.op.toNat with
  | some c => guardHolds f.g t && decide (63 ≤ claims s t c)
  | none => false

/-- May the thread's next word issue, its wait apart from the picker? -/
def threadReady (s : State) (core : Nat) (t : Thread) : Bool :=
  t.wait == .none && t.gate.isNone && decide (t.readyAt ≤ s.clock) && !unlanded t s.clock &&
  (match nextFields s core t with
    | some f => !marked f t && !classFull s f t
    | none => decide (t.idx < (Header.of t.hword).length))

/-- The parent of a SPAWN goes on when every active lane's child has joined a pack (05 R117). -/
def spawnWaits (b : Block) (uid : Nat) : Bool := b.spawns.any fun q => q.lanes.contains uid

/-- Threads of a slot that wait for nothing: a thread that waits, or whose round's charge is still to be made, stays in the
slot and is in no course of it (06 R159, log 11). -/
def freeThreads (s : State) (x : Slot) : List Thread :=
  (slotThreads s x).filter fun t => t.wait == .none && t.gate.isNone && !((s.block? t.bid).map fun b => spawnWaits b t.uid).getD false

/-- Which thread's word does a slot whose lanes have come apart run first? The one that issued longest ago, then the lower
sr.tid (DESIGN CHOICE, log 11). -/
def runsBefore (t u : Thread) : Bool := decide (t.lastIssue < u.lastIssue) || (t.lastIssue == u.lastIssue && decide (t.tid ≤ u.tid))

def sameWord (t u : Thread) : Bool := t.hdr == u.hdr && t.idx == u.idx

/-- The course that a slot may issue: the free threads at one word, each of them ready. Those of a slot stand at one word,
but for lanes that have waited. -/
def courseOf (s : State) (x : Slot) : List Thread :=
  let free := freeThreads s x
  let group (t : Thread) : List Thread := free.filter (sameWord t)
  (((free.mergeSort runsBefore).map group).find? fun g => g.all (threadReady s x.core)).getD []

/-- R315. A slot in the middle of a swap is not ready. -/
def slotReady (s : State) (x : Slot) : Bool :=
  decide (x.busy ≤ s.clock) && !x.leave &&
  (match courseOf s x with
    | [] => false
    | t :: _ => ((s.block? t.bid).map fun b => b.res == .resident).getD false)

/-- A long wait of R316 keeps the slot from being ready. -/
def longWait (s : State) (x : Slot) : Bool :=
  (slotThreads s x).any fun t =>
    t.wait != .none || ((nextFields s x.core t).map fun f => longMarked f t).getD false

/-- A sequencer starts in the clock in which the first thread of its block becomes ready (09 R233). -/
def sequencerStartDue (s : State) (bid : Nat) : Bool :=
  match (s.block? bid).bind Block.stream with
  | some x =>
    !x.started && !x.stopped &&
      s.slots.any fun y => slotReady s y && (slotThreads s y).any fun t => t.bid == bid
  | none => false

def execSequencerStart (bid : Nat) (s : State) : Host.Outcome State Fault Refusal :=
  if sequencerStartDue s bid then done (updStream s bid fun x => { x with started := true }) else .next s

/-! ### Key order (R315) -/

def slotRaised (s : State) (x : Slot) : Bool := (slotThreads s x).any Thread.raised
def slotPrio (s : State) (x : Slot) : Nat :=
  (((slotThreads s x).head?.bind fun t => s.launch? t.lid).map fun l => l.rcd.prio).getD 0
def slotBlock (s : State) (x : Slot) : Nat := (((slotThreads s x).head?.bind fun t => s.block? t.bid).map Block.idx).getD 0
def lowTid (s : State) (x : Slot) : Nat :=
  match (slotThreads s x).map Thread.tid with
  | [] => 0
  | i :: is => is.foldl min i

/-- Does slot `x` come before slot `y`? -/
def keyBefore (s : State) (x y : Slot) : Bool :=
  let rx := slotRaised s x; let ry := slotRaised s y
  if rx != ry then rx
  else if slotPrio s x != slotPrio s y then decide (slotPrio s y < slotPrio s x)
  else if x.stamp != y.stamp then decide (x.stamp < y.stamp)
  else if slotBlock s x != slotBlock s y then decide (slotBlock s x < slotBlock s y)
  else decide (lowTid s x ≤ lowTid s y)

def firstSlot (s : State) : List Slot → Option Slot
  | [] => none
  | x :: xs =>
    match firstSlot s xs with
    | none => some x
    | some y => some (if keyBefore s x y then x else y)
def lastSlot (s : State) : List Slot → Option Slot
  | [] => none
  | x :: xs =>
    match lastSlot s xs with
    | none => some x
    | some y => some (if keyBefore s x y then y else x)

def coreSlots (s : State) (core : Nat) (active : Bool) : List Slot := s.slots.filter fun x => x.core == core && x.active == active
def readyPending (s : State) (core : Nat) : Option Slot := firstSlot s ((coreSlots s core false).filter (slotReady s))

/-! ### The picker (R12, R315) -/

/-- Has the slot issued in this clock? -/
def issuedJust (s : State) (x : Slot) : Bool := x.issued && x.stamp == s.clock

/-- At most 4 courses of a core issue in a clock, and at most one of each slot. -/
def pickable (s : State) (core : Nat) : Option Slot :=
  if 4 ≤ s.issuedNow.count core then none
  else firstSlot s ((coreSlots s core true).filter fun x => slotReady s x && !issuedJust s x)

def pickerDue (s : State) (core : Nat) : Bool := (pickable s core).isSome

/-- The first ready slot of the active set issues: its course runs the word it stands at in the step that follows. -/
def execPickerIssue (core : Nat) (s : State) : Host.Outcome State Fault Refusal :=
  match pickable s core with
  | none => .next s
  | some x => done { s with cur := .course ((courseOf s x).map Thread.uid), issuedNow := core :: s.issuedNow }

/-- The word the course in progress stands at, or what became of it when the word could not be read (11 R262). -/
def courseFetch (s : State) (uids : List Nat) : Option (BitVec 128) × State :=
  let idle (s : State) : Option (BitVec 128) × State := (none, { s with cur := .none })
  match (uids.filterMap s.thread?).head? with
  | none => idle s
  | some t =>
    match s.block? t.bid with
    | none => idle s
    | some b =>
      let pc := t.hdr + 8 + BitVec.ofNat 64 (16 * t.idx)
      match fetchWord s b.core (vfOf s t.lid) pc with
      | (.ok w, s) => (some w, s)
      | (.error (.notPresent _, va), s) => idle (holdOnPages s (vfOf s t.lid) uids (uids.map fun u => (u, va)) pc .fetch)
      | (.error (.trap c, va), s) => idle (trapAll s uids c pc va)

/-! ### Swaps and joins (R316, R317, 02 R62) -/

/-- Threads of two slots all stand at one program counter of one block. -/
def samePc (x y : List Thread) : Bool :=
  match x.head? with
  | some t => !y.isEmpty && (x ++ y).all fun u => t.bid == u.bid && sameWord t u
  | none => false

/-- Pending slots joined into an incoming one, in ascending lowest sr.tid, while the group stays at 32 threads. -/
def joinInto (s : State) (x : Slot) : List Slot → Slot
  | [] => x
  | y :: ys =>
    if samePc (slotThreads s x) (slotThreads s y) && decide (x.uids.length + y.uids.length ≤ 32)
    then joinInto s { x with uids := x.uids ++ y.uids } ys
    else joinInto s x ys

/-- Slot `x` of the pending set enters the active set; `out` leaves it. Neither issues for 2 clocks: this one and the next,
or, where `out` has just issued (R62), the next two (Table 14-5; DEDUCED, log 87). -/
def swapIn (s : State) (x : Slot) (out : Option Slot) : State :=
  let others := ((coreSlots s x.core false).filter fun y => y.id != x.id).mergeSort fun a b => decide (lowTid s a ≤ lowTid s b)
  let j := joinInto s x others
  let gone (y : Slot) : Bool := y.id != x.id && y.uids.any j.uids.contains
  let until_ := s.clock + if (out.map (issuedJust s)).getD false then 3 else 2
  let place (y : Slot) : Slot :=
    -- the timestamp of a slot that has issued stays that of its last issue (R315)
    if y.id == x.id then { j with active := true, stamp := if x.issued then x.stamp else s.clock, busy := until_ }
    else if (out.map fun o => o.id == y.id).getD false then
      { y with active := false, busy := until_, leave := false, offer := false }
    else y
  { s with slots := (s.slots.filter fun y => !gone y).map place, swapsNow := x.core :: s.swapsNow }

/-- What the coursing unit does next with the sets of a core, if anything: a slot to bring in, a slot to take out. -/
inductive Swap where
  | bring (x : Slot) (out : Option Slot)
  | expel (out : Slot)
deriving DecidableEq, Repr

/-- A ready pending slot that is raised displaces the active slot last in key order, even a ready one (R316): that comes
before the issues of the clock. -/
def raisedSwap (s : State) (core : Nat) : Option Swap :=
  let act := coreSlots s core true
  if 2 ≤ s.swapsNow.count core || act.length < 8 then none
  else
    match readyPending s core with
    | some x => if slotRaised s x then (lastSlot s (act.filter fun y => decide (y.busy ≤ s.clock))).map fun y => .bring x (some y) else none
    | none => none

/-- The swaps of the end of a clock. Where a yielding slot, by YIELD or by the yield bit, and one in a long wait would both
leave for the one ready pending slot, the yielding one leaves, the last in key order of several: R62 and R316 do not say
(DESIGN CHOICE, log 87). -/
def nextSwap (s : State) (core : Nat) : Option Swap :=
  let act := coreSlots s core true
  let still := act.filter fun x => decide (x.busy ≤ s.clock) && !issuedJust s x
  let yields := still.filter Slot.leave
  let waits := still.filter fun y => !slotReady s y && longWait s y
  let offers := act.filter fun y => decide (y.busy ≤ s.clock) && y.offer
  if 2 ≤ s.swapsNow.count core then none
  else
    match readyPending s core with
    | none =>
      match lastSlot s yields with
      | some y => if (coreSlots s core false).length < 56 then some (.expel y) else none
      | none => none
    | some x =>
      if act.length < 8 then some (.bring x none)
      else
        match lastSlot s (yields ++ offers) with
        | some y => some (.bring x (some y))
        | none => (lastSlot s waits).map fun y => .bring x (some y)

/-- A YIELD that finds no ready pending slot and no free place in the pending set has nowhere to go: its slot stays, ready
again (R46; R127 and R316 do not say, DESIGN CHOICE, log 87). -/
def yieldLapses (s : State) (x : Slot) : Bool :=
  x.leave && x.active && !issuedJust s x && decide (56 ≤ (coreSlots s x.core false).length) && (readyPending s x.core).isNone

/-- What is due of a core's swaps: a wait that ends in the clock in which its swap would start keeps the slot (R316). -/
def dueSwap (s : State) (core : Nat) : Option Swap := if s.ending then nextSwap s core else raisedSwap s core
def slotSwapDue (s : State) (core : Nat) : Bool := (dueSwap s core).isSome

def execSlotSwap (core : Nat) (s : State) : Host.Outcome State Fault Refusal :=
  match dueSwap s core with
  | none => .next s
  | some (.bring x out) => done (swapIn s x out)
  | some (.expel y) =>
    let leave (x : Slot) : Slot := if x.id == y.id then { x with active := false, busy := s.clock + 2, leave := false, offer := false } else x
    done { s with slots := s.slots.map leave, swapsNow := core :: s.swapsNow }

/-! ### Forming (R319, R50) -/

def eligible (s : State) (core : Nat) (t : Thread) : Bool :=
  t.life == .parked && restartReady t && decide (t.gang < 32) &&
  (match s.block? t.bid with
    | some b => b.core == core && b.res == .resident && !b.newGangs.any (fun g => g.gang == t.gang) && !spawnWaits b t.uid
    | none => false) &&
  ((s.launch? t.lid).map fun l => !((l.term.map Term.stopped).getD false)).getD false

/-- A pallet of a split whose reconvergence header has been reached. -/
def ofReached (s : State) (t : Thread) : Bool :=
  match t.split, s.block? t.bid with
  | some i, some b => b.splits.any fun x => x.id == i && x.reached
  | _, _ => false

/-- Does pallet `t` decide the next header to form at, before `u`? -/
def formBefore (s : State) (t u : Thread) : Bool :=
  let rt := ofReached s t; let ru := ofReached s u
  let blk (t : Thread) : Nat := ((s.block? t.bid).map Block.idx).getD 0
  if rt != ru then rt
  else if t.parkedAt != u.parkedAt then decide (t.parkedAt < u.parkedAt)
  else if blk t != blk u then decide (blk t < blk u)
  else decide (t.tid ≤ u.tid)

def formFirst (s : State) : List Thread → Option Thread
  | [] => none
  | t :: ts =>
    match formFirst s ts with
    | none => some t
    | some u => some (if formBefore s t u then t else u)

/-- The pallets of the next slot. -/
def formSet (s : State) (core : Nat) : List Thread :=
  let es := s.threads.filter (eligible s core)
  match formFirst s es with
  | none => []
  | some t =>
    let here := (es.filter fun u => u.bid == t.bid && u.hdr == t.hdr).mergeSort fun a b => decide (a.tid ≤ b.tid)
    ((here.filter (ofReached s)) ++ (here.filter fun u => !ofReached s u)).take 32

def hasPlace (s : State) (core : Nat) : Bool :=
  decide ((coreSlots s core true).length < 8) || decide ((coreSlots s core false).length < 56)

def courseFormDue (s : State) (core : Nat) : Bool := hasPlace s core && !(formSet s core).isEmpty

/-- Threads re-formed at a header: those that have still to enter it do so now; a SPAWN child's entry must carry the
region flag (05 R118). -/
def resumeAt (s : State) (b : Block) (l : Launch) (ts : List Thread) (H : DWord) : State :=
  let uids := ts.map Thread.uid
  match fetchDword s b.core l.vf H with
  | (.error (.notPresent _), s) => holdOnPages s l.vf uids (uids.map fun u => (u, H)) H .fetch
  | (.error (.trap c), s) => if c == 0x06 then trapAll s uids 0x03 H 0 else trapAll s uids c H H
  | (.ok w, s) =>
    let bad (t : Thread) : Option TrapOf := (entryTrap l.rcd.budget t.spawned w).map fun c => ⟨t.uid, c, H, 0⟩
    let s := uids.foldl (fun s u => updThread s u fun t => { t with hword := w, spawned := false }) s
    let s := takeTraps s (ts.filterMap bad)
    standAt s b.bid b.core l.lid ((ts.filter fun t => t.entering && (bad t).isNone).map Thread.uid) H w

def execCourseForm (core : Nat) (s : State) : Host.Outcome State Fault Refusal :=
  if !hasPlace s core then .next s
  else
    match formSet s core with
    | [] => .next s
    | t0 :: ts =>
      match s.block? t0.bid, s.launch? t0.lid with
      | some b, some l =>
        let us := (t0 :: ts).map Thread.uid
        let (id, s) := fresh s
        let active := decide ((coreSlots s core true).length < 8)
        let wake (t : Thread) : Thread := { t with life := .inSlot, wait := .none, split := none }
        let s := us.foldl (fun s u => updThread s u wake) s
        let s := { s with slots := s.slots ++ [{ id := id, core := core, uids := us, active := active, stamp := s.clock }] }
        -- a split all of whose pallets have been formed is over
        let live (x : Split) : Bool := s.threads.any fun t => t.bid == b.bid && t.split == some x.id
        let s := updBlock s b.bid fun b => { b with splits := b.splits.filter live }
        done (resumeAt s b l (t0 :: ts) t0.hdr)
      | _, _ => .next s

/-! ### The end of a block after a wait -/

/-- Threads of a slot that have stayed at the end of their block while they waited, and wait no more. -/
def leavers (s : State) (x : Slot) : List Thread :=
  (freeThreads s x).filter fun t => decide ((Header.of t.hword).length ≤ t.idx)

/-- They enter the header that follows, charged to the block's last word (R53). -/
def leaveBlock (slot : Nat) (s : State) : State :=
  match s.slots.find? fun x => x.id == slot with
  | none => s
  | some x =>
    match leavers s x with
    | [] => s
    | t :: ts =>
      let Hn := t.hdr + 8 + BitVec.ofNat 64 (16 * t.idx)
      enterHeader s ((t :: ts.filter (sameWord t)).map Thread.uid) Hn (some (Hn - 16)) []

/-! ### Landings and waits that end -/

def fixedLandDue (s : State) (uid : Nat) : Bool := ((s.thread? uid).map fun t => t.pend.any fun p => p.dueAt s.clock).getD false

def execFixedLatencyWriteLand (uid : Nat) (s : State) : Host.Outcome State Fault Refusal :=
  if fixedLandDue s uid then done (updThread s uid fun t => landDue t s.clock) else .next s

/-- A result may land once no earlier write of fixed latency to the same register is outstanding (R63). -/
def variableLandDue (s : State) (uid id : Nat) : Bool :=
  ((s.thread? uid).map fun t => (t.pend.any fun p => p.id == id && p.due == .any) && !behindFixed t id).getD false

def execVariableResultLand (uid id : Nat) (s : State) : Host.Outcome State Fault Refusal :=
  if variableLandDue s uid id then done (landNow s uid id) else .next s

/-- R46: a ready thread that has not issued for 4,096 clocks; of one that is discarded and is to go on this holds too (R50). -/
def raiseDue (s : State) (uid : Nat) : Bool :=
  match s.thread? uid with
  | some t => !t.raised && decide (t.lastIssue + 4096 ≤ s.clock) &&
      (match s.slotOf? uid with
        | some x => (courseOf s x).any fun u => u.uid == uid
        | none => eligible s (coreOf s t) t)
  | none => false

def execThreadRaise (uid : Nat) (s : State) : Host.Outcome State Fault Refusal :=
  if raiseDue s uid then done (updThread s uid fun t => { t with raised := true }) else .next s

def holdOf (s : State) (bid hdr : Nat) : Option Hold :=
  (s.block? bid).bind fun b => b.holds.find? fun h => h.hdr.toNat == hdr
def mergeExpireDue (s : State) (bid hdr : Nat) : Bool := ((holdOf s bid hdr).map (holdDue s bid)).getD false

def execMergeHoldExpire (bid hdr : Nat) (s : State) : Host.Outcome State Fault Refusal :=
  match holdOf s bid hdr with
  | some h => if holdDue s bid h then done (closeHold s bid h.hdr) else .next s
  | none => .next s

def instOf (s : State) (bid inst : Nat) : Option XInst := (s.block? bid).bind fun b => b.xinsts.find? fun x => x.id == inst
def crossExpireDue (s : State) (bid inst : Nat) : Bool :=
  match instOf s bid inst with
  | some x => !x.expired && (x.opened.map fun c => decide (c + x.bound ≤ s.clock)).getD false
  | none => false

/-- R161: the bound of an instance has passed, and it executes with the members that have arrived. -/
def execCrosslaneExpire (bid inst : Nat) (s : State) : Host.Outcome State Fault Refusal :=
  match instOf s bid inst with
  | some x => if crossExpireDue s bid inst then done (xClose s bid x) else .next s
  | none => .next s

def sleepDue (s : State) (uid : Nat) : Bool :=
  match (s.thread? uid).map Thread.wait with
  | some (.sleep c) => decide (c ≤ s.clock)
  | _ => false

def execSleepExpire (uid : Nat) (s : State) : Host.Outcome State Fault Refusal :=
  if sleepDue s uid then done (updThread s uid fun t => { t with wait := .none }) else .next s

def packOf (s : State) (bid entry : Nat) : Option Pack := (s.block? bid).bind fun b => b.packs.find? fun p => p.entry.toNat == entry
/-- The pack closes before the words of that clock issue: a child of a SPAWN in it opens a new pack, which R119 leaves open
(DESIGN CHOICE, log 95). -/
def packCloseDue (s : State) (bid entry : Nat) : Bool := ((packOf s bid entry).map fun p => decide (p.opened + 16 ≤ s.clock)).getD false

def execSpawnPackClose (bid entry : Nat) (s : State) : Host.Outcome State Fault Refusal :=
  match packOf s bid entry with
  | some p => if p.opened + 16 ≤ s.clock then done (closePack s bid p.entry) else .next s
  | none => .next s

def gangReadyDue (s : State) (bid gang : Nat) : Bool :=
  ((s.block? bid).map fun b => b.newGangs.any fun g => g.gang == gang && decide (g.readyAt ≤ s.clock)).getD false

/-- A new gang may be formed; the children's start is an acquire at device scope (R120). -/
def execSpawnGangReady (bid gang : Nat) (s : State) : Host.Outcome State Fault Refusal :=
  match s.block? bid with
  | none => .next s
  | some b =>
    if gangReadyDue s bid gang then
      done (acquire (updBlock s bid fun b => { b with newGangs := b.newGangs.filter fun g => g.gang != gang }) b.core (vfOf s b.lid) .dv)
    else .next s

def recordFreeDue (s : State) (uid : Nat) : Bool := ((s.thread? uid).map recordFreeable).getD false

def execThreadRecordFree (uid : Nat) (s : State) : Host.Outcome State Fault Refusal :=
  match s.thread? uid with
  | some t => if recordFreeable t then done (freeRecord s t) else .next s
  | none => .next s

end Sys2Proof.Machine
end

