-- ==== Sys2Proof/Machine/Paging.lean ====
section
/-! DEFINITION. Demand paging (11 R266, R272–R277, 08 R198, R212, 21 R368): the walk of a requester, the pending tables,
the fault ring and the response ring, and what each answer does. -/

namespace Sys2Proof.Machine

/-! ### The two rings (Table 11-4), in function 0's space -/

def ctlField (s : State) (lo w : Nat) : Nat := barField s 0 0x20000 lo w
def frhdr (s : State) : DWord := BitVec.ofNat 64 (ctlField s 448 64)
def rrhdr (s : State) : DWord := BitVec.ofNat 64 (ctlField s 384 64)

/-- Adds to a counter of a ring's header; `rel` when with release at system scope. -/
def bumpRing (s : State) (hdr : DWord) (off n : Nat) (rel : Bool := false) : State :=
  if n = 0 then s
  else
    let (v, s) := devNat s 0 (addrAt hdr off) 4
    devPut s 0 (addrAt hdr off) 4 (v + n) rel

/-! ### Fault entries (Table 11-5) -/

def accCode : Acc → Nat
  | .load => 0 | .store => 1 | .atomic => 2 | .fetch => 3 | .engineRead => 4 | .engineWrite => 5

/-- Who a requester is in a fault entry. -/
structure ReqInfo where
  lid : Nat
  bid : Nat
  tid : Nat
  merged : Nat
  req : Nat

/-- Those of some threads with the lowest sr.tid. -/
def lowestThread : List Thread → Option Thread
  | [] => none
  | t :: ts =>
    match lowestThread ts with
    | none => some t
    | some u => some (if t.tid ≤ u.tid then t else u)

def reqInfo (s : State) (who : Requester) : Option ReqInfo :=
  match who with
  | .threads us own =>
    (lowestThread ((if own.isEmpty then us else own).filterMap s.thread?)).map fun t => ⟨t.lid, t.bid, t.tid, own.length, 0⟩
  | .engine op req n => (s.op? op).map fun o => ⟨o.lid, o.bid, noThread, n, req⟩
  | .stream bid => (s.block? bid).map fun b => ⟨b.lid, bid, noThread, 1, 5⟩

def faultBits (s : State) (w : Walk) (i : ReqInfo) (first : Bool) : BitVec 256 :=
  let tag : DWord := ((s.launch? i.lid).map fun (l : Launch) => l.rcd.tag).getD 0
  let blk := ((s.block? i.bid).map Block.idx).getD 0
  BitVec.ofNat 256 (boolBit first + s.faultSeq.toNat * 2 ^ 8 + w.page % 8 * 2 ^ 29 + accCode w.acc * 2 ^ 32 + i.req * 2 ^ 36 +
    w.vf * 2 ^ 40 + max 1 (min i.merged 65535) * 2 ^ 48 + blk * 2 ^ 64 + i.tid * 2 ^ 96 + tag.toNat * 2 ^ 128 +
    (vaOf (w.page * 2 ^ 16)).toNat * 2 ^ 192)

/-- An entry whose turn it is: written and published, or held on a full ring, which counts it once (R273). -/
def writeFault (s : State) (e : FaultEntry) (rest : List FaultEntry) : State :=
  let hdr := frhdr s
  match devRead s 0 hdr 32 with
  | (none, s) => { s with heldFaults := rest }
  | (some h, s) =>
    let cap := natAt h 20 4; let head := natAt h 12 4; let tail := natAt h 8 4
    if cap ≤ (tail + 2 ^ 32 - head) % 2 ^ 32 then
      let s := if e.counted then s else bumpRing s hdr 16 1
      { s with heldFaults := { e with counted := true, polled := s.clock } :: rest }
    else
      let s := (devWrite s 0 (addrAt (BitVec.ofNat 64 (natAt h 24 8)) (32 * (tail % cap))) (bytesOf 32 e.bits.toNat)).2
      let s := devPut s 0 (addrAt hdr 8) 4 (tail + 1) true
      { s with heldFaults := rest, service := { s.service with pending := true } }

/-- A fault entry of a walk; it goes behind those that wait. -/
def postFault (s : State) (w : Walk) (first : Bool) : State :=
  match reqInfo s w.who with
  | none => s
  | some i =>
    let e : FaultEntry := { bits := faultBits s w i first }
    let s := { s with faultSeq := s.faultSeq + 1 }
    if s.heldFaults.isEmpty then writeFault s e [] else { s with heldFaults := s.heldFaults ++ [e] }

/-- The front entry reads head again every 256 clocks; one that has just come to the front reads it at once. -/
def faultPollDue (s : State) : Bool :=
  match s.heldFaults with
  | [] => false
  | e :: _ => !e.counted || decide (e.polled + 256 ≤ s.clock)

def execFaultRingHeadPoll (s : State) : Host.Outcome State Fault Refusal :=
  match s.heldFaults with
  | [] => .next s
  | e :: rest => if faultPollDue s then done (writeFault s e rest) else .next s

/-! ### What becomes of a requester -/

def unholdThread (page : Nat) (t : Thread) : Thread :=
  { t with heldPages := t.heldPages.filter (· != page), ownFaults := t.ownFaults.filter fun f => f.page != page }
def unholdThreads (s : State) (page : Nat) (us : List Nat) : State :=
  us.foldl (fun s u => updThread s u (unholdThread page)) s

/-- An uncounted command that no longer waits for a page goes on. -/
def retryOp (s : State) (op : Nat) : State :=
  match s.op? op with
  | none => s
  | some o =>
    if !o.held.isEmpty then s
    else
      match o.work with
      | .slot _ _ => trySlot s op
      | .ropen _ _ => tryRopen s op
      | .topen _ _ => tryTopen s op
      | _ => s

def answerWork (page : Nat) (deny : Bool) (endCode : Option (BitVec 8)) : Work → Work
  | .gather g => .gather (answerElements g page deny endCode)
  | w => w
/-- The page is answered for an engine operation. -/
def unholdOp (s : State) (op page : Nat) (deny : Bool) (endCode : Option (BitVec 8)) : State :=
  updOp s op fun o => { o with held := o.held.filter (· != page), work := answerWork page deny endCode o.work }

/-- What an operation has seen of memory, with the frame of a page as it stands now: the operation reads a page that has come
no earlier than that (R198, R212). -/
def freshFrame (s : State) (vf page : Nat) (m : List Host.Cell) : List Host.Cell :=
  match (translate s vf (vaOf (page * 2 ^ 16)) none).1 with
  | .frame key _ _ =>
    let inFrame (c : Host.Cell) : Bool := c.1 / 2 ^ 16 == key / 2 ^ 16
    (s.mem.filter inFrame).foldl (fun (m : Sparse 8) c => m.set c.1 c.2) (m.filter fun c => !inFrame c)
  | _ => m
/-- The page has come, or is asked for again. -/
def mapOp (s : State) (op page : Nat) : State :=
  let s := unholdOp s op page false none
  updOp s op fun o => { o with past := o.past.map (freshFrame s o.vf page) }

/-- The requester tries again (R276): a course restarts once all its pages are answered, an engine goes on. -/
def retryReq (s : State) (page : Nat) (who : Requester) : State :=
  match who with
  | .threads us _ => unholdThreads s page us
  | .engine op _ _ => retryOp (mapOp s op page) op
  | .stream bid => updStream s bid fun x => { x with heldPages := x.heldPages.filter (· != page) }

/-- The address of a stream's fetch that lies on a page, and the word it fetches. -/
def streamVa (x : Stream) (page : Nat) : DWord × DWord :=
  if !x.fetched then (x.pc, x.pc)
  else
    let w := if x.skip ≠ 0 then x.pc + 8 + BitVec.ofNat 64 (16 * (x.len - 1)) else x.wordPc
    (w, if pageOf w == page then w else w + 8)

/-- An engine operation ends without the rest of its effect (R198, R216). -/
def abortOp (s : State) (o : EOp) : State :=
  match o.work with
  | .fill _ _ _ => endTileOp s o
  | .store _ _ _ _ => endTileOp s o
  | .slot a _ => trySlots (finishOp s o [] []) o.vf a
  | .ring _ => abortPosts (updOp s o.id fun o => { o with held := [] }) o
  | .replay rid => { finishOp s o [] [] with replays := s.replays.filter fun r => r.rid != rid }
  | .scope sid => (match s.scope? sid with | some x => loseScope s x | none => finishOp s o [] [])
  | .ropen _ _ => finishOp s o [] []
  | .topen _ _ => finishOp s o [] []
  | .coll _ => finishOp s o [] []
  | .gather _ => finishOp s o [] []
  | .mpost => finishOp s o [] []
  | .mrecv => finishOp s o [] []

/-- Are elements of a gather-family command parked on the page? -/
def parkedOn (o : EOp) (page : Nat) : Bool :=
  match o.work with
  | .gather g => g.parked.any fun x => x.2.1 == page
  | _ => false

/-- A slot command whose page is not mapped: it completes with the writes it has made, and meets the page no more (R216,
log 73). An SLBIND binds nothing. -/
def failSlot (s : State) (o : EOp) (page : Nat) (quiet : Bool) : State :=
  let s := updOp s o.id fun o => { o with held := o.held.filter (· != page), denied := page :: o.denied, quiet := quiet }
  let trapped (s : State) : State := trapOwner s { o with quiet := quiet } 0x10 o.heldVa
  match o.work with
  | .slot _ (.bind _ _) => abortOp (trapped s) o
  | _ => if s.posts.any (fun x => x.op == o.id) then abortPosts (trapped s) ((s.op? o.id).getD o) else retryOp s o.id

/-- Deliver-trap (R171, R198, R212, R216): the lanes that faulted trap, the others of the course go on (log 27); elements
fault; an engine's thread traps. -/
def denyReq (s : State) (page : Nat) (who : Requester) : State :=
  match who with
  | .threads us own =>
    let xs := own.filterMap fun u => (s.thread? u).bind fun t => (t.ownFaults.find? fun f => f.page == page).map fun f =>
      (⟨u, 0x10, f.pc, f.va⟩ : TrapOf)
    unholdThreads (takeTraps s xs) page us
  | .engine op _ _ =>
    match s.op? op with
    | none => s
    | some o =>
      if parkedOn o page then unholdOp s op page true none
      else
        match o.work with
        | .slot _ _ => failSlot s o page false
        | .coll _ => denyColl (trapOwner s o 0x10 o.heldVa) o page
        | .fill _ _ _ => endTileOp (engineFails s o 0x10 o.heldVa) o
        | .store _ _ _ _ => endTileOp (engineFails s o 0x10 o.heldVa) o
        | _ => abortOp (trapOwner s o 0x10 o.heldVa) o
  | .stream bid =>
    match (s.block? bid).bind Block.stream with
    | some x =>
      let (pc, va) := streamVa x page
      stopSequencer (updStream s bid fun x => { x with heldPages := x.heldPages.filter (· != page) }) bid 0x10 pc va
    | none => s

/-- The launch of a requester. -/
def reqLaunch (s : State) (who : Requester) : List Nat :=
  match who with
  | .threads us _ => ((us.filterMap s.thread?).map Thread.lid).dedup
  | .engine op _ _ => ((s.op? op).map EOp.lid).toList
  | .stream bid => ((s.block? bid).map Block.lid).toList

/-- Terminate-launch frees the requester (R198, R301): parked elements end with the code, an engine operation ends,
a slot command with the writes it has made (R216), and the sequencer whose fill it is stops (Table 9-1, log 73). -/
def endReq (s : State) (page : Nat) (code : BitVec 8) (who : Requester) : State :=
  match who with
  | .engine op _ _ =>
    match s.op? op with
    | some o =>
      if parkedOn o page then unholdOp s op page false (some code)
      else
        match o.work with
        | .slot _ _ => failSlot s o page true
        | .coll _ => denyColl s o page
        | .fill _ _ _ => abortOp (if o.uid.isNone then stopSequencer s o.bid code o.pc o.heldVa else s) o
        | _ => abortOp s o
    | none => s
  | _ => retryReq s page who

/-! ### PAGE_WALK_COMPLETE (R266, R268, R272) -/

def findPending (s : State) (vf page : Nat) : Option Pending := s.pending.find? fun p => p.vf == vf && p.page == page
/-- 512 pages of one translation unit. -/
def tableFull (s : State) (unit : Nat) : Bool := decide (512 ≤ (s.pending.filter fun p => p.page % 8 == unit).length)

def walkGone (s : State) (w : Walk) : Bool :=
  match w.who with
  | .threads us _ => us.all fun u => (s.thread? u).isNone
  | .engine op _ _ => (s.op? op).isNone
  | .stream bid => (s.block? bid).isNone

/-- A walk that would find its page absent waits for an entry of a full table. -/
def walkBlocked (s : State) (w : Walk) : Bool :=
  frhdr s != 0 && (findPending s w.vf w.page).isNone && tableFull s (w.page % 8) &&
  (match (translate s w.vf (vaOf (w.page * 2 ^ 16)) (some w.acc)).1 with
    | .notPresent => true
    | _ => false)

/-- A unit runs 64 walks at once; the rest wait in their order. -/
def pageWalkDue (s : State) (id : Nat) : Bool :=
  match s.walks.find? fun w => w.id == id with
  | none => false
  | some w => ((s.walks.filter fun v => v.page % 8 == w.page % 8).take 64).any (fun v => v.id == id) && !walkBlocked s w

def isGather : Requester → Bool
  | .engine _ req _ => req == 2
  | _ => false
/-- A gather-family command counts the entries it posts (R211). -/
def countPosted (s : State) (who : Requester) : State :=
  match who with
  | .engine op _ _ => updOp s op fun o =>
      match o.work with
      | .gather g => { o with work := .gather { g with posted := g.posted + 1 } }
      | _ => o
  | _ => s

/-- R272: the requester is held on the page's entry. -/
def pageFault (s : State) (w : Walk) : State :=
  if frhdr s = 0 then denyReq s w.page w.who
  else
    match findPending s w.vf w.page with
    | some _ =>
      let s : State := { s with pending := s.pending.map fun p =>
        if p.vf == w.vf && p.page == w.page then { p with who := p.who ++ [w.who] } else p }
      if isGather w.who then postFault (countPosted s w.who) w false else s
    | none =>
      let s : State := { s with pending := s.pending ++ [⟨w.vf, w.page, [w.who]⟩] }
      postFault (countPosted s w.who) w true

def execPageWalkComplete (id : Nat) (s : State) : Host.Outcome State Fault Refusal :=
  match s.walks.find? fun w => w.id == id with
  | none => .next s
  | some w =>
    if !pageWalkDue s id then .next s
    else
      match translate s w.vf (vaOf (w.page * 2 ^ 16)) (some w.acc) with
      | (x, s) =>
        let s : State := { s with walks := s.walks.filter fun v => v.id != id }
        if walkGone s w then done s
        else
          match x with
          | .notPresent => done (pageFault s w)
          | _ => done (retryReq s w.page w.who)

/-! ### The response ring (R273, R275) -/

/-- An entry as read: none when it is refused. -/
def decodeResponse (bs : List Byte) : Option Response :=
  let f := bitsN (Sys2Proof.ofBytes bs)
  let kind := f 0 8; let code := f 32 8; let vf := f 40 8
  let va : DWord := BitVec.ofNat 64 (f 192 64)
  let aux : DWord := BitVec.ofNat 64 (f 128 64)
  let pageVa (a : DWord) : Bool := canonicalVa a && a.toNat % 2 ^ 16 == 0
  let auxOk := if kind = 4 then aux.toNat != 0 && aux.toNat % 2 ^ 16 == 0 else if kind = 5 then pageVa aux else aux == 0
  let codeOk := if kind = 2 then decide (0x20 ≤ code) && decide (code ≤ 0x2F) else code == 0
  if kind = 0 || 6 < kind || 96 < vf || !pageVa va || !auxOk || !codeOk || f 48 80 != 0 || f 24 8 != 0 then none
  else some ⟨kind, vf, pageOf va, aux, BitVec.ofNat 8 code⟩

/-- Entries `i`, `i + 1`, … of the ring, and how many were refused. -/
def readResponses (ent : DWord) (cap : Nat) : Nat → Nat → State → List Response × Nat × State
  | 0, _, s => ([], 0, s)
  | n + 1, i, s =>
    match devRead s 0 (addrAt ent (32 * (i % cap))) 32 with
    | (none, s) => ([], 0, s)
    | (some bs, s) =>
      let (rs, bad, s) := readResponses ent cap n (i + 1) s
      match decodeResponse bs with
      | some r => (r :: rs, bad, s)
      | none => (rs, bad + 1, s)

def responseReadDue (s : State) : Bool :=
  rrhdr s != 0 &&
  (match (devRead s 0 (rrhdr s) 32).1 with
    | some h => natAt h 8 4 != natAt h 12 4 && natAt h 20 4 != 0
    | none => false)

def execResponseRingRead (s : State) : Host.Outcome State Fault Refusal :=
  if !responseReadDue s then .next s
  else
    match devRead s 0 (rrhdr s) 32 with
    | (none, s) => done s
    | (some h, s) =>
      let cap := natAt h 20 4; let head := natAt h 12 4; let tail := natAt h 8 4
      let (rs, bad, s) := readResponses (BitVec.ofNat 64 (natAt h 24 8)) cap (min ((tail + 2 ^ 32 - head) % 2 ^ 32) cap) head s
      let s := bumpRing { s with responses := s.responses ++ rs } (rrhdr s) 0 bad
      done (devPut s 0 (addrAt (rrhdr s) 12) 4 tail true)

/-! ### The answers (R276) -/

/-- Is this the response whose turn it is? -/
def responseDue (s : State) (kind vf page : Nat) (aux : DWord) (code : BitVec 8) : Bool :=
  match s.responses with
  | r :: _ => r == ⟨kind, vf, page, aux, code⟩
  | [] => false

/-- The response leaves the queue, and the pending entry it answers is freed. -/
def takeResponse (s : State) (vf page : Nat) : List Requester × State :=
  let who := ((findPending s vf page).map Pending.who).getD []
  (who, { s with responses := s.responses.drop 1, pending := s.pending.filter fun p => !(p.vf == vf && p.page == page) })

def execResponseMapped (vf page : Nat) (s : State) : Host.Outcome State Fault Refusal :=
  if !responseDue s 1 vf page 0 0 then .next s
  else
    let (who, s) := takeResponse s vf page
    done (who.foldl (fun s w => retryReq s page w) s)

def execResponseDeliverTrap (vf page : Nat) (s : State) : Host.Outcome State Fault Refusal :=
  if !responseDue s 3 vf page 0 0 then .next s
  else
    let (who, s) := takeResponse s vf page
    done (who.foldl (fun s w => denyReq s page w) s)

/-- The lanes of a launch whose own access faulted on the page. -/
def namedLanes (s : State) (lid : Nat) (who : List Requester) : List Thread :=
  ((who.flatMap fun w => match w with | .threads _ own => own | _ => []).filterMap s.thread?).filter fun t => t.lid == lid

/-- Is the launch's requester a sequencer's automatic fill? -/
def holdsFill (s : State) (who : List Requester) (lid : Nat) : Bool :=
  who.any fun w => match w with
    | .engine op _ _ => ((s.op? op).map fun o => o.lid == lid && o.uid.isNone && (match o.work with | .fill _ _ _ => true | _ => false)).getD false
    | _ => false

/-- R276, R385: a launch with a requester held on the page is terminated by the service. Where no lane is named and an
automatic fill was held, the record is that of the sequencer's stop (09 R238, log 73). -/
def serviceEnds (s : State) (page : Nat) (code : BitVec 8) (who : List Requester) (lid : Nat) : State :=
  let ts := namedLanes s lid who
  if ts.isEmpty && holdsFill s who lid then s else
  let (d, s) := draw s 257
  let named := lowestThread ts
  let blk := (named.bind fun t => s.block? t.bid).map Block.idx
  beginTerm s lid { kind := 3, code := code, tid := (named.map Thread.tid).getD noThread, blk := blk.getD noThread,
                    va := vaOf (page * 2 ^ 16), nthr := ts.length, clock := s.clock, stopAt := s.clock + d }

def execResponseTerminateLaunch (vf page : Nat) (code : BitVec 8) (s : State) : Host.Outcome State Fault Refusal :=
  if !responseDue s 2 vf page 0 code then .next s
  else
    let (who, s) := takeResponse s vf page
    let s := (who.flatMap (reqLaunch s)).dedup.foldl (fun s l => serviceEnds s page code who l) s
    done (who.foldl (fun s w => endReq s page code w) s)

/-! ### Shoot-downs and aliases -/

def inRange (vf page pages k : Nat) : Bool :=
  keyVf k == vf && decide (page ≤ keyVa k / 2 ^ 16) && decide (keyVa k / 2 ^ 16 < page + pages)
def placeVault : Place → Bool
  | .vault _ => true
  | _ => false
/-- Does a cached translation entry cover part of the range? -/
def tlbCovers (vf page pages k : Nat) : Bool :=
  let u := k / 2 ^ 57
  let sh := levelShift (u % 4)
  u / 4 % 128 == vf && decide ((page * 2 ^ 16) >>> sh ≤ k % 2 ^ 57) && decide (k % 2 ^ 57 ≤ (((page + pages) * 2 ^ 16 - 1) >>> sh))

/-- Every line of the range is written back and discarded, after the function's accesses to it that have been issued, and
the cached entries that cover it are dropped. -/
def shootRange (s : State) (vf page pages : Nat) : State :=
  let s := settle s fun x => x.vf == vf && !placeVault x.place
  let s := expelL2 (flushL1 s (inRange vf page pages)) (inRange vf page pages)
  { s with tlb := s.tlb.filter fun k => !tlbCovers vf page pages k.1 }

def beginShoot (s : State) (vf page pages : Nat) : State :=
  let (id, s) := fresh s
  let s := shootRange s vf page pages
  { s with shoots := s.shoots ++ [⟨id, vf, page, pages⟩] }

/-- Responses of kinds 4 to 6 completed. -/
def countDone (s : State) : State := bumpRing s (rrhdr s) 4 1 true

def dropResponse (s : State) : State := { s with responses := s.responses.drop 1 }

def execResponseShootDown (vf page len : Nat) (s : State) : Host.Outcome State Fault Refusal :=
  if !responseDue s 4 vf page (BitVec.ofNat 64 (len * 2 ^ 16)) 0 then .next s
  else done (beginShoot (dropResponse s) vf page len)

def execShootDownComplete (id : Nat) (s : State) : Host.Outcome State Fault Refusal :=
  match s.shoots.find? fun x => x.id == id with
  | none => .next s
  | some x =>
    let s := shootRange s x.vf x.page x.pages
    done (countDone { s with shoots := s.shoots.filter fun y => y.id != id })

def execResponseDeclareAlias (vf page canon : Nat) (s : State) : Host.Outcome State Fault Refusal :=
  if !responseDue s 5 vf page (vaOf (canon * 2 ^ 16)) 0 then .next s
  else
    let s := dropResponse s
    if 4096 ≤ s.synonyms.length || s.synonyms.any (fun a => a.vf == vf && a.page == page) then done (bumpRing s (rrhdr s) 0 1)
    else done (countDone { s with synonyms := s.synonyms ++ [⟨vf, page, canon⟩] })

def execResponseRemoveAlias (vf page : Nat) (s : State) : Host.Outcome State Fault Refusal :=
  if !responseDue s 6 vf page 0 0 then .next s
  else
    let s := dropResponse s
    done (beginShoot { s with synonyms := s.synonyms.filter fun a => !(a.vf == vf && a.page == page) } vf page 1)

end Sys2Proof.Machine
end

