-- ==== Sys2Proof/Machine/Place.lean ====
section
/-! DEFINITION. Groups waiting for room (01 R17, 14 R305, R309–R314, 19 R348), the sharing of the rest between functions
(R312), pre-emption and resumption of blocks (11 R278, R279, 19 R356) and of a function (R280, 21 R367). -/

namespace Sys2Proof.Machine

/-! ### Which groups wait -/

/-- Is the function suspended, or on its way there (R280)? While it resumes it runs again. -/
def fnHalted (s : State) (vf : Nat) : Bool :=
  match s.suspending.find? fun x => x.1 == vf with
  | some x => x.2
  | none => fnField s vf 3 1 == 1

def groupWaits (s : State) (l : Launch) : Bool :=
  decide (l.placed * l.rcd.group < l.rcd.nblk) && l.term.isNone && !fnHalted s l.vf &&
  -- first groups of one queue's launches in acceptance order (R305)
  (l.placed != 0 || l.queue.isNone ||
    s.launches.all fun k => !(k.vf == l.vf && k.queue == l.queue && k.placed == 0 && decide (k.lid < l.lid)))

/-! ### Room (R309, R310, R313, R314) -/

def saveFits (s : State) (l : Launch) : Bool := (reserveFit s l.vf (List.replicate l.rcd.group (saveBytes l.rcd))).isSome

def genericCore (s : State) (r : LaunchRec) (core : Nat) : Bool := coreOpen s core && mayBorrow s (coreQuad core) (groupSave r)

/-- Every block of a list on its own core. -/
def fitEach (r : LaunchRec) : List Nat → List Occ → Option (List Occ)
  | [], _ => some []
  | c :: cs, occ =>
    match fitOn occ r c with
    | none => none
    | some o => (fitEach r cs (o :: occ)).map fun os => o :: os

/-- Does a block fit at pages already chosen? -/
def fitsAt (occ : List Occ) (o : Occ) : Bool :=
  coreHolds occ o.core o.budget o.gangs 1 &&
  decide (((occ.filter fun p => coreQuad p.core == coreQuad o.core).map Occ.planes).sum + o.planes ≤ 4) &&
  [o.vrun, o.prun].all fun x => (runs occ).all fun y =>
    x.2 == 0 || y.2 == 0 || decide (x.1 + x.2 ≤ y.1) || decide (y.1 + y.2 ≤ x.1)
def allFit : List Occ → List Occ → Bool
  | [], _ => true
  | o :: os, occ => fitsAt occ o && allFit os (o :: occ)

/-- The room held for a launch's first group. -/
def reservedRoom (l : Launch) : List Occ :=
  l.reserved.map fun (x : Nat × Nat) =>
    ⟨x.1, recGangs l.rcd, l.rcd.budget, (x.2 / 1024, l.rcd.vault), (x.2 % 1024 + coreQuad x.1 * 128, l.rcd.pallet), recPlanes l.rcd⟩

/-- Where a group without a reservation goes: pass 1 of a replay and every queue's group by R313 and R314, a later pass
block by block where pass 1 ran it (R321). -/
def planGroup (s : State) (l : Launch) : Option (List Occ) :=
  let occ := occupants s (fun _ => true) ++ reservedOcc s none
  let first := l.placed * l.rcd.group
  let generic := placeGroup l.rcd first occ (genericCore s l.rcd)
  if !groupWaits s l || !saveFits s l then none
  else
    match l.parent with
    | .queue => generic
    | .entrant _ _ => none
    | .replay rid =>
      match s.replay? rid with
      | none => none
      | some r =>
        if r.pass ≤ 1 then generic
        else
          let cores := (List.range l.rcd.group).filterMap fun j => (r.places.find? fun p => p.1 == first + j).map Prod.snd
          if cores.all (genericCore s l.rcd) then fitEach l.rcd cores occ else none

/-- The reserved room, which no other work takes, once nothing is left in it, and no scope whose unit it lies in runs (R311). -/
def planReserved (s : State) (l : Launch) : Option (List Occ) :=
  let room := reservedRoom l
  let occ := occupants s fun _ => true
  if groupWaits s l && saveFits s l && room.all (fun o => coreUp s o.core) && allFit room occ &&
      !s.blocks.any (fun b => b.res != .saved && room.any fun o => (scopeUnit s b.lid).contains o.core) then some room else none

/-- A free slot of an entrant's cores (R348). The survivors of a scope that has ended run on, their waiting blocks on the
cores handed to them (R354, R355, log 74). -/
def planEntrant (s : State) (l : Launch) (sid idx : Nat) : Option (Tourn × Occ) :=
  match s.scope? sid with
  | none => none
  | some x =>
    match x.entrants.find? fun e => e.idx == idx with
    | none => none
    | some e =>
      if !groupWaits s l || !saveFits s l || !e.alive || x.writing != 0 ||
          s.blocks.any (fun b => x.entrants.any (fun e => e.lid == b.lid) && (b.wanted || b.res != .resident)) then none
      else (entrantRoom s x e l.rcd).map fun o => (x, o)

/-! ### Deficit-weighted round robin (R312) -/

def deficitOf (s : State) (vf : Nat) : Int := ((s.deficits.find? fun d => d.vf == vf).map Deficit.d).getD 0
def setDeficit (s : State) (vf : Nat) (f : Deficit → Deficit) : State :=
  if s.deficits.any (fun d => d.vf == vf) then
    { s with deficits := s.deficits.map fun d => if d.vf == vf then f d else d }
  else { s with deficits := s.deficits ++ [f { vf := vf, d := 0 }] }

/-- Does the launch compete for shared room? -/
def shares (l : Launch) : Bool :=
  l.reserved.isEmpty && (match l.parent with | .entrant _ _ => false | _ => true)

def queueOrder (x y : Launch) : Bool :=
  decide (x.queue.getD 0 < y.queue.getD 0) || (x.queue.getD 0 == y.queue.getD 0 && decide (x.lid ≤ y.lid))
/-- The function's waiting groups in ascending queue order. -/
def waitingOf (s : State) (vf : Nat) : List Launch :=
  (s.launches.filter fun l => l.vf == vf && shares l && groupWaits s l).mergeSort queueOrder
/-- The function's next group, with its room. -/
def nextGroup (s : State) (vf : Nat) : Option (Launch × List Occ) :=
  (waitingOf s vf).findSome? fun l => (planGroup s l).map fun r => (l, r)

/-- Functions from the one visited on, wrapping around. -/
def visitOrder (s : State) : List Nat := (List.range 97).map fun i => (s.visiting + i) % 97
def nextVisit (s : State) : Option Nat := (visitOrder s).find? fun v => (nextGroup s v).isSome

def deficitVisitDue (s : State) : Bool :=
  match nextVisit s with
  | some v => decide (deficitOf s v ≤ 0) || v != s.visiting
  | none => false

def weightOf (s : State) (vf : Nat) : Int :=
  let w := fnField s vf 8 8
  if w = 0 then 1 else w

/-- A visit: with D ≤ 0 it adds w × 2^30 and moves on; with D > 0 the device stays to place the function's groups. -/
def execDeficitVisit (s : State) : Host.Outcome State Fault Refusal :=
  match nextVisit s with
  | none => .next s
  | some v =>
    if !deficitVisitDue s then .next s
    else if deficitOf s v ≤ 0 then
      done { setDeficit s v fun d => { d with d := d.d + weightOf s v * 2 ^ 30 } with visiting := (v + 1) % 97 }
    else done { s with visiting := v }

/-! ### GROUP_PLACE -/

/-- Where pass 1 of a replay ran its blocks. -/
def notePlaces (s : State) (l : Launch) (room : List Occ) : State :=
  match l.parent with
  | .replay rid => updReplay s rid fun r =>
      if r.pass ≤ 1 then
        { r with places := r.places ++ ((List.range room.length).zip room).map fun x => (l.placed * l.rcd.group + x.1, x.2.core) }
      else r
  | _ => s

def inHomes (s : State) (room : List Occ) : Bool := room.any fun o => (homeOwner s (coreQuad o.core)).isSome

/-- The room a launch's next group may take now, and what it is. -/
inductive Placing where
  | held (room : List Occ)
  | shared (room : List Occ)
  | slot (x : Tourn) (o : Occ)

def placing (s : State) (l : Launch) : Option Placing :=
  match l.parent with
  | .entrant sid idx => (planEntrant s l sid idx).map fun x => .slot x.1 x.2
  | _ =>
    if !l.reserved.isEmpty then (planReserved s l).map .held
    else if nextVisit s == some l.vf && s.visiting == l.vf && decide (0 < deficitOf s l.vf) then
      match nextGroup s l.vf with
      | some (k, r) => if k.lid = l.lid then some (.shared r) else none
      | none => none
    else none

def groupPlaceDue (s : State) (lid : Nat) : Bool := ((s.launch? lid).bind (placing s)).isSome

def execGroupPlace (lid : Nat) (s : State) : Host.Outcome State Fault Refusal :=
  match s.launch? lid with
  | none => .next s
  | some l =>
    match placing s l with
    | none => .next s
    | some (.slot x o) => done (startEntrantBlock s x l o)
    | some (.held room) => done (startGroup s lid room false)
    | some (.shared room) => done (startGroup (notePlaces s l room) lid room (inHomes s room))

/-! ### Starvation -/

/-- Does a block run outside its own queue's home quads? -/
def outsideHomes (s : State) (b : Block) : Bool :=
  match s.launch? b.lid with
  | some l => (match l.queue with | some q => !(homesOf s l.vf q).contains (coreQuad b.core) | none => true)
  | none => false
def outsideBlocks (s : State) (vf : Nat) : List Block :=
  s.blocks.filter fun b => b.res == .resident && vfOf s b.lid == vf && outsideHomes s b

def earliest : List Block → Option Block
  | [] => none
  | b :: bs =>
    match earliest bs with
    | none => some b
    | some c => some (if b.placedAt ≤ c.placedAt then b else c)

/-- The function with the lowest negative deficit. -/
def mostIndebted (ds : List Deficit) : Option Deficit :=
  match ds with
  | [] => none
  | d :: ds =>
    match mostIndebted ds with
    | some e => some (if d.d < 0 && decide (d.d ≤ e.d) then d else e)
    | none => if d.d < 0 then some d else none

/-- The group to be pre-empted for a starved function, if any. -/
def starvationVictim (s : State) (vf : Nat) : Option Block :=
  let since := ((s.deficits.find? fun d => d.vf == vf).bind Deficit.since)
  if decide (deficitOf s vf ≤ 0) || !((since.map fun c => decide (c + 2 ^ 22 ≤ s.clock)).getD false) || (waitingOf s vf).isEmpty ||
      (nextGroup s vf).isSome || s.blocks.any (fun b => b.wanted || b.res == .saving) then none
  else (mostIndebted s.deficits).bind fun d => earliest (outsideBlocks s d.vf)

def deficitStarvationDue (s : State) (vf : Nat) : Bool := (starvationVictim s vf).isSome

def execDeficitStarvation (vf : Nat) (s : State) : Host.Outcome State Fault Refusal :=
  match starvationVictim s vf with
  | none => .next s
  | some b => done (wantGroups s [groupOf s b])

/-- One clock of R312: blocks outside their homes cost their function the lane registers they hold; a function with no
group waiting keeps no credit. -/
def chargeDeficits (s : State) : State :=
  let vfs := ((s.blocks.map fun b => vfOf s b.lid) ++ (s.launches.map Launch.vf) ++ s.deficits.map Deficit.vf).dedup
  vfs.foldl (fun s v =>
    let cost := ((outsideBlocks s v).map fun b => let o := occOf s b; o.gangs * 32 * o.budget).sum
    let waits := !(waitingOf s v).isEmpty
    let clk := s.clock
    setDeficit s v fun d =>
      let d' : Int := d.d - cost
      { d with d := if !waits && decide (0 < d') then 0 else d',
               since := if waits then (match d.since with | some c => some c | none => some clk) else none }) s

/-! ### Pre-emption (R278) -/

/-- Blocks of one scope are pre-empted together (R356). -/
def scopeLids (s : State) (lid : Nat) : List Nat :=
  match entrantOf s lid with
  | some (x, _) => x.entrants.map Entrant.lid
  | none => [lid]

/-- A block whose threads stand at headers whose charges are still to be made keeps going until the end of the clock (19 R350);
by then each of them has entered or is saved there (R36). -/
def blockPreemptDue (s : State) (bid : Nat) : Bool :=
  ((s.block? bid).map fun b => b.wanted && b.res == .resident).getD false && !s.threads.any fun t => t.bid == bid && t.gate.isSome

def pauseStream (x : Stream) : Stream := { x with pausing := true }
/-- Running and waiting threads go to their latest saves; the stream is to stop (R255). -/
def execBlockPreempt (bid : Nat) (s : State) : Host.Outcome State Fault Refusal :=
  match s.block? bid with
  | none => .next s
  | some b =>
    if !blockPreemptDue s bid then .next s
    else
      let all := scopeLids s b.lid
      let s : State := if all.length ≤ 1 then s else
        { s with blocks := s.blocks.map fun c => if all.contains c.lid && c.res == .resident then { c with wanted := true } else c }
      let s := discard s ((s.threads.filter fun t => t.bid == bid && t.life == .inSlot).map Thread.uid)
      done (updBlock s bid fun b => { b with res := .saving, wanted := false, stream := b.stream.map pauseStream })

/-- Where the entries of a ring lie, as far as its header can be read. -/
def ringEntries (s : State) (o : EOp) (a : DWord) : List DWord :=
  match (readRing o a s).1 with
  | .ok r => [r.ent]
  | .error _ => []
def fieldTargets (f : Field) : List DWord := [f.addr, f.stArr, f.tok, f.conf, f.log, f.kvpt, f.valid, f.freelist, f.ring]
/-- Elements of the table that a scatter writes, by key. -/
def scatterKeys (s : State) (o : EOp) (g : Gather) : List Nat :=
  if g.kind = 1 then []
  else (resolveElements (s.block? o.bid) o.vf g g.only s).1.flatMap fun e =>
    match e.2 with
    | .data ks => ks.map Prod.fst
    | _ => []

/-- Addresses that an engine operation writes, arrays by their first. -/
def opTargets (s : State) (o : EOp) : List DWord :=
  match o.work with
  | .gather g => (if g.kind = 1 then [g.dst] else []) ++ [g.frec]
  | .slot a c =>
    let f := match c with
      | .bind f _ => some f
      | _ => field? s o.vf a
    a :: ((f.map fun f => fieldTargets f ++ if f.ring = 0 then [] else ringEntries s o f.ring).getD [])
  | .ring a => a :: ringEntries s o a
  | .ropen a _ => [a]
  | .coll k => [k.dst, k.desc]
  | .replay rid => ((s.replay? rid).map Replay.out).toList
  | .scope sid => ((s.scope? sid).map Tourn.addr).toList
  | .topen a _ => [a]
  | .fill _ _ _ => []
  | .store _ _ _ _ => []
  | .mpost => []
  | .mrecv => []

/-- Does an operation write the block's window, pallet area, tile table or planes? -/
def writesBlock (s : State) (bid : Nat) (o : EOp) : Bool :=
  o.bid == bid &&
  (match o.work with
    | .fill _ _ _ => true
    | .store _ _ _ _ => true
    | .gather g => (opTargets s o).any inVaultRange || (scatterKeys s o g).any fun k => decide (vaultSpace ≤ k)
    | _ => (opTargets s o).any inVaultRange)

/-- The stream stands where a pre-emption leaves it: at the start of a further iteration, or at a wait for threads that
no longer run. -/
def streamStill (b : Block) : Bool :=
  match b.stream with
  | none => true
  | some x =>
    x.ended || x.stopped || !x.started ||
    (x.queue.isEmpty && x.running.isEmpty &&
      (match x.wait with
        | .permit => (x.loops.getLast?.map fun l => l.lc != 0).getD false
        | .bar _ _ => true
        | .param => true
        | _ => false))

def preemptSaveDue (s : State) (bid : Nat) : Bool :=
  match s.block? bid with
  | some b => b.res == .saving && streamStill b && s.ops.all fun o => !writesBlock s bid o
  | none => false

/-- The window's and the pallet pages' bytes that are not zero. -/
def windowImage (s : State) (b : Block) : List (Nat × Byte) :=
  let inPages (page n k : Nat) : Bool := decide (vaultSpace + page * 65536 ≤ k) && decide (k < vaultSpace + (page + n) * 65536)
  s.mem.filter fun c => inPages b.vpage b.vpages c.1 || inPages b.ppage b.ppages c.1

/-- Clocks that the save takes: 128 bytes in each (R310). -/
def saveClocks (b : Block) : Nat := (b.saveLen + 127) / 128

/-- The save image is written, and the core and the pages are free. What the block's threads have issued is performed and
released first, since they may go on elsewhere (log 19). -/
def execPreemptSave (bid : Nat) (s : State) : Host.Outcome State Fault Refusal :=
  match s.block? bid with
  | none => .next s
  | some b =>
    if !preemptSaveDue s bid then .next s
    else
      let s := release (settleBlock s bid) b.core (vfOf s b.lid) .dv
      let image := windowImage s b
      let s : State := { s with wctx := s.wctx.map fun w =>
        { w with holder := if w.holder == some bid then none else w.holder, reqs := w.reqs.filter fun q => q.bid != bid } }
      done (updBlock s bid fun b => { b with res := .saved, image := image })

/-! ### Resumption (R279) -/

/-- Blocks that resume together. -/
def resumeSet (s : State) (b : Block) : List Block :=
  let all := scopeLids s b.lid
  if 1 < all.length then s.blocks.filter fun c => all.contains c.lid
  else s.blocks.filter fun c => groupOf s c == groupOf s b

/-- What a saved block takes on a core of its quad. -/
def occAt (s : State) (b : Block) (core : Nat) : Occ := { occOf s b with core := core }
def resumeBytes (s : State) (b : Block) : Nat := ((s.launch? b.lid).map fun (l : Launch) => groupSave l.rcd).getD 0

/-- Cores of the quad that can take the block; an entrant's block has its own. -/
def resumeCores (s : State) (occ : List Occ) (b : Block) : List Nat :=
  let quad := coreQuad b.core
  let mine := (entrantOf s b.lid).isSome
  let cores := if mine then [b.core] else (List.range 4).map fun i => 4 * quad + i
  cores.filter fun c => (if mine then coreUp s c else coreOpen s c) && fitsAt occ (occAt s b c) &&
    (mine || !borrows s b || mayBorrow s quad (resumeBytes s b))

/-- A core for each block of the set, chosen in turn. -/
def resumePlan : List Block → List Occ → State → Option (List (Nat × Nat)) × State
  | [], _, s => (some [], s)
  | b :: bs, occ, s =>
    match resumeCores s occ b with
    | [] => (none, s)
    | c :: cs =>
      let (i, s) := draw s (cs.length + 1)
      let core := (c :: cs).getD i c
      match resumePlan bs (occAt s b core :: occ) s with
      | (none, s) => (none, s)
      | (some ps, s) => (some ((b.bid, core) :: ps), s)

/-- May a scope's blocks come back: its unit is its own again, and the homes of queues may be borrowed (R348, R356)? -/
def scopeResumes (s : State) (b : Block) (set : List Block) : Bool :=
  match entrantOf s b.lid with
  | none => true
  | some (x, _) =>
    let cores := coresOf x.tier x.unit
    !s.blocks.any (fun c => c.res != .saved && cores.contains c.core) && !(reservedOcc s none).any (fun o => cores.contains o.core) &&
      (cores.map coreQuad).dedup.all fun q => mayBorrow s q ((set.filter fun c => coreQuad c.core == q).map Block.saveLen).sum

def resumeOf (s : State) (bid : Nat) : Option (List (Nat × Nat)) × State :=
  match s.block? bid with
  | none => (none, s)
  | some b =>
    let set := resumeSet s b
    if b.res != .saved || fnHalted s (vfOf s b.lid) || set.any (fun c => c.res != .saved) || !scopeResumes s b set then (none, s)
    else resumePlan set (occupants s (fun _ => true) ++ reservedOcc s none) s

def blockResumeDue (s : State) (bid : Nat) : Bool := (resumeOf s bid).1.isSome

def unpauseStream (x : Stream) : Stream := { x with pausing := false }
/-- A block goes on: its window is restored at the same addresses; its threads restart under R50. -/
def resumeBlock (s : State) (bid core : Nat) : State :=
  match s.block? bid with
  | none => s
  | some b =>
    let s := zeroPages (zeroPages s b.vpage b.vpages) b.ppage b.ppages
    let s : State := { s with mem := b.image.foldl (fun (m : Sparse 8) c => m.set c.1 c.2) s.mem }
    let s := updBlock s bid fun b =>
      { b with core := core, res := .resident, wanted := false, image := [], stream := b.stream.map unpauseStream }
    acquire s core (vfOf s b.lid) .dv

def execBlockResume (bid : Nat) (s : State) : Host.Outcome State Fault Refusal :=
  match resumeOf s bid with
  | (none, _) => .next s
  | (some ps, s) => done (ps.foldl (fun s p => resumeBlock s p.1 p.2) s)

/-! ### Suspension of a function (R280, R367) -/

def setFn (s : State) (vf lo w v : Nat) : State := setBarField s 0 (0x10000 + 128 * vf) lo w v
def fnBlocks (s : State) (vf : Nat) : List Block := s.blocks.filter fun b => vfOf s b.lid == vf

/-- Starts the transition that the susp bit asks for, if none is in progress and the function is not there already. -/
def startTransition (s : State) (vf : Nat) : State :=
  let want := fnField s vf 2 1 == 1
  if s.suspending.any (fun x => x.1 == vf) || (fnField s vf 3 1 == 1) == want then s
  else
    let s : State := { s with suspending := s.suspending ++ [(vf, want)] }
    if want then flushFunction (wantGroups s ((fnBlocks s vf).map (groupOf s)).dedup) vf else s

def execFunctionSuspend (vf : Nat) (s : State) : Host.Outcome State Fault Refusal :=
  if 96 < vf || s.boot != .up then .next s else done (startTransition (setFn s vf 2 1 1) vf)
def execFunctionResume (vf : Nat) (s : State) : Host.Outcome State Fault Refusal :=
  if 96 < vf || s.boot != .up then .next s else done (startTransition (setFn s vf 2 1 0) vf)

/-- A suspension completes when every save image is written, a resumption when every block has resumed (log 21). -/
def transitionDue (s : State) (vf : Nat) : Bool :=
  match s.suspending.find? fun x => x.1 == vf with
  | some (_, true) => (fnBlocks s vf).all fun b => b.res == .saved
  | some (_, false) => (fnBlocks s vf).all fun b => b.res != .saved
  | none => false

def execSuspendTransitionComplete (vf : Nat) (s : State) : Host.Outcome State Fault Refusal :=
  match s.suspending.find? fun x => x.1 == vf with
  | none => .next s
  | some (_, up) =>
    if !transitionDue s vf then .next s
    else
      let s := if up then flushFunction s vf else s
      let s := setFn { s with suspending := s.suspending.filter fun x => x.1 != vf } vf 3 1 (boolBit up)
      done (startTransition (raiseMsix s vf 3) vf)

/-! ### FUNCTION_LEVEL_RESET (R367) -/

/-- A launch ends with no word written. -/
def silence (s : State) (lid : Nat) : State :=
  let s := updLaunch s lid fun l => { l with silent := true }
  if (((s.launch? lid).bind Launch.term).map Term.stopped).getD false then s
  else
    let s := beginTerm s lid { kind := 0, code := 0, tid := noThread, blk := noThread, clock := s.clock, stopAt := s.clock }
    stopLaunch s lid

def disableQueue (s : State) (vf q : Nat) : State :=
  let s := setQField s vf q 128 1 0
  { s with homes := s.homes.filter fun h => !(h.vf == vf && h.q == q) }

/-- Replays and scopes of the function are over. -/
def dropMeasures (s : State) (vf : Nat) : State :=
  let s := (s.replays.filter fun r => r.vf == vf).foldl (fun s r =>
    match s.op? r.op with
    | some o => finishOp s o [] []
    | none => s) s
  let s : State := { s with replays := s.replays.filter fun r => r.vf != vf }
  (s.scopes.filter fun x => x.vf == vf && !x.ended).foldl endScope s

def resetFunction (s : State) (vf : Nat) : State :=
  let s := ((s.launches.filter fun l => l.vf == vf).map Launch.lid).foldl silence s
  let s := dropMeasures s vf
  let s := (List.range 16).foldl (fun s q => disableQueue s vf q) s
  flushFunction (settle { s with errqs := s.errqs.filter (fun q => q.vf != vf), resetting := vf :: s.resetting.filter (· != vf) }
    fun x => x.vf == vf) vf

/-- Engine operations that were in flight complete before a reset is reported done (R367), and every launch has stopped. -/
def resetDue (s : State) (vf : Nat) : Bool :=
  s.resetting.contains vf && s.ops.all (fun o => o.vf != vf) &&
  s.launches.all fun l => l.vf != vf || (l.term.map Term.stopped).getD false
/-- What the operations and the threads have brought into the caches since is written back and discarded too. -/
def resetOver (s : State) (vf : Nat) : State :=
  send (flushFunction (settle { s with resetting := s.resetting.filter (· != vf) } fun x => x.vf == vf) vf) (.resetDone vf)

def execFunctionLevelReset (vf : Nat) (s : State) : Host.Outcome State Fault Refusal :=
  if 96 < vf then .next s
  else done ((if vf = 0 then List.range 97 else [vf]).foldl resetFunction s)

end Sys2Proof.Machine
end

