-- ==== Sys2Proof/Machine/Queues.lean ====
section
/-! DEFINITION. Hardware queues (14 R302–R305, R308) and launch requests over Virnus Reach (14 R306, R307, 21 R374). -/

namespace Sys2Proof.Machine

/-! ### Enabling a queue (R303, R308) -/

def freeQuads (s : State) : List Nat := (List.range 96).filter fun q => !s.homes.any fun h => h.quads.contains q

/-- `n` free quads of the lowest run of `rows` whole rows from row `r` on that has them. -/
def homesFrom (free : List Nat) (n rows : Nat) : List Nat → Option (List Nat)
  | [] => none
  | r :: rs =>
    let mine := free.filter fun q => decide (4 * r ≤ q) && decide (q < 4 * (r + rows))
    if n ≤ mine.length then some (mine.take n) else homesFrom free n rows rs
/-- R308: the lowest run, the shortest that there is (log 22). -/
def assignHomes (s : State) (n : Nat) : Option (List Nat) :=
  (List.range 25).findSome? fun rows =>
    if 4 * rows < n then none else homesFrom (freeQuads s) n rows (List.range (25 - rows))

def shareTotal (s : State) : Nat := ((s.homes.map fun h => h.quads.length)).sum

/-- A field out of its range. -/
def queueBad (s : State) (vf q : Nat) : Bool :=
  let size := qField s vf q 288 32; let bound := qField s vf q 352 32
  let rbase : DWord := BitVec.ofNat 64 (qField s vf q 384 64)
  let sbase : DWord := BitVec.ofNat 64 (qField s vf q 448 64)
  decide (size < 16) || decide (4096 < size) || 2 ^ Nat.log2 size != size || (bound != 0 && decide (bound < 20)) ||
    decide (96 < share s vf q) || rbase.toNat % 4096 != 0 || !canonicalVa rbase || sbase.toNat % 8 != 0 || !canonicalVa sbase ||
    (bound != 0 && share s vf q == 0)

/-- A write of en = 1. -/
def enableQueue (s : State) (vf q : Nat) : State :=
  if queueEnabled s vf q then s
  else
    match (if s.boot != .up || queueBad s vf q || decide (96 < shareTotal s + share s vf q) then none else assignHomes s (share s vf q)) with
    | none => setQField s vf q 129 1 1
    | some quads =>
      let s := setQField (setQField s vf q 128 1 1) vf q 129 1 0
      if quads.isEmpty then s else { s with homes := s.homes ++ [⟨vf, q, quads⟩] }

def isQueueName (vf q : Nat) : Bool := decide (vf ≤ 96) && decide (q < 16)

def execQueueEnable (vf q : Nat) (s : State) : Host.Outcome State Fault Refusal :=
  if isQueueName vf q then done (enableQueue s vf q) else .next s
def execQueueDisable (vf q : Nat) (s : State) : Host.Outcome State Fault Refusal :=
  if isQueueName vf q then done (disableQueue s vf q) else .next s
def execQueueTailWrite (vf q : Nat) (tail : BitVec 32) (s : State) : Host.Outcome State Fault Refusal :=
  if isQueueName vf q then done (setQField s vf q 256 32 tail.toNat) else .next s

/-! ### Admission from the ring (R304, R305) -/

/-- Does the device take records from the function's queues (R280, R366)? -/
def fnAdmits (s : State) (vf : Nat) : Bool := fnField s vf 0 1 == 1 && !fnHalted s vf

def admitDue (s : State) (vf q : Nat) : Bool :=
  queueEnabled s vf q && fnAdmits s vf && decide (qField s vf q 192 32 < 64) && qField s vf q 256 32 != qField s vf q 224 32

/-- A record is read whole, admitted, and its status entry and head are written. -/
def execQueueRecordAdmit (vf q : Nat) (s : State) : Host.Outcome State Fault Refusal :=
  if !isQueueName vf q || !admitDue s vf q then .next s
  else
    let t := qField s vf q 224 32
    let slot := t % max (qField s vf q 288 32) 1
    let (bs, s) := devRead s vf (BitVec.ofNat 64 (qField s vf q 384 64 + 128 * slot)) 128
    let (st, s) := admitRecord s vf q (bs.getD (List.replicate 128 0))
    let s := devPut s vf (BitVec.ofNat 64 (qField s vf q 448 64 + 8 * slot)) 8 (st + t * 2 ^ 32) true
    done (raiseMsix (setQField s vf q 224 32 ((t + 1) % 2 ^ 32)) vf 0)

/-! ### Virnus Reach -/

/-- An entry of the tenant table (Table 14-2). -/
structure Tenant where
  tenant : Nat
  kcv : Nat
  en : Bool
  vf : Nat
  qmask : Nat
  entries : List Nat

def Tenant.ofBytes (bs : List Byte) : Tenant :=
  ⟨natAt bs 0 4, natAt bs 4 4, decide (natAt bs 8 1 % 2 = 1), natAt bs 9 1, natAt bs 10 2,
    (List.range 16).map fun n => natAt bs (32 + 8 * n) 8⟩

/-- The lowest entry in use that holds a tenant number. -/
def findTenant (tenant : Nat) : List Nat → State → Option Tenant × State
  | [], s => (none, s)
  | e :: es, s =>
    match devRead s 0 (addrAt (BitVec.ofNat 64 (ctlField s 320 64)) (160 * e)) 160 with
    | (none, s) => findTenant tenant es s
    | (some bs, s) =>
      let x := Tenant.ofBytes bs
      if x.en && x.tenant == tenant then (some x, s) else findTenant tenant es s

/-- Table 14-3 for a tenant's datagram: the status of the first check that fails. -/
def reachCheck (x : Tenant) (d : List Byte) : Option Nat :=
  let q := natAt d 24 1
  if ofBytes ((sha256 ((d.drop 8).take 16)).take 4) ≠ x.kcv then some 0x0B
  else if 16 ≤ q || !x.qmask.testBit q then some 0x0C
  else
    let entry := natAt d 48 8
    if entry = 0 || !x.entries.contains entry then some 0x0D else none

/-- The device keeps the last 64 requests of a tenant. -/
def keepReach (s : State) (tenant id st : Nat) : State :=
  if s.reach.any fun r => r.tenant == tenant then
    { s with reach := s.reach.map fun r =>
        if r.tenant == tenant then { r with log := (r.log ++ [(id, st)]).drop ((r.log.length + 1) - 64) } else r }
  else { s with reach := s.reach ++ [⟨tenant, [(id, st)]⟩] }

def reachAnswer (id st : Nat) : List Byte := bytesOf 4 0x02525652 ++ bytesOf 4 id ++ bytesOf 8 st

/-- Is a datagram the device's (R374)? It comes to the UDP port at the port's address, and the port is up and enabled. -/
def reachHears (s : State) (x : ReachFrom) : Bool :=
  let reg (lo w : Nat) : Nat := barField s 0 (0x80000 + 64 * x.port) lo w
  decide (x.port < 2) && s.ports.contains (36 + x.port) && reg 256 1 == 1 && x.udp == ctlField s 208 16 &&
  x.mac == reg 0 48 && x.dst == (if x.v6 then reg 128 128 else reg 64 32)

/-- The record of a request that passed its checks is admitted, or given the status of a queue that is not enabled when its
function is not admitted to use the device (log 28); its source, or each of them, is answered. -/
def admitReach (s : State) (k : HeldReach) : State :=
  let (st, s) := if fnField s k.vf 0 1 == 1 then admitRecord s k.vf k.q k.rcd else (0x09, s)
  k.srcs.foldl (fun s src => send s (.reach src (reachAnswer k.id st))) (keepReach s k.tenant k.id st)

/-- A request whose function is suspended waits for the resumption (R280); one that comes again waits with it. -/
def holdReach (s : State) (k : HeldReach) : State :=
  if s.heldReach.any fun x => x.tenant == k.tenant && x.id == k.id then
    { s with heldReach := s.heldReach.map fun x =>
        if x.tenant == k.tenant && x.id == k.id then { x with srcs := (x.srcs ++ k.srcs).dedup } else x }
  else { s with heldReach := s.heldReach ++ [k] }

/-- The first request held whose function runs again. -/
def reachToAdmit (s : State) : Option HeldReach := s.heldReach.find? fun k => !fnHalted s k.vf
def releaseReach (s : State) : State :=
  match reachToAdmit s with
  | some k => admitReach { s with heldReach := s.heldReach.filter (· != k) } k
  | none => s

/-- A datagram that comes in at an Ethernet port, for a UDP port of the port's address; any other length or magic is
dropped. -/
def execReachLaunchRequest (src : ReachFrom) (datagram : List Byte) (s : State) : Host.Outcome State Fault Refusal :=
  if s.boot != .up || !reachHears s src || datagram.length != 176 || natAt datagram 0 4 != 0x01525652 then .next s
  else
    let tenant := natAt datagram 4 4
    let id := natAt datagram 28 4
    match (s.reach.find? fun r => r.tenant == tenant).bind fun r => r.log.find? fun x => x.1 == id with
    | some x => done (send s (.reach src.addr (reachAnswer id x.2)))
    | none =>
      match findTenant tenant (List.range 256) s with
      | (none, s) => done (send s (.reach src.addr (reachAnswer id 0x0A)))
      | (some x, s) =>
        match reachCheck x datagram with
        | some st => done (send (keepReach s tenant id st) (.reach src.addr (reachAnswer id st)))
        | none =>
          let k : HeldReach := ⟨tenant, id, [src.addr], x.vf, natAt datagram 24 1, datagram.drop 48⟩
          done (if fnHalted s x.vf then holdReach s k else admitReach s k)

end Sys2Proof.Machine
end

