-- ==== Sys2Proof/Machine/Outside.lean ====
section
/-! DEFINITION. What the host, the service, the boot ROM, the power system, the fabric and management do to the device
(21 R361–R382, 11 R281, R282). An event that comes from outside takes effect when it arrives; one that the device raises
itself has no effect when it is not due (log 12). -/

namespace Sys2Proof.Machine

/-! ### The service (R370) -/

/-- svcgo: the image is measured and runs; an earlier image stops, once it has returned from a call in progress. -/
def startService (s : State) : State :=
  let image := memRead s (ctlField s 256 64) (ctlField s 224 32)
  if s.service.inCall then { s with service := { s.service with waiting := some image } }
  else { s with service := { s.service with running := true, image := image } }

def execServiceStart (s : State) : Host.Outcome State Fault Refusal :=
  if s.boot != .up then .next s else done (startService s)

def serviceCallDue (s : State) : Bool := s.service.running && s.service.pending && !s.service.inCall

/-- Ranoux clears the flag and calls the image, which is idle, with a0 = svcctx. What the image then does are inputs
(log 5). -/
def execServiceEntryCall (s : State) : Host.Outcome State Fault Refusal :=
  if serviceCallDue s then
    done { s with service := { s.service with pending := false, inCall := true, a0 := BitVec.ofNat 64 (ctlField s 128 64) } }
  else .next s

/-- The image returns; one that was started meanwhile takes its place. -/
def serviceReturn (s : State) : State :=
  { s with service := { s.service with
      inCall := false, image := s.service.waiting.getD s.service.image, waiting := none } }

/-- The physical key of a Llynmas core address of device memory; the image reaches nothing else but its own bytes. -/
def coreAddressKey (addr : Nat) : Option Nat :=
  if 0x0400000000000000 ≤ addr && addr < 0x0400000000000000 + hbmSize then some (addr - 0x0400000000000000)
  else if 0x0500000000000000 ≤ addr && addr < 0x0500000000000000 + tier2Size then some (tier2Space + (addr - 0x0500000000000000))
  else none
/-- A store of the image, made during a call. -/
def serviceStore (s : State) (addr : Nat) (bs : List Byte) : State :=
  match coreAddressKey addr with
  | some k => if s.service.inCall && (coreAddressKey (addr + bs.length - 1)).isSome then memWrite s k bs else s
  | none => s

/-! ### Bring-up (R378, R379) -/

def bootField (s : State) (lo w v : Nat) : State := setBarField s 0 0x2000 lo w v

/-- The device restarts: what a reset sets, but for host memory, peers and what completers support, the module's start
counter, the firmware slots, the boot status and what has been sent. -/
def restart (s : State) : State :=
  let keep := s.mem.filter fun c => decide (hostSpace ≤ c.1) && !(decide (vaultSpace ≤ c.1) && decide (c.1 < peerSpace 0))
  let status := barWord s 0 0x2000
  setBarWord { State.reset with
    free := s.free, nextId := s.nextId, inputs := s.inputs, outbox := s.outbox, mem := keep, starts := s.starts,
    fwSlots := s.fwSlots, fwRunning := s.fwRunning, noAtomics := s.noAtomics, peerClosed := s.peerClosed } 0 0x2000 status

/-- An attempt fails with a reason, and the device restarts. -/
def failStart (s : State) (reason : Nat) : State := bootField (bootField (restart s) 0 8 reason) 8 2 s.starts

/-- Every island at a state. -/
def allIslands (s : State) (code : Nat) : State :=
  (List.range 104).foldl (fun s i => setBarField s 0 0x30000 (832 + 8 * i) 8 code) s

/-- Stage 1 passes when a slot verifies; the running one is the first that does. -/
def firstGood : List FwSlot → Option Nat
  | [] => none
  | x :: xs => if x.good then some 0 else (firstGood xs).map (· + 1)

/-- Every stage passed. -/
def comeUp (s : State) (slot : Nat) : State :=
  let s := allIslands (bootField (bootField { s with boot := .up, starts := 0, fwRunning := slot } 8 2 0) 10 2 0) 4
  { s with links := if s.links.isEmpty then [0] else s.links }

/-- One start, whole: the counter, then the stages of Table 21-9 in order, of which `failStage` may be the first to fail;
or minimal mode, when the failures before have left the counter at 3. -/
def startDevice (s : State) (failStage : Option Nat) : State :=
  if 3 ≤ s.starts then bootField (bootField { s with boot := .minimal } 8 2 3) 10 2 3
  else
    let s := { s with starts := s.starts + 1 }
    match firstGood s.fwSlots, failStage with
    | none, _ => failStart s 0x01
    | some slot, none => comeUp s slot
    | some slot, some k => if 1 ≤ k && k ≤ 7 then failStart s k else comeUp s slot

def execDeviceStart (failStage : Option Nat) (s : State) : Host.Outcome State Fault Refusal :=
  match s.boot with
  | .off => done (startDevice s failStage)
  | _ => .next s

/-- A stage that runs longer than 30 s ends the attempt. -/
def execStartStageTimeout (stage : Nat) (s : State) : Host.Outcome State Fault Refusal :=
  match s.boot with
  | .off => if 3 ≤ s.starts || stage = 0 || 7 < stage then .next s else done (failStart { s with starts := s.starts + 1 } 0x08)
  | _ => .next s

/-- Boot status bit 31: the counter is cleared and the device restarts. -/
def restartBoot (s : State) : State := bootField (bootField (restart { s with starts := 0 }) 8 2 0) 10 2 0
def execBootRestart (s : State) : Host.Outcome State Fault Refusal :=
  match s.boot with
  | .up => done (restartBoot s)
  | .minimal => done (restartBoot s)
  | _ => .next s

/-! ### Power (R380–R382); 1.6 clocks a nanosecond -/

def pwrField (s : State) (lo w : Nat) : Nat := barField s 0 0x30000 lo w
def setPwr (s : State) (lo w v : Nat) : State := setBarField s 0 0x30000 lo w v
def uncoreOf (island : Nat) : Nat := 96 + island / 12

/-- R381's refusals. -/
def commandRefused (s : State) (i code : Nat) : Bool :=
  if i < 96 then decide (4 < code) || (decide (1 < code) && islandState s (uncoreOf i) == 1)
  else (code != 1 && code != 3 && code != 4) ||
    (code == 1 && (List.range 12).any fun k => decide (1 < islandState s (12 * (i - 96) + k)))

/-- A command: refused, or begun. A quad that is to leave the states that run is emptied first. -/
def commandIsland (s : State) (i : Nat) (code : Nat) : State :=
  let s := setPwr s (8 * i) 8 code
  if commandRefused s i code then setPwr s (2600 + i) 1 1
  else
    let slow := if islandState s i = 0 && i < 96 then 320000 else if islandState s i = 1 && i < 96 then 32000 else 80000
    let s := setPwr (setPwr s (2600 + i) 1 0) (832 + 8 * i + 7) 1 1
    let s := { s with changes := (s.changes.filter fun c => c.island != i) ++ [⟨i, code, s.clock + slow⟩] }
    if i < 96 && code ≤ 1 then wantGroups s ((s.blocks.filter fun b => coreQuad b.core == i).map (groupOf s)).dedup else s

def execIslandCommand (island : Nat) (code : Byte) (s : State) : Host.Outcome State Fault Refusal :=
  if 104 ≤ island || s.boot != .up then .next s else done (commandIsland s island code.toNat)

/-- A change takes effect within 50 µs, once the quad is empty; leaving state 0 or 1 takes its whole time. -/
def changeDue (s : State) (i : Nat) : Bool :=
  match s.changes.find? fun c => c.island == i with
  | none => false
  | some c =>
    (decide (1 < islandState s i) || decide (96 ≤ i) || decide (c.due ≤ s.clock)) &&
    (decide (1 < c.code) || decide (96 ≤ i) || s.blocks.all fun b => coreQuad b.core != i || b.res == .saved)

/-- A quad in state 0 or 1 holds no lines; in state 0 its contents are lost (log 24). -/
def quietQuad (s : State) (i code : Nat) : State :=
  let mine (k : Nat) : Bool := coreQuad (keyUnit k) == i
  let s := flushL1 s mine
  if code = 0 then
    let lo := vaultSpace + i * 2 ^ 23
    let l1 : Sparse 64 := s.l1.filter fun k => !mine k.1
    { s with icache := s.icache.filter (fun k => !mine k.1), l1 := l1, hint1 := pruneHints s.hint1 l1,
             mem := s.mem.filter fun c => !(decide (lo ≤ c.1) && decide (c.1 < lo + 2 ^ 23)) }
  else s

def execIslandStateChangeDone (island : Nat) (s : State) : Host.Outcome State Fault Refusal :=
  match s.changes.find? fun c => c.island == island with
  | none => .next s
  | some c =>
    if !changeDue s island then .next s
    else
      let s := if island < 96 && c.code ≤ 1 then quietQuad s island c.code else s
      let s := setPwr s (832 + 8 * island) 8 c.code
      done { s with changes := s.changes.filter fun x => x.island != island }

def alarmOn (s : State) (i : Nat) : Bool := pwrField s (2496 + i) 1 == 1
def assertAlarm (s : State) (i : Nat) : State :=
  if alarmOn s i then s else { setPwr s (2496 + i) 1 1 with alarms := s.alarms ++ [⟨i, s.clock, false⟩] }

/-- An alarm of one island, or of the module: all of them. -/
def execPowerAlarmAssert (island : Option Nat) (s : State) : Host.Outcome State Fault Refusal :=
  let is := match island with
    | some i => if i < 104 then [i] else []
    | none => List.range 104
  if is.all (alarmOn s) || s.boot != .up then .next s
  else done (raiseMsix (is.foldl assertAlarm s) 0 4)

def execPowerAlarmClear (island : Nat) (s : State) : Host.Outcome State Fault Refusal :=
  if !alarmOn s island || 104 ≤ island then .next s
  else done { setPwr s (2496 + island) 1 0 with alarms := s.alarms.filter fun a => a.island != island }

/-- 2 ms after an alarm. The arrivals of its clock are over when the device judges it, so a clear or a command in that clock
counts. -/
def alarmDue (s : State) (i : Nat) : Bool :=
  s.alarms.any fun a => a.island == i && !a.expired && decide (a.at_ + 3200000 ≤ s.clock)

/-- The state that an island is at, or is going to: a command that has landed is judged by its result (R382). -/
def commandedState (s : State) (i : Nat) : Nat :=
  ((s.changes.find? fun c => c.island == i).map Change.code).getD (islandState s i)

def execAlarmFallbackExpire (island : Nat) (s : State) : Host.Outcome State Fault Refusal :=
  if !alarmDue s island then .next s
  else
    let s : State := { s with alarms := s.alarms.map fun a => if a.island == island then { a with expired := true } else a }
    let fb := pwrField s (1664 + 8 * island) 8
    done (if fb < commandedState s island then commandIsland s island fb else s)

/-! ### Links and the fabric (R361, R362, R369, R371, R372) -/

def execPcieLinkUp (link : Nat) (s : State) : Host.Outcome State Fault Refusal :=
  if 2 ≤ link || s.links.contains link then .next s else done { s with links := s.links ++ [link] }

/-- Flits that were not acknowledged, as many as there were, go again on the other link. -/
def execPcieLinkDown (link : Nat) (s : State) : Host.Outcome State Fault Refusal :=
  if !s.links.contains link then .next s
  else
    let rest := s.links.filter (· != link)
    let move (p : Nat × Nat) : Nat × Nat := if p.2 = link then (p.1, rest.headD link) else p
    let (k, s) := draw s ((s.hostReqs.get link).toNat + 1)
    let reqs := match rest with
      | [] => s.hostReqs
      | o :: _ => s.hostReqs.set o (s.hostReqs.get o + BitVec.ofNat 64 k)
    done { s with links := rest, posted := (s.posted.map move).dedup, hostReqs := reqs }

/-- A port of Virnus Link (0–35) or Ethernet (36, 37). A link that comes up may reach peers again. -/
def execFabricPortStateChange (port : Nat) (up : Bool) (s : State) : Host.Outcome State Fault Refusal :=
  if 38 ≤ port || s.ports.contains port == up then .next s
  else
    let ports := if up then s.ports ++ [port] else s.ports.filter (· != port)
    done (raiseMsix { s with ports := ports, peersDown := if up && port < 36 then [] else s.peersDown } 0 6)

def execPeerTimeout (peer : Nat) (s : State) : Host.Outcome State Fault Refusal :=
  if 128 ≤ peer || s.peersDown.contains peer then .next s else done { s with peersDown := s.peersDown ++ [peer] }

/-! ### Inbound windows (R372) -/

structure Window where
  src : Nat
  vf : Nat
  r : Bool
  w : Bool
  en : Bool
  base : Nat
  len : Nat
  dst : DWord

def windowAt (s : State) (i : Nat) : Window :=
  let f := barField s 0 (0x60000 + 32 * i)
  ⟨f 0 7, f 8 8, f 16 1 == 1, f 17 1 == 1, f 18 1 == 1, f 64 64, f 128 64, BitVec.ofNat 64 (f 192 64)⟩

def peerAcc (op : Nat) : Acc := if op = 0 then .load else if op = 1 then .store else .atomic
def windowFits (q : PeerReq) (x : Window) : Bool :=
  x.en && x.src == q.src && decide (x.base ≤ q.addr.toNat) && decide (q.addr.toNat + q.len ≤ x.base + x.len) &&
  (q.op == 1 || x.r) && (q.op == 0 || x.w)

/-- The atomic that a request asks for, if Table 7-3 has it at the request's width. -/
def peerOp (q : PeerReq) : Option AtomOp :=
  if q.op = 12 then (if q.len = 4 || q.len = 8 then some (.addF q.rm) else none)
  else if q.op = 13 then (if q.len = 4 then some (.addHalves q.rm) else none)
  else
    match q.len, q.op with
    | 4, 2 => some (.int .add) | 4, 3 => some .exch | 4, 4 => some .cas
    | 4, 5 => some (.int .and) | 4, 6 => some (.int .or) | 4, 7 => some (.int .xor)
    | 4, 8 => some (.int .minS) | 4, 9 => some (.int .maxS) | 4, 10 => some (.int .minN) | 4, 11 => some (.int .maxN)
    | 8, 2 => some (.int .add) | 8, 3 => some .exch | 8, 4 => some .cas | 8, 11 => some (.int .maxN)
    | 16, 4 => some .cas
    | _, _ => none
/-- An atomic that can go to host memory, as a PCIe AtomicOp (07 R179, R364). -/
def peerPcie (q : PeerReq) : Bool := decide (2 ≤ q.op) && decide (q.op ≤ 4)

/-- The access through the function's own page tables, with its atomics performed there: what was read, or none when it is
trapped (log 25). -/
def peerAccess (s : State) (q : PeerReq) (x : Window) : Option (List Byte) × State :=
  let va := x.dst + BitVec.ofNat 64 (q.addr.toNat - x.base)
  if decide (2 ≤ q.op) && ((peerOp q).isNone || va.toNat % max q.len 1 != 0) then (none, s)
  else
    match engResolve none x.vf (peerAcc q.op) (piecesOf va q.len) s with
    | (.error _, s) => (none, s)
    | (.ok ks, s) =>
      if q.op = 1 then (some [], writeKeys s 0 x.vf false ks (q.data.take q.len))
      else
        match peerOp q with
        | none =>
          let (old, s) := readKeys s ks
          (some old, s)
        | some op =>
          if ks.any fun k => hostBars (peerPcie q) s (.global va k.1) then (none, s)
          else
            let (old, s) := readKeys s ks
            let operand (i : Nat) : BitVec 128 := BitVec.ofNat 128 (natAt q.data (i * q.len) q.len)
            (some old, writeKeys s 0 x.vf false ks (bytesOf q.len (atomNew op q.len (operand 0) (operand 1) (ofBytes old))))

def execInboundWindowAccess (req : PeerReq) (s : State) : Host.Outcome State Fault Refusal :=
  if s.boot != .up then .next s
  else
    match (((List.range 256).map (windowAt s)).find? (windowFits req)) with
    | none => done (send s (.peer req.src [] true))
    | some x =>
      match peerAccess s req x with
      | (none, s) => done (send s (.peer req.src [] true))
      | (some bs, s) => done (send s (.peer req.src bs false))

/-! ### Management and attestation (R375–R377) -/

/-- An update that verifies goes into the inactive slot, which is tried first at the next start (log 26). The answer is 0
when it is accepted. -/
def execFirmwareUpdate (upd : FwUpdate) (s : State) : Host.Outcome State Fault Refusal :=
  match s.boot with
  | .off => .next s
  | _ =>
    let digest := sha256 upd.image
    let key := bigBytes 384 upd.modulus ++ bigBytes 4 upd.exponent
    if sha256 key = Config.fusedKeyHash && rsaVerifies upd.modulus upd.exponent upd.signature digest then
      let active := s.fwSlots.getD s.fwRunning ⟨[], false⟩
      done (send { s with fwSlots := [⟨digest, true⟩, active], fwRunning := 1 } (.pldm 0))
    else done (send s (.pldm 1))

/-- A signature of the device: RSASSA-PKCS1-v1_5 with RSA-3072 over SHA-256 (R376). What SPDM puts before the message is left
out (log 65). -/
def deviceSign (bs : List Byte) : List Byte :=
  bigBytes 384 (modPow Config.deviceModulus (pkcsBlock (sha256 bs)) Config.devicePrivate (Nat.log2 Config.devicePrivate + 1))

/-- Table 21-12. The service image is measured at each svcgo, also while an earlier one is in a call. -/
def measurement (s : State) (i : Nat) : List Byte :=
  let zero := List.replicate 32 (0 : Byte)
  match i with
  | 1 => Config.bootRomDigest
  | 2 => if s.boot == .minimal && barField s 0 0x2000 0 8 == 1 then zero else (s.fwSlots.getD s.fwRunning ⟨zero, false⟩).digest
  | 3 => if s.service.running then sha256 (s.service.waiting.getD s.service.image) else zero
  | 4 => sha256 ((List.range 97).flatMap fun v => bytesOf 16 (fnField s v 0 64 + fnField s v 64 64 * 2 ^ 64))
  | 5 => sha256 (Config.identityChain ++ Config.fusedKeyHash)
  | _ => []

def execSpdmRequest (req : SpdmReq) (s : State) : Host.Outcome State Fault Refusal :=
  match s.boot with
  | .off => .next s
  | _ =>
    match req with
    -- CERT, CHAL and signed MEAS; TPM_ALG_RSASSA_3072 and TPM_ALG_SHA_256, as DSP0274 numbers them (log 65)
    | .capabilities => done (send s (.spdm (bytesOf 4 0x16)))
    | .algorithms => done (send s (.spdm (bytesOf 4 4 ++ bytesOf 4 1)))
    | .certificate slot => done (send s (.spdm (if slot = 0 then Config.identityChain else [])))
    | .challenge nonce => done (send s (.spdm (deviceSign nonce)))
    | .measurements i nonce =>
      let m := if i = 0xFF then ([1, 2, 3, 4, 5] : List Nat).flatMap (measurement s) else measurement s i
      done (send s (.spdm (m ++ deviceSign (m ++ nonce))))

/-- Sensors answer a reading of their own, or a counter of Table 21-1. -/
def execPldmMctpRequest (req : MgmtReq) (s : State) : Host.Outcome State Fault Refusal :=
  match s.boot with
  | .off => .next s
  | _ =>
    match req with
    | .softErrors u bad => done (send s (.pldm (barField s 0 (0x40000 + 16 * u) (if bad then 64 else 0) 64)))
    | .control _ => done (send s (.pldm 0))
    | .islandPower _ => done (send { s with free := s.free + 1 } (.pldm (Config.sensorReading s.free)))
    | .islandTemperature _ => done (send { s with free := s.free + 1 } (.pldm (Config.sensorReading s.free)))
    | .modulePower => done (send { s with free := s.free + 1 } (.pldm (Config.sensorReading s.free)))

/-! ### Errors (11 R281, R282) -/

/-- A soft-error counter advances: corrected (word 0) or not (word 1). -/
def countSoft (s : State) (unit word : Nat) : State :=
  let off := 0x40000 + 16 * unit + 8 * word
  raiseMsix (setBarWord s 0 off (barWord s 0 off + 1)) 0 5

/-- A line without dirty bytes is dropped, to be fetched again; data lost from a dirty one is no soft error. -/
def dropSoft (s : State) (p : SoftPlace) : Option State :=
  let clean (m : Sparse 64) (base : Nat) : Bool := (m.slice base 128).all fun kv => !entryDirty kv.2
  let without (m : Sparse 64) (base : Nat) : Sparse 64 := m.filter fun kv => !inLine base kv.1
  match p with
  | .l1 k =>
    let l1 := without s.l1 (k / 128 * 128)
    if clean s.l1 (k / 128 * 128) then some { s with l1 := l1, hint1 := pruneHints s.hint1 l1 } else none
  | .l2 k =>
    let l2 := without s.l2 (k / 128 * 128)
    if clean s.l2 (k / 128 * 128) then some { s with l2 := l2, hint2 := pruneHints s.hint2 l2 } else none
  | .icache k => some { s with icache := without s.icache (k / 128 * 128) }

/-- An error that was corrected, in the array or by dropping a clean line (R281). -/
def execSoftErrorCorrected (e : SoftError) (s : State) : Host.Outcome State Fault Refusal :=
  if 7 ≤ e.unit then .next s
  else
    match e.line with
    | none => done (countSoft s e.unit 0)
    | some p =>
      match dropSoft s p with
      | some s => done (countSoft s e.unit 0)
      | none => .next s

def checkTerm (mc : MachineCheck) (clk stopAt : Nat) : Term :=
  { kind := 2, code := 0x0C, tid := noThread, blk := noThread, unit := mc.unit, addr := mc.addr, clock := clk, stopAt := stopAt }

/-- Who has written the dirty bytes of a line. -/
def lineOwners (m : Sparse 64) (key : Nat) : List Nat :=
  (((m.slice (key / 128 * 128) 128).filter fun kv => entryDirty kv.2).map fun kv => entryLid kv.2).dedup

/-- The data is not marked: a later read detects the error again, for as long as the byte is what it was (log 103). -/
def keepBad (s : State) (key : Nat) : State :=
  if s.bad.any fun b => b.1 == key then s else { s with bad := s.bad ++ [(key, memByte s key)] }

/-- The function in whose reserve a frame lies; the function that is named, else: the spec keeps no other record of whose a
frame is (log 103). -/
def frameOwner (s : State) (key named : Nat) : Nat :=
  ((List.range 97).find? fun v => inReserve s v key).getD named

/-- The launch that owns the bad data is terminated; an error that scrubbing finds only leaves its record. A dirty line's
owner is one of those whose dirty bytes it holds (log 103). -/
def execMachineCheck (mc : MachineCheck) (s : State) : Host.Outcome State Fault Refusal :=
  if 7 ≤ mc.unit then .next s
  else
    let s := countSoft s mc.unit 1
    let (d, s) := draw s 257
    let strike (s : State) (lid : Nat) : State := beginTerm s lid (checkTerm mc s.clock (s.clock + d))
    let strikeOne (s : State) (owners : List Nat) : State :=
      let (i, s) := draw s owners.length
      (owners[i]?.map fun lid => strike s lid).getD s
    match mc.place with
    | .block bid => done (((s.block? bid).map fun b => strike s b.lid).getD s)
    | .dirtyL1 key => done (strikeOne s (lineOwners s.l1 key))
    | .dirtyL2 key => done (strikeOne s (lineOwners s.l2 key))
    | .readBy lid key => done (strike (keepBad { s with badReads := s.badReads.filter (· != (lid, key)) } key) lid)
    | .scrubbed vf key =>
      done (postErr (keepBad s key) (frameOwner s key vf) { kind := 2, code := 0x0C, tid := noThread, blk := noThread, tag := 0, time := s.clock, addr := mc.addr, unit := mc.unit })

/-- A scrub corrects what it reads; an error it finds is a SOFT_ERROR_CORRECTED or a MACHINE_CHECK. -/
def execMemoryScrub (_vaults : Bool) (s : State) : Host.Outcome State Fault Refusal := done s

/-! ### MSI-X (R369) -/

def execMsixVectorUnmask (vf vec : Nat) (s : State) : Host.Outcome State Fault Refusal :=
  if 96 < vf || 8 ≤ vec || s.msixMask.contains (vf, vec) then .next s
  else
    let s := { s with msixMask := s.msixMask ++ [(vf, vec)] }
    if s.msixPend.contains (vf, vec) then
      done (send { s with msixPend := s.msixPend.filter (· != (vf, vec)) } (.msix vf vec))
    else done s

/-! ### REGISTER_WRITE (R365, R366, R302, Tables 21-1 to 21-10) -/

/-- Bits a host's write changes in the word of BAR0 at an offset, apart from those with a behaviour of their own. -/
def writeMask (s : State) (vf off : Nat) : Nat :=
  let all := 2 ^ 64 - 1
  if off % 8 ≠ 0 then 0
  else if 0x1000 ≤ off && off < 0x1400 then
    let k := off % 64 / 8
    let locked := queueEnabled s vf ((off - 0x1000) / 64)
    if k = 4 then (if locked then 2 ^ 32 - 1 else all)
    else if locked then 0
    else if k = 5 then 0xFFFFFFFF00FF0000 else if 6 ≤ k then all else 0
  else if vf ≠ 0 then 0
  else if 0x10000 ≤ off && off < 0x10000 + 97 * 128 then
    let v := (off - 0x10000) / 128
    let k := off % 128 / 8
    let gate := fnField s v 0 1 = 0 || fnField s v 3 1 = 1
    if k = 0 then 0xFF07 else if k = 4 then all else if k ≤ 3 && gate then all else 0
  else if 0x20000 ≤ off && off < 0x20040 then
    let k := off % 64 / 8
    if k < 2 then 0 else if k = 3 then 0xFFFFFFFFFFFF0000 else all
  else if 0x300D0 ≤ off && off < 0x30138 then all
  else if 0x40000 ≤ off && off < 0x40070 then all
  else if 0x50000 ≤ off && off < 0x50800 then (if off % 16 = 0 then 2 ^ 33 - 1 else 0)
  else if 0x60000 ≤ off && off < 0x62000 then (if off % 32 = 0 then 0x7FF7F else all)
  else if 0x70000 ≤ off && off < 0x74000 then (if off % 16 = 0 then all else 2 ^ 41 - 1)
  else if 0x80000 ≤ off && off < 0x80080 then
    let k := off % 64 / 8
    if k = 0 then 2 ^ 48 - 1 else if k = 1 then 2 ^ 32 - 1 else if k ≤ 3 then all else if k = 4 then 1 else 0
  else 0

def mergeWord (old new : DWord) (mask : Nat) : DWord := (old &&& ~~~(BitVec.ofNat 64 mask)) ||| (new &&& BitVec.ofNat 64 mask)

/-- Function 0's own entry is also its entry of the function table. -/
def regOff (vf off : Nat) : Nat := if vf = 0 && off < 128 then 0x10000 + off else off

/-- What the write of a word with a behaviour of its own does besides. -/
def writeEffect (s : State) (vf off : Nat) (val : DWord) : State :=
  if 0x1000 ≤ off && off < 0x1400 && off % 64 = 16 then
    (if val.getLsbD 0 then enableQueue s vf ((off - 0x1000) / 64) else disableQueue s vf ((off - 0x1000) / 64))
  else if vf ≠ 0 then s
  else if off = 0x2000 then (if val.getLsbD 31 then restartBoot s else s)
  else if 0x10000 ≤ off && off < 0x10000 + 97 * 128 && off % 128 = 0 then startTransition s ((off - 0x10000) / 128)
  else if off = 0x20018 then (if val.getLsbD 0 then startService s else s)
  else if 0x30000 ≤ off && off < 0x30068 && off % 8 = 0 then
    (List.range 8).foldl (fun s k => commandIsland s (off - 0x30000 + k) (bitsN val.toNat (8 * k) 8)) s
  else s

/-- A write of the host to BAR0 of a function; in minimal mode only the boot status takes one. -/
def writeRegister (s : State) (vf off : Nat) (val : DWord) : State :=
  let off := regOff vf off
  match s.boot with
  | .up =>
    let mask := writeMask s vf off
    let s := if mask = 0 then s else setBarWord s vf off (mergeWord (barWord s vf off) val mask)
    writeEffect s vf off val
  | .minimal => if vf = 0 && off = 0x2000 then writeEffect s vf off val else s
  | _ => s

/-- The word of BAR0 that a read at an offset gives; zero where nothing is listed. A virtual function shows its own entry of
the function table. -/
def readRegister (s : State) (vf off : Nat) : DWord :=
  match s.boot with
  | .up => if off < 128 then barWord s 0 (0x10000 + 128 * vf + off) else if vf ≠ 0 && 0x1400 ≤ off then 0 else barWord s vf off
  | .minimal => if vf = 0 && off = 0x2000 then barWord s 0 off else 0
  | _ => 0

/-! ### Configuration and BAR requests on the host's links (R361) -/

def readConfig (s : State) (r : CfgReg) : DWord :=
  match r with
  | .totalVfs => 96
  | .firstVfOffset => 1
  | .vfStride => 1
  | .numVfs => BitVec.ofNat 64 s.numVfs
  | .deviceControl2 => if s.atomicOps then 0x40 else 0
/-- In minimal mode NumVFs is held at 0 (R379). -/
def writeConfig (s : State) (r : CfgReg) (val : DWord) : State :=
  match r with
  | .numVfs => if s.boot == .up && decide (val.toNat ≤ 96) then { s with numVfs := val.toNat } else s
  | .deviceControl2 => { s with atomicOps := val.getLsbD 6 }
  | _ => s

/-- Either link may carry a request; it is completed on the link that carried it (log 88). -/
def hostRequest (s : State) (link : Nat) (r : HostReq) : State :=
  if !s.links.contains link then s
  else
    match r with
    | .barRead vf off => send s (.completion link (if vf ≤ 96 then readRegister s vf off else 0))
    | .barWrite vf off val => send (if vf ≤ 96 then writeRegister s vf off val else s) (.completion link 0)
    | .cfgRead r => send s (.completion link (readConfig s r))
    | .cfgWrite r val => send (writeConfig s r val) (.completion link 0)

def execRegisterWrite (vf off : Nat) (val : DWord) (s : State) : Host.Outcome State Fault Refusal :=
  if 96 < vf then .next s else done (writeRegister s vf off val)

end Sys2Proof.Machine
end

