-- ==== Sys2Proof/Machine/Dispatch.lean ====
section
/-! DEFINITION. The dispatch of an instruction or event to its meaning. -/

namespace Sys2Proof.Machine

/-- What one instruction word or one event of the machine does. -/
def exec (i : Instr) (s : State) : Host.Outcome State Fault Refusal :=
  match i with
  | .nop p => Sys2Proof.Machine.execNop p s
  | .bra p off => Sys2Proof.Machine.execBra p off s
  | .brx p a => Sys2Proof.Machine.execBrx p a s
  | .call p off => Sys2Proof.Machine.execCall p off s
  | .callx p a => Sys2Proof.Machine.execCallx p a s
  | .ret p => Sys2Proof.Machine.execRet p s
  | .exit p => Sys2Proof.Machine.execExit p s
  | .spawn p b off => Sys2Proof.Machine.execSpawn p b off s
  | .spawnq p d a off q => Sys2Proof.Machine.execSpawnq p d a off q s
  | .waitc p cls n => Sys2Proof.Machine.execWaitc p cls n s
  | .barArr p d b c => Sys2Proof.Machine.execBarArr p d b c s
  | .barWait p a b => Sys2Proof.Machine.execBarWait p a b s
  | .barSync p b c => Sys2Proof.Machine.execBarSync p b c s
  | .yield p sc => Sys2Proof.Machine.execYield p sc s
  | .trap p code => Sys2Proof.Machine.execTrap p code s
  | .bkpt p => Sys2Proof.Machine.execBkpt p s
  | .gsync p => Sys2Proof.Machine.execGsync p s
  | .sleep p n => Sys2Proof.Machine.execSleep p n s
  | .udf hi lo => Sys2Proof.Machine.execUdf hi lo s
  | .brt p a b n h => Sys2Proof.Machine.execBrt p a b n h s
  | .iadd32 p d a b => Sys2Proof.Machine.execIadd32 p d a b s
  | .iadd64 p d a b => Sys2Proof.Machine.execIadd64 p d a b s
  | .isub32 p d a b => Sys2Proof.Machine.execIsub32 p d a b s
  | .isub64 p d a b => Sys2Proof.Machine.execIsub64 p d a b s
  | .iaddc p d a b pd ps nps => Sys2Proof.Machine.execIaddc p d a b pd ps nps s
  | .imulLo p d a b => Sys2Proof.Machine.execImulLo p d a b s
  | .imulhS p d a b => Sys2Proof.Machine.execImulhS p d a b s
  | .imulhN p d a b => Sys2Proof.Machine.execImulhN p d a b s
  | .imulwS p d a b => Sys2Proof.Machine.execImulwS p d a b s
  | .imulwN p d a b => Sys2Proof.Machine.execImulwN p d a b s
  | .imadLo p d a b c => Sys2Proof.Machine.execImadLo p d a b c s
  | .imadwS p d a b c => Sys2Proof.Machine.execImadwS p d a b c s
  | .imadwN p d a b c => Sys2Proof.Machine.execImadwN p d a b c s
  | .imad64 p d a b c => Sys2Proof.Machine.execImad64 p d a b c s
  | .idivS p d a b => Sys2Proof.Machine.execIdivS p d a b s
  | .idivN p d a b => Sys2Proof.Machine.execIdivN p d a b s
  | .iremS p d a b => Sys2Proof.Machine.execIremS p d a b s
  | .iremN p d a b => Sys2Proof.Machine.execIremN p d a b s
  | .iminS p d a b => Sys2Proof.Machine.execIminS p d a b s
  | .iminN p d a b => Sys2Proof.Machine.execIminN p d a b s
  | .imaxS p d a b => Sys2Proof.Machine.execImaxS p d a b s
  | .imaxN p d a b => Sys2Proof.Machine.execImaxN p d a b s
  | .iabs p d a => Sys2Proof.Machine.execIabs p d a s
  | .ineg p d a => Sys2Proof.Machine.execIneg p d a s
  | .andB p d a b => Sys2Proof.Machine.execAndB p d a b s
  | .orB p d a b => Sys2Proof.Machine.execOrB p d a b s
  | .xorB p d a b => Sys2Proof.Machine.execXorB p d a b s
  | .notB p d a => Sys2Proof.Machine.execNotB p d a s
  | .lut3 p d a b c tbl => Sys2Proof.Machine.execLut3 p d a b c tbl s
  | .shl p d a b => Sys2Proof.Machine.execShl p d a b s
  | .shr p d a b => Sys2Proof.Machine.execShr p d a b s
  | .sar p d a b => Sys2Proof.Machine.execSar p d a b s
  | .rot p d a b => Sys2Proof.Machine.execRot p d a b s
  | .fshfL p d a b c => Sys2Proof.Machine.execFshfL p d a b c s
  | .fshfR p d a b c => Sys2Proof.Machine.execFshfR p d a b c s
  | .popc p d a => Sys2Proof.Machine.execPopc p d a s
  | .clz p d a => Sys2Proof.Machine.execClz p d a s
  | .brev p d a => Sys2Proof.Machine.execBrev p d a s
  | .bfeS p d a b => Sys2Proof.Machine.execBfeS p d a b s
  | .bfeN p d a b => Sys2Proof.Machine.execBfeN p d a b s
  | .bfi p d a b c => Sys2Proof.Machine.execBfi p d a b c s
  | .icmpS32 p cmp pd a b => Sys2Proof.Machine.execIcmpS32 p cmp pd a b s
  | .icmpN32 p cmp pd a b => Sys2Proof.Machine.execIcmpN32 p cmp pd a b s
  | .icmpS64 p cmp pd a b => Sys2Proof.Machine.execIcmpS64 p cmp pd a b s
  | .icmpN64 p cmp pd a b => Sys2Proof.Machine.execIcmpN64 p cmp pd a b s
  | .ipick p d a b ps nps => Sys2Proof.Machine.execIpick p d a b ps nps s
  | .idp4S p d a b c => Sys2Proof.Machine.execIdp4S p d a b c s
  | .idp4N p d a b c => Sys2Proof.Machine.execIdp4N p d a b c s
  | .padd16 p d a b m => Sys2Proof.Machine.execPadd16 p d a b m s
  | .padd8 p d a b m => Sys2Proof.Machine.execPadd8 p d a b m s
  | .psub16 p d a b m => Sys2Proof.Machine.execPsub16 p d a b m s
  | .psub8 p d a b m => Sys2Proof.Machine.execPsub8 p d a b m s
  | .pmaxS16 p d a b => Sys2Proof.Machine.execPmaxS16 p d a b s
  | .pmaxN16 p d a b => Sys2Proof.Machine.execPmaxN16 p d a b s
  | .pminS16 p d a b => Sys2Proof.Machine.execPminS16 p d a b s
  | .pminN16 p d a b => Sys2Proof.Machine.execPminN16 p d a b s
  | .pcmp16 p d a b cmp uns => Sys2Proof.Machine.execPcmp16 p d a b cmp uns s
  | .pcmp8 p d a b cmp uns => Sys2Proof.Machine.execPcmp8 p d a b cmp uns s
  | .psel p d a b c => Sys2Proof.Machine.execPsel p d a b c s
  | .pacs p d a b c e m pd => Sys2Proof.Machine.execPacs p d a b c e m pd s
  | .perm p d a b c => Sys2Proof.Machine.execPerm p d a b c s
  | .mov p d a w64 => Sys2Proof.Machine.execMov p d a w64 s
  | .movi p d w64 imm => Sys2Proof.Machine.execMovi p d w64 imm s
  | .lea p d a pcrel imm => Sys2Proof.Machine.execLea p d a pcrel imm s
  | .plog p pd pa na pb nb op => Sys2Proof.Machine.execPlog p pd pa na pb nb op s
  | .pget p d => Sys2Proof.Machine.execPget p d s
  | .pput p a mask => Sys2Proof.Machine.execPput p a mask s
  | .shl64 p d a b => Sys2Proof.Machine.execShl64 p d a b s
  | .shr64 p d a b => Sys2Proof.Machine.execShr64 p d a b s
  | .sar64 p d a b => Sys2Proof.Machine.execSar64 p d a b s
  | .faddF64 p d a b rm => Sys2Proof.Machine.execFaddF64 p d a b rm s
  | .faddF32 p d a b rm ftz => Sys2Proof.Machine.execFaddF32 p d a b rm ftz s
  | .faddF16x2 p d a b rm ftz => Sys2Proof.Machine.execFaddF16x2 p d a b rm ftz s
  | .faddBf16x2 p d a b rm => Sys2Proof.Machine.execFaddBf16x2 p d a b rm s
  | .fsubF64 p d a b rm => Sys2Proof.Machine.execFsubF64 p d a b rm s
  | .fsubF32 p d a b rm ftz => Sys2Proof.Machine.execFsubF32 p d a b rm ftz s
  | .fsubF16x2 p d a b rm ftz => Sys2Proof.Machine.execFsubF16x2 p d a b rm ftz s
  | .fsubBf16x2 p d a b rm => Sys2Proof.Machine.execFsubBf16x2 p d a b rm s
  | .fmulF64 p d a b rm => Sys2Proof.Machine.execFmulF64 p d a b rm s
  | .fmulF32 p d a b rm ftz => Sys2Proof.Machine.execFmulF32 p d a b rm ftz s
  | .fmulF16x2 p d a b rm ftz => Sys2Proof.Machine.execFmulF16x2 p d a b rm ftz s
  | .fmulBf16x2 p d a b rm => Sys2Proof.Machine.execFmulBf16x2 p d a b rm s
  | .ffmaF64 p d a b c rm => Sys2Proof.Machine.execFfmaF64 p d a b c rm s
  | .ffmaF32 p d a b c rm ftz => Sys2Proof.Machine.execFfmaF32 p d a b c rm ftz s
  | .ffmaF16x2 p d a b c rm ftz => Sys2Proof.Machine.execFfmaF16x2 p d a b c rm ftz s
  | .ffmaBf16x2 p d a b c rm => Sys2Proof.Machine.execFfmaBf16x2 p d a b c rm s
  | .fminF64 p d a b => Sys2Proof.Machine.execFminF64 p d a b s
  | .fminF32 p d a b ftz => Sys2Proof.Machine.execFminF32 p d a b ftz s
  | .fminF16x2 p d a b ftz => Sys2Proof.Machine.execFminF16x2 p d a b ftz s
  | .fminBf16x2 p d a b => Sys2Proof.Machine.execFminBf16x2 p d a b s
  | .fmaxF64 p d a b => Sys2Proof.Machine.execFmaxF64 p d a b s
  | .fmaxF32 p d a b ftz => Sys2Proof.Machine.execFmaxF32 p d a b ftz s
  | .fmaxF16x2 p d a b ftz => Sys2Proof.Machine.execFmaxF16x2 p d a b ftz s
  | .fmaxBf16x2 p d a b => Sys2Proof.Machine.execFmaxBf16x2 p d a b s
  | .fcmpF64 p cmp pd a b sig => Sys2Proof.Machine.execFcmpF64 p cmp pd a b sig s
  | .fcmpF32 p cmp pd a b sig ftz => Sys2Proof.Machine.execFcmpF32 p cmp pd a b sig ftz s
  | .fcmpF16x2 p cmp pd a b sig ftz => Sys2Proof.Machine.execFcmpF16x2 p cmp pd a b sig ftz s
  | .fcmpBf16x2 p cmp pd a b sig => Sys2Proof.Machine.execFcmpBf16x2 p cmp pd a b sig s
  | .fdivF64 p d a b rm => Sys2Proof.Machine.execFdivF64 p d a b rm s
  | .fdivF32 p d a b rm ftz => Sys2Proof.Machine.execFdivF32 p d a b rm ftz s
  | .fsqrtF64 p d a rm => Sys2Proof.Machine.execFsqrtF64 p d a rm s
  | .fsqrtF32 p d a rm ftz => Sys2Proof.Machine.execFsqrtF32 p d a rm ftz s
  | .frcpF64 p d a rm => Sys2Proof.Machine.execFrcpF64 p d a rm s
  | .frcpF32 p d a rm ftz => Sys2Proof.Machine.execFrcpF32 p d a rm ftz s
  | .frsqF64 p d a rm => Sys2Proof.Machine.execFrsqF64 p d a rm s
  | .frsqF32 p d a rm ftz => Sys2Proof.Machine.execFrsqF32 p d a rm ftz s
  | .fexp2F32 p d a rm ftz => Sys2Proof.Machine.execFexp2F32 p d a rm ftz s
  | .flog2F32 p d a rm ftz => Sys2Proof.Machine.execFlog2F32 p d a rm ftz s
  | .fsinF32 p d a rm ftz => Sys2Proof.Machine.execFsinF32 p d a rm ftz s
  | .fcosF32 p d a rm ftz => Sys2Proof.Machine.execFcosF32 p d a rm ftz s
  | .ftanhF32 p d a rm ftz => Sys2Proof.Machine.execFtanhF32 p d a rm ftz s
  | .fexp2F64 p d a rm => Sys2Proof.Machine.execFexp2F64 p d a rm s
  | .flog2F64 p d a rm => Sys2Proof.Machine.execFlog2F64 p d a rm s
  | .fsinF64 p d a rm => Sys2Proof.Machine.execFsinF64 p d a rm s
  | .fcosF64 p d a rm => Sys2Proof.Machine.execFcosF64 p d a rm s
  | .fscaleF64 p d a b rm => Sys2Proof.Machine.execFscaleF64 p d a b rm s
  | .fscaleF32 p d a b rm ftz => Sys2Proof.Machine.execFscaleF32 p d a b rm ftz s
  | .frndF64 p d a rm => Sys2Proof.Machine.execFrndF64 p d a rm s
  | .frndF32 p d a rm ftz => Sys2Proof.Machine.execFrndF32 p d a rm ftz s
  | .fclassF64 p d a => Sys2Proof.Machine.execFclassF64 p d a s
  | .fclassF32 p d a => Sys2Proof.Machine.execFclassF32 p d a s
  | .fcvtF64F32 p d a rm => Sys2Proof.Machine.execFcvtF64F32 p d a rm s
  | .fcvtF32F64 p d a rm => Sys2Proof.Machine.execFcvtF32F64 p d a rm s
  | .fcvtF16x2F32 p d a b rm ftz => Sys2Proof.Machine.execFcvtF16x2F32 p d a b rm ftz s
  | .fcvtBf16x2F32 p d a b rm => Sys2Proof.Machine.execFcvtBf16x2F32 p d a b rm s
  | .fcvtF32F16x2 p d a rm ftz => Sys2Proof.Machine.execFcvtF32F16x2 p d a rm ftz s
  | .fcvtF32Bf16x2 p d a rm => Sys2Proof.Machine.execFcvtF32Bf16x2 p d a rm s
  | .fcvtF32S32 p d a rm ftz => Sys2Proof.Machine.execFcvtF32S32 p d a rm ftz s
  | .fcvtF32N32 p d a rm ftz => Sys2Proof.Machine.execFcvtF32N32 p d a rm ftz s
  | .fcvtF64S64 p d a rm => Sys2Proof.Machine.execFcvtF64S64 p d a rm s
  | .fcvtF64S32 p d a rm => Sys2Proof.Machine.execFcvtF64S32 p d a rm s
  | .fcvtS32F32 p d a rm ftz => Sys2Proof.Machine.execFcvtS32F32 p d a rm ftz s
  | .fcvtN32F32 p d a rm ftz => Sys2Proof.Machine.execFcvtN32F32 p d a rm ftz s
  | .fcvtS64F64 p d a rm => Sys2Proof.Machine.execFcvtS64F64 p d a rm s
  | .fcvtS32F64 p d a rm => Sys2Proof.Machine.execFcvtS32F64 p d a rm s
  | .mxdqE4m3 p d a b j sel rm ftz => Sys2Proof.Machine.execMxdqE4m3 p d a b j sel rm ftz s
  | .mxdqE5m2 p d a b j sel rm ftz => Sys2Proof.Machine.execMxdqE5m2 p d a b j sel rm ftz s
  | .mxdqE2m3 p d a b j sel rm ftz => Sys2Proof.Machine.execMxdqE2m3 p d a b j sel rm ftz s
  | .mxdqE3m2 p d a b j sel rm ftz => Sys2Proof.Machine.execMxdqE3m2 p d a b j sel rm ftz s
  | .mxdqE2m1 p d a b j sel rm ftz => Sys2Proof.Machine.execMxdqE2m1 p d a b j sel rm ftz s
  | .mxqE4m3 p d a cw => Sys2Proof.Machine.execMxqE4m3 p d a cw s
  | .mxqE2m1 p d a cw => Sys2Proof.Machine.execMxqE2m1 p d a cw s
  | .shflIdx p d a b lg cw pd => Sys2Proof.Machine.execShflIdx p d a b lg cw pd s
  | .shflUp p d a b lg cw pd => Sys2Proof.Machine.execShflUp p d a b lg cw pd s
  | .shflDown p d a b lg cw pd => Sys2Proof.Machine.execShflDown p d a b lg cw pd s
  | .shflXor p d a b lg cw pd => Sys2Proof.Machine.execShflXor p d a b lg cw pd s
  | .vote p m d pd pa na cw => Sys2Proof.Machine.execVote p m d pd pa na cw s
  | .reduxI p d a op cw => Sys2Proof.Machine.execReduxI p d a op cw s
  | .reduxF32 p d a op rm ftz cw => Sys2Proof.Machine.execReduxF32 p d a op rm ftz cw s
  | .scanI p d a op exc cw => Sys2Proof.Machine.execScanI p d a op exc cw s
  | .scanF32 p d a op exc rm ftz cw => Sys2Proof.Machine.execScanF32 p d a op exc rm ftz cw s
  | .matchAny p d a w64 cw pd => Sys2Proof.Machine.execMatchAny p d a w64 cw pd s
  | .ldS8 p d a off h => Sys2Proof.Machine.execLdS8 p d a off h s
  | .ldN8 p d a off h => Sys2Proof.Machine.execLdN8 p d a off h s
  | .ldS16 p d a off h => Sys2Proof.Machine.execLdS16 p d a off h s
  | .ldN16 p d a off h => Sys2Proof.Machine.execLdN16 p d a off h s
  | .ld32 p d a off h => Sys2Proof.Machine.execLd32 p d a off h s
  | .ld64 p d a off h => Sys2Proof.Machine.execLd64 p d a off h s
  | .ld128 p d a off h => Sys2Proof.Machine.execLd128 p d a off h s
  | .st8 p a off b h => Sys2Proof.Machine.execSt8 p a off b h s
  | .st16 p a off b h => Sys2Proof.Machine.execSt16 p a off b h s
  | .st32 p a off b h => Sys2Proof.Machine.execSt32 p a off b h s
  | .st64 p a off b h => Sys2Proof.Machine.execSt64 p a off b h s
  | .st128 p a off b h => Sys2Proof.Machine.execSt128 p a off b h s
  | .lda32 p d a off sem sc => Sys2Proof.Machine.execLda32 p d a off sem sc s
  | .lda64 p d a off sem sc => Sys2Proof.Machine.execLda64 p d a off sem sc s
  | .str32 p a off b sem sc => Sys2Proof.Machine.execStr32 p a off b sem sc s
  | .str64 p a off b sem sc => Sys2Proof.Machine.execStr64 p a off b sem sc s
  | .atom32Add p d a off b sem sc => Sys2Proof.Machine.execAtom32Add p d a off b sem sc s
  | .atom32MinS p d a off b sem sc => Sys2Proof.Machine.execAtom32MinS p d a off b sem sc s
  | .atom32MinN p d a off b sem sc => Sys2Proof.Machine.execAtom32MinN p d a off b sem sc s
  | .atom32MaxS p d a off b sem sc => Sys2Proof.Machine.execAtom32MaxS p d a off b sem sc s
  | .atom32MaxN p d a off b sem sc => Sys2Proof.Machine.execAtom32MaxN p d a off b sem sc s
  | .atom32And p d a off b sem sc => Sys2Proof.Machine.execAtom32And p d a off b sem sc s
  | .atom32Or p d a off b sem sc => Sys2Proof.Machine.execAtom32Or p d a off b sem sc s
  | .atom32Xor p d a off b sem sc => Sys2Proof.Machine.execAtom32Xor p d a off b sem sc s
  | .atom32Exch p d a off b sem sc => Sys2Proof.Machine.execAtom32Exch p d a off b sem sc s
  | .atom32Cas p d a off b c sem sc => Sys2Proof.Machine.execAtom32Cas p d a off b c sem sc s
  | .atom64Add p d a off b sem sc => Sys2Proof.Machine.execAtom64Add p d a off b sem sc s
  | .atom64Exch p d a off b sem sc => Sys2Proof.Machine.execAtom64Exch p d a off b sem sc s
  | .atom64Cas p d a off b c sem sc => Sys2Proof.Machine.execAtom64Cas p d a off b c sem sc s
  | .atom64MaxN p d a off b sem sc => Sys2Proof.Machine.execAtom64MaxN p d a off b sem sc s
  | .atomF32Add p d a off b rm sem sc => Sys2Proof.Machine.execAtomF32Add p d a off b rm sem sc s
  | .atomF64Add p d a off b rm sem sc => Sys2Proof.Machine.execAtomF64Add p d a off b rm sem sc s
  | .atomBf16x2Add p d a off b rm sem sc => Sys2Proof.Machine.execAtomBf16x2Add p d a off b rm sem sc s
  | .red32 p a off b op sem sc => Sys2Proof.Machine.execRed32 p a off b op sem sc s
  | .redF32Add p a off b rm sem sc => Sys2Proof.Machine.execRedF32Add p a off b rm sem sc s
  | .fence p sem sc => Sys2Proof.Machine.execFence p sem sc s
  | .pref p a off h => Sys2Proof.Machine.execPref p a off h s
  | .cctl p op lvl2 a off => Sys2Proof.Machine.execCctl p op lvl2 a off s
  | .ldl32 p d idx a off h => Sys2Proof.Machine.execLdl32 p d idx a off h s
  | .ldl64 p d idx a off h => Sys2Proof.Machine.execLdl64 p d idx a off h s
  | .ldl128 p d idx a off h => Sys2Proof.Machine.execLdl128 p d idx a off h s
  | .stl32 p idx a off b h => Sys2Proof.Machine.execStl32 p idx a off b h s
  | .stl64 p idx a off b h => Sys2Proof.Machine.execStl64 p idx a off b h s
  | .stl128 p idx a off b h => Sys2Proof.Machine.execStl128 p idx a off b h s
  | .atomCas128 p d a off b c sem sc => Sys2Proof.Machine.execAtomCas128 p d a off b c sem sc s
  | .ldnf p d w a off pd h => Sys2Proof.Machine.execLdnf p d w a off pd h s
  | .addrq p d a off => Sys2Proof.Machine.execAddrq p d a off s
  | .zline p a off h => Sys2Proof.Machine.execZline p a off h s
  | .sreg p d w64 idx => Sys2Proof.Machine.execSreg p d w64 idx s
  | .sset p idx a => Sys2Proof.Machine.execSset p idx a s
  | .rng p d w u01 => Sys2Proof.Machine.execRng p d w u01 s
  | .clock p d => Sys2Proof.Machine.execClock p d s
  | .pmcfg p c a => Sys2Proof.Machine.execPmcfg p c a s
  | .pmrd p d c => Sys2Proof.Machine.execPmrd p d c s
  | .rply p d a off => Sys2Proof.Machine.execRply p d a off s
  | .topen p d a off => Sys2Proof.Machine.execTopen p d a off s
  | .tscore p add a => Sys2Proof.Machine.execTscore p add a s
  | .tbar p => Sys2Proof.Machine.execTbar p s
  | .tstat p d a off b => Sys2Proof.Machine.execTstat p d a off b s
  | .tkill p a off b => Sys2Proof.Machine.execTkill p a off b s
  | .svc p a n => Sys2Proof.Machine.execSvc p a n s
  | .errq p d a off => Sys2Proof.Machine.execErrq p d a off s
  | .tbind p d h a off x => Sys2Proof.Machine.execTbind p d h a off x s
  | .tfree p h unbind => Sys2Proof.Machine.execTfree p h unbind s
  | .tload p h at_ b c => Sys2Proof.Machine.execTload p h at_ b c s
  | .tstore p h at_ b c => Sys2Proof.Machine.execTstore p h at_ b c s
  | .tstoreq p h at_ b c fmt => Sys2Proof.Machine.execTstoreq p h at_ b c fmt s
  | .tfill p h => Sys2Proof.Machine.execTfill p h s
  | .tstate p d h => Sys2Proof.Machine.execTstate p d h s
  | .gathI32 p a off x => Sys2Proof.Machine.execGathI32 p a off x s
  | .gathI64 p a off x => Sys2Proof.Machine.execGathI64 p a off x s
  | .scatI32 p a off x => Sys2Proof.Machine.execScatI32 p a off x s
  | .scatI64 p a off x => Sys2Proof.Machine.execScatI64 p a off x s
  | .scatcI32 p a off op x => Sys2Proof.Machine.execScatcI32 p a off op x s
  | .scatcI64 p a off op x => Sys2Proof.Machine.execScatcI64 p a off op x s
  | .greplay p a off => Sys2Proof.Machine.execGreplay p a off s
  | .slbind p d a off free => Sys2Proof.Machine.execSlbind p d a off free s
  | .slpost p a off b c e => Sys2Proof.Machine.execSlpost p a off b c e s
  | .slpass p a off x b => Sys2Proof.Machine.execSlpass p a off x b s
  | .slread p d a off sel b => Sys2Proof.Machine.execSlread p d a off sel b s
  | .sltrunc p d a off b => Sys2Proof.Machine.execSltrunc p d a off b s
  | .sropen p d a off => Sys2Proof.Machine.execSropen p d a off s
  | .srpost p a off b c e => Sys2Proof.Machine.execSrpost p a off b c e s
  | .srend p a off b => Sys2Proof.Machine.execSrend p a off b s
  | .cred p a off op ty sy x => Sys2Proof.Machine.execCred p a off op ty sy x s
  | .cgath p a off sy x => Sys2Proof.Machine.execCgath p a off sy x s
  | .cbcast p a off sy x => Sys2Proof.Machine.execCbcast p a off sy x s
  | .cscat p a off sy x => Sys2Proof.Machine.execCscat p a off sy x s
  | .csend p a off sy x => Sys2Proof.Machine.execCsend p a off sy x s
  | .crecv p a off sy x => Sys2Proof.Machine.execCrecv p a off sy x s
  | .mrecv p d cw pd => Sys2Proof.Machine.execMrecv p d cw pd s
  | .mpost p a n => Sys2Proof.Machine.execMpost p a n s
  | .mldwBf16 a c e r j rel => Sys2Proof.Machine.execMldwBf16 a c e r j rel s
  | .mldwFp16 a c e r j rel => Sys2Proof.Machine.execMldwFp16 a c e r j rel s
  | .mldwE4m3 a c e r j rel => Sys2Proof.Machine.execMldwE4m3 a c e r j rel s
  | .mldwE5m2 a c e r j rel => Sys2Proof.Machine.execMldwE5m2 a c e r j rel s
  | .mldwE2m3 a c e r j rel => Sys2Proof.Machine.execMldwE2m3 a c e r j rel s
  | .mldwE3m2 a c e r j rel => Sys2Proof.Machine.execMldwE3m2 a c e r j rel s
  | .mldwE2m1 a c e r j rel => Sys2Proof.Machine.execMldwE2m1 a c e r j rel s
  | .mldwI8 a c e r j rel => Sys2Proof.Machine.execMldwI8 a c e r j rel s
  | .mldwT2 a c e r j rel => Sys2Proof.Machine.execMldwT2 a c e r j rel s
  | .mldwF64 a c e r j rel => Sys2Proof.Machine.execMldwF64 a c e r j rel s
  | .mstrmBf16 d a c e r j rel m0 => Sys2Proof.Machine.execMstrmBf16 d a c e r j rel m0 s
  | .mstrmFp16 d a c e r j rel m0 => Sys2Proof.Machine.execMstrmFp16 d a c e r j rel m0 s
  | .mstrmE4m3 d a c e r j rel m0 => Sys2Proof.Machine.execMstrmE4m3 d a c e r j rel m0 s
  | .mstrmE5m2 d a c e r j rel m0 => Sys2Proof.Machine.execMstrmE5m2 d a c e r j rel m0 s
  | .mstrmE2m3 d a c e r j rel m0 => Sys2Proof.Machine.execMstrmE2m3 d a c e r j rel m0 s
  | .mstrmE3m2 d a c e r j rel m0 => Sys2Proof.Machine.execMstrmE3m2 d a c e r j rel m0 s
  | .mstrmE2m1 d a c e r j rel m0 => Sys2Proof.Machine.execMstrmE2m1 d a c e r j rel m0 s
  | .mstrmI8 d a c e r j rel m0 => Sys2Proof.Machine.execMstrmI8 d a c e r j rel m0 s
  | .mstrmF64 d a c e r j rel m0 rm => Sys2Proof.Machine.execMstrmF64 d a c e r j rel m0 rm s
  | .mswap => Sys2Proof.Machine.execMswap s
  | .mzero d m0 rows => Sys2Proof.Machine.execMzero d m0 rows s
  | .mdrain d a st z kind m0 r j => Sys2Proof.Machine.execMdrain d a st z kind m0 r j s
  | .mdrainl d g st z kind m0 rows beats => Sys2Proof.Machine.execMdrainl d g st z kind m0 rows beats s
  | .mchain a b fmt bias table => Sys2Proof.Machine.execMchain a b fmt bias table s
  | .mgrp d a b c st g sel => Sys2Proof.Machine.execMgrp d a b c st g sel s
  | .asave d j lc q off => Sys2Proof.Machine.execAsave d j lc q off s
  | .aload d j lc q off => Sys2Proof.Machine.execAload d j lc q off s
  | .mbara b c => Sys2Proof.Machine.execMbara b c s
  | .mbarw b c => Sys2Proof.Machine.execMbarw b c s
  | .mloop q n => Sys2Proof.Machine.execMloop q n s
  | .mnext => Sys2Proof.Machine.execMnext s
  | .mend => Sys2Proof.Machine.execMend s
  | .pickerIssue core => Sys2Proof.Machine.execPickerIssue core s
  | .fixedLatencyWriteLand uid => Sys2Proof.Machine.execFixedLatencyWriteLand uid s
  | .variableResultLand uid id => Sys2Proof.Machine.execVariableResultLand uid id s
  | .slotSwap core => Sys2Proof.Machine.execSlotSwap core s
  | .courseForm core => Sys2Proof.Machine.execCourseForm core s
  | .threadRaise uid => Sys2Proof.Machine.execThreadRaise uid s
  | .mergeHoldExpire bid hdr => Sys2Proof.Machine.execMergeHoldExpire bid hdr s
  | .crosslaneExpire bid inst => Sys2Proof.Machine.execCrosslaneExpire bid inst s
  | .sleepExpire uid => Sys2Proof.Machine.execSleepExpire uid s
  | .spawnPackClose bid entry => Sys2Proof.Machine.execSpawnPackClose bid entry s
  | .spawnGangReady bid gang => Sys2Proof.Machine.execSpawnGangReady bid gang s
  | .threadRecordFree uid => Sys2Proof.Machine.execThreadRecordFree uid s
  | .tileFillComplete op => Sys2Proof.Machine.execTileFillComplete op s
  | .tileStoreStart op => Sys2Proof.Machine.execTileStoreStart op s
  | .tileStoreComplete op => Sys2Proof.Machine.execTileStoreComplete op s
  | .gatherFamilyComplete op => Sys2Proof.Machine.execGatherFamilyComplete op s
  | .slpostMerge op => Sys2Proof.Machine.execSlpostMerge op s
  | .slpassApply op => Sys2Proof.Machine.execSlpassApply op s
  | .slpassComplete op => Sys2Proof.Machine.execSlpassComplete op s
  | .sltruncApply op => Sys2Proof.Machine.execSltruncApply op s
  | .slreadAnswer op => Sys2Proof.Machine.execSlreadAnswer op s
  | .streamRingPost post => Sys2Proof.Machine.execStreamRingPost post s
  | .streamRingHeadPoll post => Sys2Proof.Machine.execStreamRingHeadPoll post s
  | .collectiveInstanceComplete inst => Sys2Proof.Machine.execCollectiveInstanceComplete inst s
  | .sequencerStart bid => Sys2Proof.Machine.execSequencerStart bid s
  | .matrixOperationPerform bid => Sys2Proof.Machine.execMatrixOperationPerform bid s
  | .drainBeatEnqueue bid => Sys2Proof.Machine.execDrainBeatEnqueue bid s
  | .weightContextSwitch quad => Sys2Proof.Machine.execWeightContextSwitch quad s
  | .weightRequestRaise bid => Sys2Proof.Machine.execWeightRequestRaise bid s
  | .pageWalkComplete walk => Sys2Proof.Machine.execPageWalkComplete walk s
  | .faultRingHeadPoll => Sys2Proof.Machine.execFaultRingHeadPoll s
  | .responseRingRead => Sys2Proof.Machine.execResponseRingRead s
  | .responseMapped vf page => Sys2Proof.Machine.execResponseMapped vf page s
  | .responseTerminateLaunch vf page code => Sys2Proof.Machine.execResponseTerminateLaunch vf page code s
  | .responseDeliverTrap vf page => Sys2Proof.Machine.execResponseDeliverTrap vf page s
  | .responseShootDown vf page len => Sys2Proof.Machine.execResponseShootDown vf page len s
  | .responseDeclareAlias vf page canon => Sys2Proof.Machine.execResponseDeclareAlias vf page canon s
  | .responseRemoveAlias vf page => Sys2Proof.Machine.execResponseRemoveAlias vf page s
  | .shootDownComplete id => Sys2Proof.Machine.execShootDownComplete id s
  | .queueTailWrite vf q tail => Sys2Proof.Machine.execQueueTailWrite vf q tail s
  | .queueRecordAdmit vf q => Sys2Proof.Machine.execQueueRecordAdmit vf q s
  | .queueEnable vf q => Sys2Proof.Machine.execQueueEnable vf q s
  | .queueDisable vf q => Sys2Proof.Machine.execQueueDisable vf q s
  | .groupPlace lid => Sys2Proof.Machine.execGroupPlace lid s
  | .deficitVisit => Sys2Proof.Machine.execDeficitVisit s
  | .deficitStarvation vf => Sys2Proof.Machine.execDeficitStarvation vf s
  | .blockPreempt bid => Sys2Proof.Machine.execBlockPreempt bid s
  | .preemptSave bid => Sys2Proof.Machine.execPreemptSave bid s
  | .blockResume bid => Sys2Proof.Machine.execBlockResume bid s
  | .reachLaunchRequest src datagram => Sys2Proof.Machine.execReachLaunchRequest src datagram s
  | .functionSuspend vf => Sys2Proof.Machine.execFunctionSuspend vf s
  | .functionResume vf => Sys2Proof.Machine.execFunctionResume vf s
  | .suspendTransitionComplete vf => Sys2Proof.Machine.execSuspendTransitionComplete vf s
  | .functionLevelReset vf => Sys2Proof.Machine.execFunctionLevelReset vf s
  | .serviceStart => Sys2Proof.Machine.execServiceStart s
  | .serviceEntryCall => Sys2Proof.Machine.execServiceEntryCall s
  | .replayPassStart rid => Sys2Proof.Machine.execReplayPassStart rid s
  | .replayPassEnd rid => Sys2Proof.Machine.execReplayPassEnd rid s
  | .roundEnd scope => Sys2Proof.Machine.execRoundEnd scope s
  | .tournamentHandover scope => Sys2Proof.Machine.execTournamentHandover scope s
  | .deviceStart failStage => Sys2Proof.Machine.execDeviceStart failStage s
  | .startStageTimeout stage => Sys2Proof.Machine.execStartStageTimeout stage s
  | .bootRestart => Sys2Proof.Machine.execBootRestart s
  | .islandCommand island code => Sys2Proof.Machine.execIslandCommand island code s
  | .islandStateChangeDone island => Sys2Proof.Machine.execIslandStateChangeDone island s
  | .powerAlarmAssert island => Sys2Proof.Machine.execPowerAlarmAssert island s
  | .powerAlarmClear island => Sys2Proof.Machine.execPowerAlarmClear island s
  | .alarmFallbackExpire island => Sys2Proof.Machine.execAlarmFallbackExpire island s
  | .pcieLinkUp link => Sys2Proof.Machine.execPcieLinkUp link s
  | .pcieLinkDown link => Sys2Proof.Machine.execPcieLinkDown link s
  | .fabricPortStateChange port up => Sys2Proof.Machine.execFabricPortStateChange port up s
  | .inboundWindowAccess req => Sys2Proof.Machine.execInboundWindowAccess req s
  | .peerTimeout peer => Sys2Proof.Machine.execPeerTimeout peer s
  | .firmwareUpdate upd => Sys2Proof.Machine.execFirmwareUpdate upd s
  | .spdmRequest req => Sys2Proof.Machine.execSpdmRequest req s
  | .pldmMctpRequest req => Sys2Proof.Machine.execPldmMctpRequest req s
  | .softErrorCorrected unit => Sys2Proof.Machine.execSoftErrorCorrected unit s
  | .machineCheck mc => Sys2Proof.Machine.execMachineCheck mc s
  | .memoryScrub vaults => Sys2Proof.Machine.execMemoryScrub vaults s
  | .registerWrite vf off val => Sys2Proof.Machine.execRegisterWrite vf off val s
  | .matrixOperationComplete bid => Sys2Proof.Machine.execMatrixOperationComplete bid s
  | .msixVectorUnmask vf vec => Sys2Proof.Machine.execMsixVectorUnmask vf vec s

end Sys2Proof.Machine
end

