-- ==== Sys2Proof/Machine/Run.lean ====
section
/-! DEFINITION. What one step does (log 6): the word that an agent is about to run, or else one of the things that are due,
or the end of the clock. Where several are due the order is open, and a free draw chooses (log 4). Also the state from
which the next step runs a given word (log 5). -/

namespace Sys2Proof.Machine

/-! ### The clock -/

/-- Table 7-6, event 0x0E: a clock in which an active slot of a core waits on a load's mark, once for each launch. -/
def stalledLaunches (s : State) (core : Nat) : List Nat :=
  (((coreSlots s core true).flatMap (slotThreads s)).filter fun t =>
    ((nextFields s core t).map fun f => t.pend.any fun p => p.load && markOn f p).getD false).map Thread.lid |>.dedup
def countStalls (s : State) : State :=
  if s.pmcs.all fun p => p.event != 0x0E || !p.on then s
  else
    (s.slots.map Slot.core).dedup.foldl (fun s core => (stalledLaunches s core).foldl (fun s l => countEvent s core l 0x0E 1) s) s

/-- Launches whose threads have all stopped by now (05 R129). -/
def stopsDue (s : State) : List Nat :=
  (s.launches.filter fun l => (l.term.map fun t => !t.stopped && decide (t.stopAt ≤ s.clock)).getD false).map Launch.lid

/-! ### Events that a bound covers -/

/-- A launch on a queue with a contract starts within the queue's bound: nothing puts off the forming of a first group's
slots, nor the placing of a reserved group (14 R311). -/
def contractFirst (s : State) (t : Thread) : Bool :=
  match s.launch? t.lid, s.block? t.bid with
  | some l, some b =>
    (l.queue.map fun q => share s l.vf q != 0).getD false && decide (b.idx < l.rcd.group) && decide (t.lastIssue ≤ b.placedAt)
  | _, _ => false
def formSoon (s : State) (core : Nat) : Bool := courseFormDue s core && s.threads.any fun t => eligible s core t && contractFirst s t
def resumeSoon (s : State) (bid : Nat) : Bool := blockResumeDue s bid && s.threads.any fun t => t.bid == bid && contractFirst s t
def placeSoon (s : State) (lid : Nat) : Bool :=
  ((s.launch? lid).map fun (l : Launch) => !l.reserved.isEmpty && groupPlaceDue s lid).getD false

/-- What is due and has to come about within a number of clocks: a slot of pallets (01 R46), the read of a response tail
(11 R273), and a pre-emption (11 R278) with its save (14 R310). -/
noncomputable def bounded (s : State) : List (Instr × Nat) :=
  (((s.blocks.map Block.core).dedup.filter (courseFormDue s)).map fun c => (Instr.courseForm c, Config.formBound)) ++
  (if responseReadDue s then [(Instr.responseRingRead, 256)] else []) ++
  ((s.blocks.filter fun b => blockPreemptDue s b.bid).map fun b => (Instr.blockPreempt b.bid, 256)) ++
  ((s.blocks.filter fun b => preemptSaveDue s b.bid).map fun b => (Instr.preemptSave b.bid, saveClocks b))

/-- Since when an event has been due. -/
def dueSince (s : State) (i : Instr) : Nat := ((s.ages.find? fun a => a.1 == i).map Prod.snd).getD s.clock
noncomputable def keepAges (s : State) : State := { s with ages := (bounded s).map fun x => (x.1, dueSince s x.1) }
noncomputable def overdue (s : State) : List Instr :=
  ((bounded s).filter fun x => decide (dueSince s x.1 + x.2 ≤ s.clock)).map Prod.fst
def forgetAge (s : State) (i : Instr) : State := { s with ages := s.ages.filter fun a => a.1 != i }

/-! ### Quads at 0.8 and 1.2 GHz (21 R380, log 24) -/

/-- Does the quad's clock go on through the next clock of the device? At 0.8 GHz every other one begins a clock of the quad,
at 1.2 GHz three of four do. -/
def longClock (s : State) (quad : Nat) : Bool :=
  match islandState s quad with
  | 2 => s.clock % 2 == 0
  | 3 => s.clock % 4 == 2
  | _ => false

/-- What counts the clocks of a quad is put off by the one that goes on. -/
def Pend.putOff (p : Pend) : Pend :=
  { p with due := match p.due with | .fixed c => .fixed (c + 1) | d => d }
def Thread.putOff (t : Thread) : Thread :=
  { t with readyAt := t.readyAt + 1, lastIssue := t.lastIssue + 1, pend := t.pend.map Pend.putOff
           wait := match t.wait with | .sleep c => .sleep (c + 1) | w => w }
def Slot.putOff (x : Slot) : Slot := { x with stamp := x.stamp + 1, busy := x.busy + 1 }
def Drain.putOff (d : Drain) : Drain := { d with beats := d.beats.map fun b => (b.1 + 1, b.2) }
def Stream.putOff (x : Stream) : Stream :=
  { x with lastFetch := x.lastFetch.map (· + 1), running := x.running.map fun r => { r with drain := r.drain.map Drain.putOff } }
def Block.putOff (b : Block) : Block :=
  { b with
    placedAt := b.placedAt + 1, stream := b.stream.map Stream.putOff
    holds := b.holds.map fun h => { h with opened := h.opened + 1 }
    packs := b.packs.map fun p => { p with opened := p.opened + 1 }
    newGangs := b.newGangs.map fun g => { g with readyAt := g.readyAt + 1 }
    xinsts := b.xinsts.map fun x => { x with opened := x.opened.map (· + 1) } }
def WCtx.putOff (w : WCtx) : WCtx :=
  { w with since := w.since + 1, busy := w.busy + 1, reqs := w.reqs.map fun q => { q with since := q.since + 1 } }

/-- The quads whose clocks go on have theirs put off. -/
def putOffQuads (s : State) : State :=
  if (List.range 96).any (longClock s) then
    let at_ (core : Nat) : Bool := longClock s (coreQuad core)
    { s with
      threads := s.threads.map fun t => if at_ (coreOf s t) then t.putOff else t
      slots := s.slots.map fun x => if at_ x.core then x.putOff else x
      blocks := s.blocks.map fun b => if at_ b.core then b.putOff else b
      wctx := s.wctx.map fun w => if longClock s w.quad then w.putOff else w }
  else s

/-- The end of a clock. -/
noncomputable def tick (s : State) : State :=
  let s := keepAges (countStalls (chargeDeficits s))
  let goesOn (core : Nat) : Bool := longClock s (coreQuad core)
  let s : State := { putOffQuads s with
    clock := s.clock + 1, issuedNow := s.issuedNow.filter goesOn, swapsNow := s.swapsNow.filter goesOn, ending := false }
  let s : State := { s with
    slots := s.slots.map fun x =>
      if goesOn x.core then x else { x with offer := false, leave := x.leave && !yieldLapses s x } }
  (stopsDue s).foldl stopAny s

/-! ### What is due -/

/-- A thing that may happen next. -/
inductive Action where
  | ev (i : Instr)
  | turn (bid : Nat)               -- a matrix sequencer's front end
  | leave (slot : Nat)             -- threads whose wait at the end of their block is over enter the next one
  | perform (access : Nat)         -- an access in flight (12 R283)
  | look (op : Nat)                -- an engine operation finds memory as it is now (08 R197)
  | lookStream (bid : Nat)
  | drip (bid : Nat)               -- a word of an operation's writes to the vault (08 R197)
  | reach                          -- a request held for a suspended function (11 R280)
  | resetDone (vf : Nat)           -- a reset is reported done (21 R367)
  | input
  | evictL1 (key : Nat)            -- a line that holds the entry is replaced (11 R260)
  | evictL2 (key : Nat)
  | last                           -- the arrivals of the clock are over
  | tick

noncomputable def evs {α : Type} (xs : List α) (due : α → Bool) (i : α → Instr) : List Action :=
  (xs.filter due).map fun x => .ev (i x)

/-- The events of some engine operations. -/
noncomputable def engineEvents (s : State) (os : List EOp) : List Action :=
  let ops := os.map EOp.id
  evs ops (tileFillDue s) .tileFillComplete ++ evs ops (tileStoreStartDue s) .tileStoreStart ++
  evs ops (tileStoreDue s) .tileStoreComplete ++ evs ops (gatherDue s) .gatherFamilyComplete ++
  evs ops (slpostDue s) .slpostMerge ++ evs ops (slpassApplyDue s) .slpassApply ++ evs ops (slpassCompleteDue s) .slpassComplete ++
  evs ops (sltruncDue s) .sltruncApply ++ evs ops (slreadDue s) .slreadAnswer ++
  evs ops (collectiveDue s) .collectiveInstanceComplete ++
  evs ((s.posts.filter fun p => ops.contains p.op).map Post.id) (ringPostDue s) .streamRingPost

/-- The events of some blocks' streams. -/
noncomputable def streamEvents (s : State) (bs : List Nat) : List Action :=
  evs bs (matrixPerformDue s) .matrixOperationPerform ++ evs bs (matrixCompleteDue s) .matrixOperationComplete

/-- A block that is to be saved is not kept by what its engine operations or its stream could do now (11 R278, 14 R311). -/
noncomputable def saveSoon (s : State) : List Action :=
  let bs := (s.blocks.filter fun b => b.res == .saving).map Block.bid
  if bs.isEmpty then []
  else engineEvents s (s.ops.filter fun o => bs.contains o.bid && writesBlock s o.bid o) ++ streamEvents s bs ++
    evs (s.wctx.map WCtx.quad) (fun q => weightSwitchDue s q && s.blocks.any fun b => b.res == .saving && coreQuad b.core == q)
      .weightContextSwitch

/-- Landings, wakings and openings of this clock, and what a bound makes due. -/
noncomputable def dueFirst (s : State) : List Action :=
  let us := s.threads.map Thread.uid
  let bs := s.blocks.map Block.bid
  evs us (fixedLandDue s) .fixedLatencyWriteLand ++ evs us (sleepDue s) .sleepExpire ++ evs us (raiseDue s) .threadRaise ++
  ((s.slots.filter fun x => !(leavers s x).isEmpty).map fun x => .leave x.id) ++
  evs bs (drainBeatDue s) .drainBeatEnqueue ++ evs bs (weightRaiseDue s) .weightRequestRaise ++
  evs bs (sequencerStartDue s) .sequencerStart ++
  (s.blocks.flatMap fun b =>
    evs b.packs (fun p => packCloseDue s b.bid p.entry.toNat) (fun p => .spawnPackClose b.bid p.entry.toNat) ++
    evs b.newGangs (fun g => gangReadyDue s b.bid g.gang) (fun g => .spawnGangReady b.bid g.gang) ++
    evs b.holds (fun h => holdDue s b.bid h && decide (s.clock < h.opened + h.wait)) (fun h => .mergeHoldExpire b.bid h.hdr.toNat)) ++
  evs (s.posts.map Post.id) (ringPollDue s) .streamRingHeadPoll ++
  (if faultPollDue s then [.ev .faultRingHeadPoll] else []) ++
  evs s.scopes (scopeEndDue s) (fun x => .tournamentHandover x.sid) ++
  evs (s.launches.map Launch.lid) (placeSoon s) .groupPlace ++ evs (s.blocks.map Block.core).dedup (formSoon s) .courseForm ++
  evs bs (resumeSoon s) .blockResume ++ saveSoon s ++
  (s.badReads.map fun x => .ev (.machineCheck
    { unit := if x.2 < tier2Space then 0 else 1, place := .readBy x.1 x.2, addr := 0 })) ++
  (if (reachToAdmit s).isSome then [.reach] else []) ++ (overdue s).map .ev

/-- Swaps: those of raised slots come before the issues of a clock, all others at its end (R316). -/
noncomputable def dueSwaps (s : State) : List Action := evs (s.slots.map Slot.core).dedup (slotSwapDue s) .slotSwap
noncomputable def dueIssues (s : State) : List Action :=
  evs (s.slots.map Slot.core).dedup (pickerDue s) .pickerIssue ++ ((s.blocks.map Block.bid).filter (streamDue s)).map .turn
/-- Expiries, which an arrival in their clock precedes (R48). -/
noncomputable def dueLast (s : State) : List Action :=
  (s.blocks.flatMap fun b =>
    evs b.holds (holdDue s b.bid) (fun h => .mergeHoldExpire b.bid h.hdr.toNat) ++
    evs b.xinsts (fun x => crossExpireDue s b.bid x.id) (fun x => .crosslaneExpire b.bid x.id)) ++
  evs (s.alarms.map Alarm.island) (alarmDue s) .alarmFallbackExpire ++
  evs (s.changes.filter fun c => decide (c.due ≤ s.clock)) (fun c => changeDue s c.island) (fun c => .islandStateChangeDone c.island)

/-- The first of some groups that is not empty. -/
def firstGroup : List (List Action) → List Action
  | [] => []
  | [] :: gs => firstGroup gs
  | (a :: as) :: _ => a :: as

/-- What has to come about before the arrivals of the clock are over, and before the clock moves on. -/
noncomputable def mustDo (s : State) : List Action := firstGroup [dueFirst s, dueSwaps s, dueIssues s]
noncomputable def mustEnd (s : State) : List Action := firstGroup [dueLast s, dueSwaps s, [.tick]]

/-- May the operation take a look at what it is to read? -/
def looksNow (o : EOp) : Bool :=
  o.held.isEmpty &&
  (match o.work with
    | .fill _ _ load => load
    | .store _ _ _ started => started
    | .gather _ => true
    | .slot _ _ => true
    | .coll _ => true
    | _ => false)
/-- Memory as it stands joins the looks of an operation. -/
def lookNow (s : State) (op : Nat) : State := updOp s op fun o => { o with past := o.past ++ [s.mem] }
def lookStream (s : State) (bid : Nat) : State := updStream s bid fun x => { x with past := x.past ++ [s.mem] }

noncomputable def mayEngines (s : State) : List Action :=
  engineEvents s s.ops ++ evs ((s.posts.filter fun p => s.ops.all fun o => o.id != p.op).map Post.id) (ringPostDue s) .streamRingPost ++
  (s.ops.filter fun o => looksNow o && o.past.getLast? != some s.mem).map fun o => .look o.id

noncomputable def mayStreams (s : State) : List Action :=
  let bs := s.blocks.map Block.bid
  let streamOf (bid : Nat) (p : Stream → Bool) : Bool := ((s.stream? bid).map p).getD false
  streamEvents s bs ++ evs (s.wctx.map WCtx.quad) (weightSwitchDue s) .weightContextSwitch ++
  ((bs.filter fun b => streamLookDue s b && streamOf b fun x => x.past.getLast? != some s.mem).map .lookStream) ++
  (bs.filter fun b => streamOf b fun x => x.running.any fun r => !r.writes.isEmpty).map .drip

noncomputable def mayThreads (s : State) : List Action :=
  (s.threads.flatMap fun t => evs t.pend (fun p => variableLandDue s t.uid p.id) (fun p => .variableResultLand t.uid p.id)) ++
  ((s.flight.map Access.id).filter (performable s)).map .perform ++
  evs (s.blocks.map Block.core).dedup (courseFormDue s) .courseForm ++ evs (s.threads.map Thread.uid) (recordFreeDue s) .threadRecordFree

noncomputable def evIf (b : Bool) (i : Instr) : List Action := if b then [.ev i] else []

/-- The response whose turn it is. -/
noncomputable def nextResponse (s : State) : List Action :=
  match s.responses with
  | [] => []
  | r :: _ =>
    match r.kind with
    | 1 => [.ev (.responseMapped r.vf r.page)]
    | 2 => [.ev (.responseTerminateLaunch r.vf r.page r.code)]
    | 3 => [.ev (.responseDeliverTrap r.vf r.page)]
    | 4 => [.ev (.responseShootDown r.vf r.page (r.aux.toNat / 2 ^ 16))]
    | 5 => [.ev (.responseDeclareAlias r.vf r.page (pageOf r.aux))]
    | _ => [.ev (.responseRemoveAlias r.vf r.page)]

noncomputable def mayPaging (s : State) : List Action :=
  evs (s.walks.map Walk.id) (pageWalkDue s) .pageWalkComplete ++
  evIf (responseReadDue s) .responseRingRead ++ nextResponse s ++ evs (s.shoots.map Shoot.id) (fun _ => true) .shootDownComplete ++
  evIf (serviceCallDue s) .serviceEntryCall

noncomputable def mayQueues (s : State) : List Action :=
  ((List.range 97).flatMap fun v => evs (List.range 16) (admitDue s v) (.queueRecordAdmit v)) ++
  evs (s.launches.map Launch.lid) (groupPlaceDue s) .groupPlace ++ evIf (deficitVisitDue s) .deficitVisit ++
  evs (s.deficits.map Deficit.vf) (deficitStarvationDue s) .deficitStarvation ++
  evs (s.blocks.map Block.bid) (blockPreemptDue s) .blockPreempt ++ evs (s.blocks.map Block.bid) (preemptSaveDue s) .preemptSave ++
  evs (s.blocks.map Block.bid) (blockResumeDue s) .blockResume ++
  evs (s.suspending.map Prod.fst) (transitionDue s) .suspendTransitionComplete ++
  (s.resetting.filter (resetDue s)).map .resetDone ++
  evs (s.changes.map Change.island) (changeDue s) .islandStateChangeDone

noncomputable def mayUnits (s : State) : List Action :=
  evs s.replays (passStartDue s) (fun r => .replayPassStart r.rid) ++ evs s.replays (passEndDue s) (fun r => .replayPassEnd r.rid) ++
  evs s.scopes (roundEndDue s) (fun x => .roundEnd x.sid) ++ evs s.scopes (handoverDue s) (fun x => .tournamentHandover x.sid)

/-- A cache may replace any line, a kept one when no other is left (11 R260, log 8). -/
def mayLeave (hints : Sparse 2) (m : Sparse 64) (k : Nat) : Bool :=
  hints.get (k / 128) != 2 || (heldLines m (keyUnit k)).all fun x => hints.get x == 2
noncomputable def mayCaches (s : State) : List Action :=
  (s.l1.filter fun kv => mayLeave s.hint1 s.l1 kv.1).map (fun kv => .evictL1 kv.1) ++
  (s.l2.filter fun kv => mayLeave s.hint2 s.l2 kv.1).map fun kv => .evictL2 kv.1

/-- What may come about at any clock, or later (log 4). -/
noncomputable def mayDo (s : State) : List Action :=
  mayThreads s ++ mayEngines s ++ mayStreams s ++ mayPaging s ++ mayQueues s ++ mayUnits s ++ mayCaches s

/-- The outcome of a start is the hardware's. -/
noncomputable def mayStart : List Action :=
  .ev (.deviceStart none) ::
    ((List.range 7).flatMap fun k => [.ev (.deviceStart (some (k + 1))), .ev (.startStageTimeout (k + 1))])

noncomputable def mayInput (s : State) : List Action := if s.inputs.isEmpty then [] else [.input]

/-- The choices of a step with no word in progress; never none. -/
noncomputable def choices (s : State) : List Action :=
  match s.boot with
  | .up =>
    if s.ending then mustEnd s
    else
      match mustDo s with
      | [] => .last :: (mayDo s ++ mayInput s)
      | as => as ++ mayDo s ++ mayInput s
  | .off => .tick :: (mayStart ++ mayInput s)
  | _ => .tick :: mayInput s

/-- What the device still offers in minimal mode (21 R379): function 0 with its boot status, MCTP, PLDM and SPDM. What the
host does to its own memory, and what the links and the peers come to, goes on. -/
def offeredMinimal : Input → Bool
  | .ev i =>
    match i with
    | .registerWrite _ _ _ | .bootRestart | .firmwareUpdate _ | .spdmRequest _ | .pldmMctpRequest _ | .pcieLinkUp _ | .pcieLinkDown _ => true
    | .functionLevelReset vf | .msixVectorUnmask vf _ => vf == 0
    | _ => false
  | .mask vf _ => vf == 0
  | .svcStore _ _ | .svcReturn => false
  | _ => true

/-- The next thing from outside reaches the device. -/
noncomputable def takeInput (s : State) : Host.Outcome State Fault Refusal :=
  match s.inputs with
  | [] => .next s
  | x :: rest =>
    let s := { s with inputs := rest }
    if s.boot == .minimal && !offeredMinimal x then .next s else
    match x with
    | .ev i => exec i s
    | .store key bytes => if installed key && installed (key + bytes.length - 1) then done (memWrite s key bytes) else .next s
    | .svcStore addr bytes => done (serviceStore s addr bytes)
    | .svcReturn => done (serviceReturn s)
    | .request link r => done (hostRequest s link r)
    | .mask vf vec => .next { s with msixMask := s.msixMask.filter (· != (vf, vec)) }
    | .hostAtomics page on => .next { s with noAtomics := if on then s.noAtomics.filter (· != page) else page :: s.noAtomics }
    | .peerWindow peer page r w =>
      let others := s.peerClosed.filter fun x => x.1 != peer || x.2.1 != page
      .next { s with peerClosed := others ++ (if r then [] else [(peer, page, false)]) ++ if w then [] else [(peer, page, true)] }
    | .peerBack peer => .next { s with peersDown := s.peersDown.filter (· != peer) }

noncomputable def act (a : Action) (s : State) : Host.Outcome State Fault Refusal :=
  match a with
  | .ev i => exec i (forgetAge s i)
  | .turn bid => done (streamTurn bid s)
  | .leave x => done (leaveBlock x s)
  | .perform id => done (((s.flight.find? fun x => x.id == id).map (performOne s)).getD s)
  | .look op => done (lookNow s op)
  | .lookStream bid => done (lookStream s bid)
  | .drip bid => done (dripWord s bid)
  | .reach => done (releaseReach s)
  | .resetDone vf => done (resetOver s vf)
  | .input => takeInput s
  | .evictL1 k => done (flushL1 s (inLine (k / 128 * 128)))
  | .evictL2 k => done (flushL2 s (inLine (k / 128 * 128)))
  | .last => done { chargeGates s with ending := true }
  | .tick => done (tick s)

/-- The chosen one. -/
noncomputable def chosen (s : State) : Host.Outcome State Fault Refusal :=
  let as := choices s
  let (k, s) := draw s as.length
  act (as.getD k .tick) s

/-! ### The word in progress -/

/-- A course's word: its instruction, or an encoding trap (02 R61). A fetch that met no memory stops the machine. -/
noncomputable def runCourse (us : List Nat) (s : State) : Host.Outcome State Fault Refusal :=
  match courseFetch s us with
  | (none, s) => done s
  | (some w, s) =>
    if s.hole.isSome then done s
    else
      match decodeThread w with
      | .ok i => exec i s
      | .error _ => trapCourse 0x01 s

noncomputable def runStream (bid : Nat) (s : State) : Host.Outcome State Fault Refusal :=
  match streamFetch s bid with
  | (none, s) => done s
  | (some w, s) =>
    if s.hole.isSome then done s
    else
      match decodeStream w with
      | .ok i => exec i s
      | .error _ => streamBadWord bid s

noncomputable def stepOnce (s : State) : Host.Outcome State Fault Refusal :=
  match s.cur with
  | .course us => runCourse us s
  | .stream bid => runStream bid s
  | .none => chosen s

/-! ### A state from which the next step runs a given word (log 5) -/

/-- The word as the table numbers its bits: dword0 in [63:0], dword1 in [127:64]. -/
def tableWord (nbits w : Nat) : Nat := w % 2 ^ nbits % 2 ^ 128
def tableOp (nbits w : Nat) : Nat := bitsN (tableWord nbits w) 55 9
def isStreamOp (op : Nat) : Bool := decide (0x180 ≤ op) && decide (op ≤ 0x19F)

/-- The header of a block of one word. -/
def benchHeader (stream : Bool) : Nat := 0xB * 2 ^ 60 + 1 * 2 ^ 52 + if stream then 0 else 16 * 2 ^ 44 + 2 ^ 7

/-- Function 0's space with its lowest 1 GiB mapped one to one, readable, writable and executable: the level-0 table at
0x200000, the level-1 table at 0x210000. -/
def benchMap (s : State) : State :=
  let s := memWrite (memWrite s 0x200000 (bytesOf 8 0x210001)) 0x210000 (bytesOf 8 0x1F)
  setFn (setFn s 0 0 1 1) 0 64 64 0x200000

/-- The code at 0x100000: a header, the word, and the header of an empty region block. -/
def benchCode (s : State) (nbits w : Nat) : State :=
  memWrite s 0x100000 (bytesOf 8 (benchHeader (isStreamOp (tableOp nbits w))) ++ bytesOf 16 (tableWord nbits w) ++ bytesOf 8 (benchHeader false))

def benchRecord : LaunchRec := { entry := 0x100000, budget := 224, ntid := 1, nblk := 1, group := 1 }
def benchLaunch : Launch := { lid := 1, vf := 0, queue := none, parent := .queue, rcd := benchRecord, nextTid := 1, placed := 1 }
def benchBlock (stream : Bool) : Block :=
  { bid := 2, lid := 1, idx := 0, core := 0, vpage := 0, vpages := 1, vspan := 1, ppage := 1, ppages := 1,
    stream := if stream then some { newStream 0x100000 with started := true, fetched := true, hword := BitVec.ofNat 64 (benchHeader true) }
              else none }
def benchThread : Thread :=
  { newThread 3 1 2 0 0 0 benchRecord 0x100000 [] 0 (some (vaultSpace + 65536)) with
    life := .inSlot, entering := false, hword := BitVec.ofNat 64 (benchHeader false) }
def benchSlot : Slot := { id := 4, core := 0, uids := [3], active := true, stamp := 0 }

/-- One thread of one block of one launch of function 0 about to issue the word; for a stream's word its block's sequencer. -/
def benchPlace (s : State) (nbits w : Nat) : State :=
  let stream := isStreamOp (tableOp nbits w)
  { benchCode (benchMap s) nbits w with
    nextId := 5, boot := .up, launches := [benchLaunch], blocks := [benchBlock stream], threads := [benchThread],
    slots := [benchSlot], cur := if stream then .stream 2 else .course [3] }

end Sys2Proof.Machine
end

