-- ==== Sys2Proof/Machine/Step.lean ====
section
/-! DEFINITION. One step of the machine, and the state from which the next step runs a given word. -/

namespace Sys2Proof.Machine

/-- One step (log 6). -/
noncomputable def step (s : State) : Host.Outcome State Fault Refusal := stepOnce s

/-- The state from which the next step fetches and runs the word of `nbits` bits (log 5). -/
def State.withFetchWord (s : State) (nbits w : Nat) : State := benchPlace s nbits w

end Sys2Proof.Machine
end

