-- ==== Sys2Proof/Safety.lean ====
section
/-! DEFINITION. The words that claims are made of: what a safe run is, when a course or a sequencer is about to run a word
with nothing in its way, and what a word leaves as it was. -/

namespace Sys2Proof.Safety

open Sys2Proof.Machine

/-- The canonical form of the tables: equal contents are equal data. -/
def tablesCanonical (s : State) : Prop :=
  Memory.wf s.mem = true ∧ s.bar.wf = true ∧ s.l1.wf = true ∧ s.l2.wf = true ∧ s.icache.wf = true ∧ s.tlb.wf = true ∧
  s.hint1.wf = true ∧ s.hint2.wf = true ∧ s.carried.wf = true ∧ s.hostReqs.wf = true

/-- One step gave a next state. -/
def StepsTo (s t : State) : Prop := step s = .next t

/-- States that steps reach. -/
inductive Reaches : State → State → Prop where
  | refl (s : State) : Reaches s s
  | more {s t u : State} (h : Reaches s t) (k : StepsTo t u) : Reaches s u

/-- A run that a step from any state of it never stops. -/
def NeverStops (s : State) : Prop := ∀ t, Reaches s t → ∃ u, StepsTo t u

/-! ### A course about to run a word -/

/-- The fixed-latency writes whose clock has come are written first (R63). -/
def landAll (s : State) (us : List Nat) : State := us.foldl (fun s u => updThread s u fun t => landDue t s.clock) s

/-- The threads of the course as the word finds them, in gang-lane order. -/
def course (s : State) (us : List Nat) : List Thread := byLane (us.filterMap (landAll s us).thread?)

/-- The lanes in which the word has an effect (R25). -/
def active (s : State) (us : List Nat) (p : Pre) : List Thread := (course s us).filter (guardHolds p.g)

/-- The course `us` is in progress at a word with fields `f`; its operands are legal (R21) and, where the launch checks
stall counts, none of them awaits a fixed-latency write (R65). `t0` is its first thread, of block `b` of launch `l`. -/
structure Ready (f : Fields) (p : Pre) (s : State) (us : List Nat) (t0 : Thread) (b : Block) (l : Launch) : Prop where
  cur : s.cur = .course us
  noHole : s.hole = none
  nodup : us.Nodup
  first : (course s us).head? = some t0
  block : s.block? t0.bid = some b
  launch : s.launch? t0.lid = some l
  running : ∀ t ∈ course s us, t.life = .inSlot ∧ t.wait = .none
  together : ∀ t ∈ course s us, t.bid = t0.bid ∧ t.lid = t0.lid ∧ t.hdr = t0.hdr ∧ t.hword = t0.hword ∧ t.idx = t0.idx
  operands : f.operandsOk l.rcd.budget = true
  landed : l.rcd.chk = true → ∀ t ∈ course s us, touchesUnlanded f p.g t = false

/-- Does the word end its block? -/
def endsBlock (t0 : Thread) : Prop := t0.idx + 1 = (Header.of t0.hword).length
/-- The header that follows the block (R53). -/
def following (t0 : Thread) : DWord := t0.hdr + 8 + BitVec.ofNat 64 (16 * (Header.of t0.hword).length)

/-- The dword of code at `a` is `w`, in a line that stands in the core's instruction cache as L2 has it (R262). -/
structure Held (s : State) (core vf : Nat) (a w : DWord) : Prop where
  canonical : canonicalVa a = true
  outside : inVaultRange a = false
  inCache : cached s.icache (lineBase core vf (remap s vf a)) 128 = true
  inL2 : lineFull s.l2 (lineBase (coreRow core) vf (remap s vf a)) = true
  same : cacheBytes s.l2 (lineBase (coreRow core) vf (remap s vf a)) 128 = cacheBytes s.icache (lineBase core vf (remap s vf a)) 128
  word : codeWord (cacheBytes s.icache (lineBase core vf (remap s vf a)) 128) a = w

/-- The header `w` at `H` may be entered at once: it passes the checks of R53, is no merge header, and the launch runs in
no tournament, whose allowance could stop it (R350). -/
structure Enterable (s : State) (b : Block) (l : Launch) (H w : DWord) : Prop where
  held : Held s b.core l.vf H w
  sound : (Header.of w).check l.rcd.budget = none
  plain : (Header.of w).merge = false
  free : entrantOf s l.lid = none

/-- The course goes on after the word: within its block, or by entering the header `w` that follows it; a word of R36
or R125 stands last in its block, before a region header. -/
def GoesOn (f : Fields) (s : State) (t0 : Thread) (b : Block) (l : Launch) (w : DWord) : Prop :=
  (endsBlock t0 ∧ Enterable s b l (following t0) w ∧ (f.placedLast = true → (Header.of w).region = true)) ∨
  (¬ endsBlock t0 ∧ f.isBranch = false ∧ f.placedLast = false)

/-- Header address, header and word index after the word. -/
def spotAfter (t0 : Thread) (w : DWord) : DWord × DWord × Nat :=
  if t0.idx + 1 = (Header.of t0.hword).length then (following t0, w, 0) else (t0.hdr, t0.hword, t0.idx + 1)

/-- What lies outside threads, slots and performance counters (with splits' marks apart): memory, caches, tables, blocks,
launches, engines, registers, everything. -/
def rest (s : State) : State :=
  { s with threads := [], slots := [], pmcs := [], nextId := 0, cur := .none,
           blocks := s.blocks.map fun b => { b with splits := [] } }

/-- What a word that writes only results and flags leaves of a thread: its registers and predicates as they stand, stack,
link, generator counter, sr.partial, trap registers, engine counters, waits and everything else. -/
def laneRest (t : Thread) : Thread :=
  { t with pend := [], fflags := 0, readyAt := 0, lastIssue := 0, raised := false, idx := 0, hdr := 0, hword := 0, hash := 0,
           entering := false, pallet := {}, image := [], seen := 0, gate := none }
/-- Results in flight, with the marks of those that a save awaits (R121) apart. -/
def bare (ps : List Pend) : List Pend := ps.map fun q => { q with ckpt := false }

/-- `y` is thread `t` after a word with stall count `p.stall`, at the place where it goes on; one that waits at the last
word of its block stays there (R125). -/
structure Passed (s : State) (p : Pre) (t0 : Thread) (w : DWord) (y : Thread) : Prop where
  ready : y.readyAt = s.clock + max p.stall.toNat 1
  issued : y.lastIssue = s.clock
  lowered : y.raised = false
  spot : (y.hdr, y.hword, y.idx) = if y.wait = .none then spotAfter t0 w else (t0.hdr, t0.hword, t0.idx + 1)

/-- The course has run its word and nothing outside its threads has changed. -/
structure Ran (s z : State) (us : List Nat) : Prop where
  rest : rest z = rest s
  idle : z.cur = .none
  others : ∀ v, v ∉ us → z.thread? v = s.thread? v

/-- The results in flight that an instruction's writes become: at a clock of their own, after earlier writes of the same
register or predicate, or with variable latency (R63, R64). A write to p7 is discarded (R24). -/
def inFlight (id clk : Nat) (lat : Option Nat) (pend : List Pend) (regs : List (Nat × Word)) (preds : List (Nat × Bool)) : List Pend :=
  match lat with
  | some n => fixedPends id (clk + n) pend regs (keptPreds preds)
  | none =>
    if regs.isEmpty && (keptPreds preds).isEmpty then [] else [{ id := id, due := .any, regs := regs, preds := keptPreds preds }]

/-- `y` is thread `t` with these writes in flight and these flags raised, and nothing else of it changed. -/
def Wrote (clk : Nat) (lat : Option Nat) (regs : List (Nat × Word)) (preds : List (Nat × Bool)) (flags : BitVec 6)
    (t y : Thread) : Prop :=
  laneRest y = laneRest t ∧ (∃ id, bare y.pend = bare (t.pend ++ inFlight id clk lat t.pend regs preds)) ∧ y.fflags = t.fflags ||| flags

/-- The word completes in every lane: an active lane gets the results `res` gives it, the others none. -/
def Completes (i : Instr) (f : Fields) (p : Pre) (res : Launch → Thread → LaneFx) : Prop :=
  ∀ (s : State) (us : List Nat) (t0 : Thread) (b : Block) (l : Launch) (w : DWord),
    Ready f p s us t0 b l → GoesOn f s t0 b l w →
    ∃ z, exec i s = .next z ∧ Ran s z us ∧
      ∀ t ∈ course s us, ∃ y, z.thread? t.uid = some y ∧ Passed s p t0 w y ∧
        (if guardHolds p.g t then Wrote s.clock f.latency (res l t).regs (res l t).preds (res l t).flags t y
         else Wrote s.clock f.latency [] [] 0 t y)

/-- The word `i` with prefix `p` completes wherever its course is ready, with these results in each active lane. -/
def Gives (i : Instr) (p : Pre) (res : Launch → Thread → LaneFx) : Prop := Completes i (encode i) p res

/-- One register; the two registers of a pair, the lower one holding bits [31:0]; one predicate. -/
def oneReg (d : Reg) (v : Word) : LaneFx := { regs := [(d.toNat, v)] }
def onePair (d : Reg) (v : DWord) : LaneFx := { regs := [(d.toNat, v.setWidth 32), (d.toNat + 1, (v >>> 32).setWidth 32)] }
def onePred (pd : BitVec 3) (v : Bool) : LaneFx := { preds := [(pd.toNat, v)] }

/-! ### Results of floating instructions: a value of the element's bits and the flags raised -/

def regResult (d : Reg) (r : Nat × Flags) : LaneFx := { oneReg d (BitVec.ofNat 32 r.1) with flags := r.2 }
def pairResult (d : Reg) (r : Nat × Flags) : LaneFx := { onePair d (BitVec.ofNat 64 r.1) with flags := r.2 }
/-- Two elements in one register, element 0 in bits [15:0]; the flags are the OR of both (R87). -/
def halvesResult (d : Reg) (r0 r1 : Nat × Flags) : LaneFx :=
  { oneReg d (BitVec.ofNat 16 r1.1 ++ BitVec.ofNat 16 r0.1) with flags := r0.2 ||| r1.2 }
/-- Element j of a packed register. -/
def half (x : Word) (j : Nat) : Nat := (x.extractLsb' (16 * j) 16).toNat

def regs2 (d a b : Reg) (fn : Fn2) (l : Launch) (t : Thread) : LaneFx :=
  regResult d (fn (readReg l t a).toNat (readReg l t b).toNat)
def pairs2 (d a b : Reg) (fn : Fn2) (l : Launch) (t : Thread) : LaneFx :=
  pairResult d (fn (readPair l t a).toNat (readPair l t b).toNat)
def halves2 (d a b : Reg) (fn : Fn2) (l : Launch) (t : Thread) : LaneFx :=
  halvesResult d (fn (half (readReg l t a) 0) (half (readReg l t b) 0)) (fn (half (readReg l t a) 1) (half (readReg l t b) 1))
def regs3 (d a b c : Reg) (fn : Fn3) (l : Launch) (t : Thread) : LaneFx :=
  regResult d (fn (readReg l t a).toNat (readReg l t b).toNat (readReg l t c).toNat)
def pairs3 (d a b c : Reg) (fn : Fn3) (l : Launch) (t : Thread) : LaneFx :=
  pairResult d (fn (readPair l t a).toNat (readPair l t b).toNat (readPair l t c).toNat)
def halves3 (d a b c : Reg) (fn : Fn3) (l : Launch) (t : Thread) : LaneFx :=
  halvesResult d (fn (half (readReg l t a) 0) (half (readReg l t b) 0) (half (readReg l t c) 0))
    (fn (half (readReg l t a) 1) (half (readReg l t b) 1) (half (readReg l t c) 1))
def reg1 (d a : Reg) (fn : Fn1) (l : Launch) (t : Thread) : LaneFx := regResult d (fn (readReg l t a).toNat)
def pair1 (d a : Reg) (fn : Fn1) (l : Launch) (t : Thread) : LaneFx := pairResult d (fn (readPair l t a).toNat)
/-- A pair in, one register out; and the reverse. -/
def narrow1 (d a : Reg) (fn : Fn1) (l : Launch) (t : Thread) : LaneFx := regResult d (fn (readPair l t a).toNat)
def widen1 (d a : Reg) (fn : Fn1) (l : Launch) (t : Thread) : LaneFx := pairResult d (fn (readReg l t a).toNat)
/-- Two registers into two elements; and two elements into the two registers of a pair. -/
def pack2 (d a b : Reg) (fn : Fn1) (l : Launch) (t : Thread) : LaneFx :=
  halvesResult d (fn (readReg l t a).toNat) (fn (readReg l t b).toNat)
def bothResult (d : Reg) (r0 r1 : Nat × Flags) : LaneFx :=
  { regs := [(d.toNat, BitVec.ofNat 32 r0.1), (d.toNat + 1, BitVec.ofNat 32 r1.1)], flags := r0.2 ||| r1.2 }
def unpack1 (d a : Reg) (fn : Fn1) (l : Launch) (t : Thread) : LaneFx :=
  bothResult d (fn (half (readReg l t a) 0)) (fn (half (readReg l t a) 1))
def compare2 (pd : BitVec 3) (a b : Reg) (fn : Nat → Nat → Bool × Flags) (l : Launch) (t : Thread) : LaneFx :=
  let r := fn (readReg l t a).toNat (readReg l t b).toNat
  { onePred pd r.1 with flags := r.2 }
def comparePairs (pd : BitVec 3) (a b : Reg) (fn : Nat → Nat → Bool × Flags) (l : Launch) (t : Thread) : LaneFx :=
  let r := fn (readPair l t a).toNat (readPair l t b).toNat
  { onePred pd r.1 with flags := r.2 }
/-- Element j writes p(pd + j); p7 discards (R150). -/
def compareHalves (pd : BitVec 3) (a b : Reg) (fn : Nat → Nat → Bool × Flags) (l : Launch) (t : Thread) : LaneFx :=
  let r (j : Nat) := fn (half (readReg l t a) j) (half (readReg l t b) j)
  { preds := [(pd.toNat, (r 0).1), (pd.toNat + 1, (r 1).1)], flags := (r 0).2 ||| (r 1).2 }
/-- Elements 2j and 2j + 1 of the block packed from register A on, scaled by byte s of register B (R101, R156). -/
def dequantised (m : MxFmt) (d a b : Reg) (j : BitVec 4) (s : BitVec 2) (rm : Rm) (ftz : Bool) (l : Launch) (t : Thread) : LaneFx :=
  let w := mxWidth m
  let scale := bitsN (readReg l t b).toNat (8 * s.toNat) 8
  let one (i : Nat) : Nat × Flags :=
    f32.flushOut ftz (dequantise m f32 rm (bitsN (blockBits l t a w) (w * (2 * j.toNat + i)) w) scale)
  bothResult d (one 0) (one 1)

/-! ### Words that act outside their lanes -/

/-- The course has run its word, and what lies outside its threads is as in `a`. -/
structure Left (s a z : State) (us : List Nat) : Prop where
  rest : rest z = rest a
  idle : z.cur = .none
  others : ∀ v, v ∉ us → z.thread? v = s.thread? v

/-- The word leaves the thread as it was. -/
def Idle (t y : Thread) : Prop := laneRest y = laneRest t ∧ bare y.pend = bare t.pend ∧ y.fflags = t.fflags

/-- `y` is thread `t` with one more result in flight, of variable latency, and nothing else of it changed. -/
def Receives (regs : List (Nat × Word)) (preds : List (Nat × Bool)) (t y : Thread) : Prop :=
  laneRest y = laneRest t ∧ y.fflags = t.fflags ∧
  ∃ q : Pend, bare y.pend = bare (t.pend ++ [q]) ∧ q.due = .any ∧ q.regs = regs ∧ q.preds = keptPreds preds ∧ q.op = none
/-- `y` is thread `t` with registers and predicates marked for a result that `k` accesses will give under the name `id`
(R64, R173), and nothing else of it changed. -/
def Loading (id k : Nat) (regs : List Nat) (preds : List (Nat × Bool)) (t y : Thread) : Prop :=
  laneRest y = laneRest t ∧ y.fflags = t.fflags ∧
  ∃ q : Pend, bare y.pend = bare (t.pend ++ [q]) ∧ q.id = id ∧ q.due = .loading k ∧ q.regs = regs.map (fun r => (r, 0)) ∧
    q.preds = keptPreds preds ∧ q.op = none

/-- `y` is thread `t` with a result that has come at once: it has landed, or it stands behind a write of fixed latency to one of
its registers that has still to land (R63); `op` is the operation that completes with it. -/
def Told (op : Option Nat) (regs : List (Nat × Word)) (preds : List (Nat × Bool)) (t y : Thread) : Prop :=
  let q : Pend := { id := 0, due := .any, regs := regs, preds := keptPreds preds }
  if t.pend.any (fun p => p.isFixed && sameTarget q p) = true then
    laneRest y = laneRest t ∧ y.fflags = t.fflags ∧
    ∃ p : Pend, bare y.pend = bare (t.pend ++ [p]) ∧ p.due = .any ∧ p.regs = regs ∧ p.preds = keptPreds preds ∧ p.op = op
  else Idle (landOne t q) y

/-- The word completes wherever its course is ready and `pre` holds of its active lanes: what lies outside its threads
becomes `after`, an active lane `t` becomes a `y` with `got`, the others are left as they were. -/
def Performs (i : Instr) (p : Pre) (pre : State → Block → Launch → List Thread → Prop)
    (after : State → Block → Launch → List Thread → State) (got : State → Block → Launch → Thread → Thread → Prop) : Prop :=
  ∀ (s : State) (us : List Nat) (t0 : Thread) (b : Block) (l : Launch) (w : DWord),
    Ready (encode i) p s us t0 b l → GoesOn (encode i) s t0 b l w → pre s b l (active s us p) →
    (after s b l (active s us p)).hole = none →
    (endsBlock t0 → entrantOf (after s b l (active s us p)) l.lid = none) →
    ∃ z, exec i s = .next z ∧ Left s (after s b l (active s us p)) z us ∧
      ∀ t ∈ course s us, ∃ y, z.thread? t.uid = some y ∧ Passed s p t0 w y ∧
        (if guardHolds p.g t then got s b l t y else Idle t y)

/-- The same for a word with one active lane. -/
def Performs1 (i : Instr) (p : Pre) (pre : State → Block → Launch → Thread → Prop)
    (after : State → Block → Launch → Thread → State) (got : State → Block → Launch → Thread → Thread → Prop) : Prop :=
  Performs i p (fun s b l ts => ∃ t, ts = [t] ∧ pre s b l t)
    (fun s b l ts => match ts with | [t] => after s b l t | _ => s) got

/-- The access of a lane resolves at once, to place `pl`. -/
def LandsAt (acc : Acc) (addr : Launch → Thread → DWord) (n align : Nat) (h : Hint) (pl : Place)
    (s : State) (b : Block) (l : Launch) (t : Thread) : Prop :=
  resolve s b l.vf (addr l t) n align acc h = (.ok pl, s)

/-- Every access of the thread has been performed. -/
def Performed (s : State) (t : Thread) : Prop := ∀ x ∈ s.flight, x.uid ≠ t.uid
/-- The names that the next objects get are new to the accesses in flight and to the thread's results in flight. -/
def NamesNew (s : State) (t : Thread) : Prop := (∀ x ∈ s.flight, x.id < s.nextId) ∧ ∀ u, s.thread? t.uid = some u → ∀ q ∈ u.pend, q.id < s.nextId

/-- The access of a lane, under the name `id`. -/
def accessOf (b : Block) (l : Launch) (t : Thread) (pl : Place) (h : Hint) (first : Bool) (id : Nat) (act : AccessAct) : Access :=
  { id := id, uid := t.uid, bid := b.bid, core := b.core, lid := l.lid, vf := l.vf, place := pl, hint := h, first := first,
    tail := !first, act := act }
/-- The pieces of an access of `n` bytes, each with its offset, its length (at most 8 bytes, R173) and its name, from `id` on. -/
def piecesFrom (id n : Nat) : List (Nat × Nat × Nat) := (pieces n).zipIdx.map fun x => (x.1.1, x.1.2, id + x.2)
/-- The accesses of a load of `n` bytes, for the result in flight of name `s.nextId`. -/
def loadAccesses (pl : Place) (n : Nat) (h : Hint) (form : LoadForm) (d : Reg) (s : State) (b : Block) (l : Launch) (t : Thread) : List Access :=
  (piecesFrom (s.nextId + 1) n).map fun x =>
    accessOf b l t (pl.plus x.1) h (x.1 == 0) x.2.2 (.load x.2.1 form (d.toNat + x.1 / 4) s.nextId)
/-- The accesses of a store; `rel` when it is a release. -/
def storeAccesses (pl : Place) (h : Hint) (rel : Option Scope) (bs : List Byte) (s : State) (b : Block) (l : Launch) (t : Thread) : List Access :=
  (piecesFrom s.nextId bs.length).map fun x =>
    accessOf b l t (pl.plus x.1) h (x.1 == 0) x.2.2 (.store ((bs.drop x.1).take x.2.1) rel)
/-- Accesses join those in flight; nothing else changes. -/
def sent (s : State) (xs : List Access) : State := { s with flight := s.flight ++ xs }
/-- Nothing in flight must be performed before any of these accesses. -/
def NoneBefore (s : State) (xs : List Access) : Prop := ∀ x ∈ s.flight, ∀ y ∈ xs, mustPrecede x y = false

def isCached : Place → Bool
  | .cachedAt _ => true
  | _ => false

/-- The bytes that a load's pieces find at a place, one piece after the other, and the machine after it. -/
def loadPieces (pl : Place) (n : Nat) (h : Hint) (s : State) (b : Block) (l : Launch) : List Byte × State :=
  (pieces n).foldl (fun x q => let r := loadAt x.2 b.core l.lid l.vf (pl.plus q.1) q.2 h (q.1 == 0); (x.1 ++ r.1, r.2)) ([], s)

/-- An access to the vault acts at quad scope at least (R175). -/
def actsAt (pl : Place) (sc : Scope) : Scope :=
  match pl, sc with
  | .vault _, .th => .qd
  | .vault _, .cr => .qd
  | _, sc => sc
def isAcquire (sem : Sem) : Bool := sem == .acq || sem == .ar
def releaseScope (sem : Sem) (pl : Place) (sc : Scope) : Option Scope := if sem = .rel ∨ sem = .ar then some (actsAt pl sc) else none
/-- The acquire that an access carries (Table 12-1). -/
def acquired (sem : Sem) (pl : Place) (sc : Scope) (s : State) (b : Block) (l : Launch) : State :=
  if isAcquire sem = true then acquire s b.core l.vf (actsAt pl sc) else s
/-- A store or atomic after a FENCE.rel is performed at the fence's point at least (R288); under .sy to host memory the
links are flushed before it (R363). -/
def unfenced (pl : Place) (s : State) (l : Launch) (t : Thread) : State :=
  if t.relScope = some .sy ∧ placeHost pl = true then flushLinks s l.vf else s

/-- Base pair plus signed offset; the stack form adds sr.stack and an index. -/
def at_ (a : Reg) (off : BitVec 24) (l : Launch) (t : Thread) : DWord := readPair l t a + off.signExtend 64
def atStack (idx : Bool) (a : Reg) (off : BitVec 24) (l : Launch) (t : Thread) : DWord :=
  t.stack + (if idx then (readReg l t a).setWidth 64 else 0) + off.signExtend 64

/-- The registers that hold `k` words of memory, the lowest register from the lowest address. -/
def wordsAt (d : Reg) (k : Nat) (bs : List Byte) : List (Nat × Word) :=
  (List.range k).map fun i => (d.toNat + i, BitVec.ofNat 32 (ofBytes ((bs.drop (4 * i)).take 4)))
/-- The bytes of `k` registers, the lowest register at the lowest address. -/
def bytesFrom (b : Reg) (k : Nat) (l : Launch) (t : Thread) : List Byte :=
  (List.range k).flatMap fun i => bytesOf 4 (readReg l t (b + BitVec.ofNat 8 i)).toNat

/-- One lane's load. One that the caches do not serve is issued in its pieces and its registers are marked; one that they
serve delivers at once what `conv` makes of the bytes. `preds` are written besides. -/
def LoadsAs (i : Instr) (p : Pre) (addr : Launch → Thread → DWord) (n : Nat) (h : Hint) (form : LoadForm) (d : Reg)
    (preds : List (Nat × Bool)) (conv : List Byte → List (Nat × Word)) : Prop :=
  ∀ pl,
    (isCached pl = false → Performs1 i p (LandsAt .load addr n n h pl)
      (fun s b l t => sent s (loadAccesses pl n h form d s b l t))
      (fun s _ _ t y => Loading s.nextId (pieces n).length ((conv []).map Prod.fst) preds t y)) ∧
    (isCached pl = true → Performs1 i p
      (fun s b l t => LandsAt .load addr n n h pl s b l t ∧ NamesNew s t ∧ NoneBefore s (loadAccesses pl n h form d s b l t))
      (fun s b l _ => (loadPieces pl n h s b l).2)
      (fun s b l t y => Receives (conv (loadPieces pl n h s b l).1) preds t y))

/-- One lane's store: its pieces join the accesses in flight, for the place, and nothing else changes. -/
def StoresAs (i : Instr) (p : Pre) (addr : Launch → Thread → DWord) (n : Nat) (h : Hint) (dat : Launch → Thread → List Byte) : Prop :=
  ∀ pl, Performs1 i p (LandsAt .store addr n n h pl)
    (fun s b l t => sent (unfenced pl s l t) (storeAccesses pl (fencedHint t h) none (dat l t) s b l t))
    (fun _ _ _ t y => Idle t y)

/-- The access of an atomic, of which `ret` is the first register of the old value; none for a reduction. -/
def atomAccess (ret : Option Reg) (n : Nat) (op : AtomOp) (x y : Launch → Thread → BitVec 128) (sem : Sem) (sc : Scope) (pl : Place)
    (s : State) (b : Block) (l : Launch) (t : Thread) : Access :=
  accessOf b l t pl (if placeHost pl = true then .byl2 else fencedHint t (pointHint sc)) true
    (if ret.isSome then s.nextId + 1 else s.nextId)
    (.rmw op n (x l t) (y l t) (releaseScope sem pl sc) (ret.map BitVec.toNat) (if ret.isSome then s.nextId else 0))

/-- One lane's atomic on `n` bytes, which writes `new` of the old value (R176, R177). It traps in a deterministic launch
where it is `marked`; to host memory it is an AtomicOp, which `pcie` tells possible (R179). An acquire, and an AtomicOp, is
performed at once; another joins the accesses in flight. -/
def ActsAtomically (i : Instr) (p : Pre) (ret : Option Reg) (a : Reg) (off : BitVec 24) (n : Nat) (sem : Sem) (sc : Scope)
    (marked pcie : Bool) (op : AtomOp) (x y : Launch → Thread → BitVec 128) (new : Launch → Thread → Nat → Nat) : Prop :=
  (∀ l t old, old < 2 ^ (8 * n) → atomNew op n (x l t) (y l t) old % 2 ^ (8 * n) = new l t old) ∧
  ∀ pl,
    let may (s : State) (b : Block) (l : Launch) (t : Thread) : Prop :=
      LandsAt .atomic (at_ a off) n n (pointHint sc) pl s b l t ∧ hostBars pcie s pl = false ∧ (marked = true → l.rcd.det = false)
    let mark (id : Nat) (t y : Thread) : Prop :=
      match ret with
      | some d => Loading id 1 ((wordsAt d (n / 4) []).map Prod.fst) [] t y
      | none => Idle t y
    (isAcquire sem = false → placeHost pl = false → Performs1 i p may
      (fun s b l t => sent s [atomAccess ret n op x y sem sc pl s b l t]) (fun s _ _ t z => mark s.nextId t z)) ∧
    (isAcquire sem = true ∨ placeHost pl = true → Performs1 i p
      (fun s b l t => may s b l t ∧ NamesNew s t ∧ NoneBefore s [atomAccess ret n op x y sem sc pl s b l t])
      (fun s b l t =>
        let z := atomAccess ret n op x y sem sc pl s b l t
        let s := unfenced pl s l t
        let s := match releaseScope sem pl sc with | some r => releaseNow s t.uid b.core l.vf r (placeHost pl) | none => s
        let r := loadAt s b.core l.lid l.vf pl n z.hint true true
        acquired sem pl sc (storeAt r.2 b.core l.lid l.vf pl (bytesOf n (new l t (ofBytes r.1))) z.hint false) b l)
      (fun s b l t z =>
        let u := unfenced pl s l t
        let u := match releaseScope sem pl sc with | some r => releaseNow u t.uid b.core l.vf r (placeHost pl) | none => u
        match ret with
        | some d => Receives (wordsAt d (n / 4) (loadAt u b.core l.lid l.vf pl n (atomAccess ret n op x y sem sc pl s b l t).hint true true).1) [] t z
        | none => Idle t z))

/-! ### Transfers of control -/

/-- Every lane of the course leaves the block for header `w` at `T`. -/
structure GoneTo (s : State) (p : Pre) (T w link : DWord) (t y : Thread) : Prop where
  spot : y.hdr = T ∧ y.hword = w ∧ y.idx = 0
  ready : y.readyAt = s.clock + max p.stall.toNat 1
  same : laneRest y = laneRest { t with link := link } ∧ bare y.pend = bare t.pend ∧ y.fflags = t.fflags

/-- A branch that every lane takes to one good target enters its header; CALL and CALLX write the link register. -/
def JumpsTo (i : Instr) (p : Pre) (links zeroBad : Bool) (target : Launch → Thread → DWord) (pre : State → Block → Launch → Thread → Prop) :
    Prop :=
  ∀ (s : State) (us : List Nat) (t0 : Thread) (b : Block) (l : Launch) (T w : DWord),
    Ready (encode i) p s us t0 b l → endsBlock t0 → (∀ t ∈ course s us, guardHolds p.g t = true ∧ target l t = T ∧ pre s b l t) →
    T.toNat % 8 = 0 → canonicalVa T = true → (zeroBad = true → T ≠ 0) → Enterable s b l T w →
    ∃ z, exec i s = .next z ∧ Ran s z us ∧
      ∀ t ∈ course s us, ∃ y, z.thread? t.uid = some y ∧ GoneTo s p T w (if links then following t0 else t.link) t y

/-- A word that no lane takes passes, with no effect. -/
def PassesUntaken (i : Instr) (p : Pre) : Prop :=
  ∀ (s : State) (us : List Nat) (t0 : Thread) (b : Block) (l : Launch) (w : DWord),
    Ready (encode i) p s us t0 b l → GoesOn (encode i) s t0 b l w → active s us p = [] →
    ∃ z, exec i s = .next z ∧ Ran s z us ∧
      ∀ t ∈ course s us, ∃ y, z.thread? t.uid = some y ∧ Passed s p t0 w y ∧ Idle t y

/-! ### Traps -/

/-- The address of the word a thread stands at. -/
def wordAt (t : Thread) : DWord := t.hdr + 8 + BitVec.ofNat 64 (16 * t.idx)

/-- `y` is thread `t` stopped by a trap (R129): its record keeps code, word and address, and its registers are as they were. -/
structure Trapped (code : BitVec 8) (va : DWord) (t y : Thread) : Prop where
  trap : y.trap = code ∧ y.trappc = wordAt t ∧ y.trapva = va
  stopped : y.life = .stopped ∧ y.wait = .none
  kept : y.regs = t.regs ∧ y.preds = t.preds ∧ y.pend = t.pend ∧ y.fflags = t.fflags ∧ y.stack = t.stack ∧ y.link = t.link ∧
    y.rngc = t.rngc ∧ y.pallet = t.pallet ∧ y.tid = t.tid

/-- Every lane of the course has taken the trap, and its launch terminates with the lowest sr.tid's cause. -/
def AllTrapped (s z : State) (us : List Nat) (t0 : Thread) (l : Launch) (code : BitVec 8) (va : Launch → Thread → DWord) : Prop :=
  z.cur = .none ∧ z.mem = s.mem ∧
    (∀ t ∈ course s us, ∃ y, z.thread? t.uid = some y ∧ Trapped code (va l t) t y) ∧
    (∀ v, v ∉ us → z.thread? v = s.thread? v) ∧
    (l.term = none → ∃ k tm, z.launch? t0.lid = some k ∧ k.term = some tm ∧ tm.kind = 1 ∧ tm.code = code ∧
      tm.nthr = (course s us).length ∧ (∃ t ∈ course s us, tm.tid = t.tid) ∧ (∀ t ∈ course s us, tm.tid ≤ t.tid) ∧
      s.clock ≤ tm.stopAt ∧ tm.stopAt ≤ s.clock + 256)

/-- Wherever the course is ready and `pre` holds of its lanes, all of which are active, they take the trap. -/
def TrapsAll (i : Instr) (p : Pre) (code : BitVec 8) (pre : State → Block → Launch → Thread → Prop) (va : Launch → Thread → DWord) : Prop :=
  ∀ (s : State) (us : List Nat) (t0 : Thread) (b : Block) (l : Launch) (w : DWord),
    Ready (encode i) p s us t0 b l → GoesOn (encode i) s t0 b l w → (∀ t ∈ course s us, guardHolds p.g t = true ∧ pre s b l t) →
    ∃ z, exec i s = .next z ∧ AllTrapped s z us t0 l code va

/-! ### A sequencer about to run a word -/

structure Feeding (s : State) (bid : Nat) (b : Block) (x : Stream) : Prop where
  cur : s.cur = .stream bid
  noHole : s.hole = none
  block : s.block? bid = some b
  stream : b.stream = some x

/-- The word is placed in the queue of operations with its loop counters, its permits and its parameter record (R234),
and the front end goes on. A record that it takes completes its MPOST (R231). -/
def Enqueues (i : Instr) (takes : Bool) : Prop :=
  ∀ (s : State) (bid : Nat) (b : Block) (x : Stream) (q : Param), Feeding s bid b x → x.queue.length < 64 →
    (takes = true → b.params.head? = some q) →
    ∃ z, exec i s = .next z ∧ z.cur = .none ∧ z.mem = s.mem ∧ z.launches = s.launches ∧
      (takes = false → z.threads = s.threads ∧ z.ops = s.ops) ∧ (takes = true → z.ops = s.ops.filter fun o => o.id != q.op) ∧
      (∀ c, c ≠ bid → z.block? c = s.block? c) ∧
      z.block? bid = some { b with
        params := if takes then b.params.filter (fun y => y.op != q.op) else b.params,
        stream := some { x.next with lastFetch := some s.clock, queue := x.queue ++
          [{ f := encode i, pc := x.wordPc, lcs := x.loops.map Loop.lc, permits := x.loops.map Loop.permit,
             param := if takes then q.data else [] }] } }

/-! ### Cross-lane words, and commands to engines -/

/-- A gang all of whose members arrive active with the course gets the results of its instance, of kind `k` over the
arrivals `opnd` (R159); sr.partial stays as it was. -/
def Converges (i : Instr) (p : Pre) (k : XKind) (d pd : Nat) (opnd : Launch → Thread → Arrival) : Prop :=
  ∀ (s : State) (us : List Nat) (t0 : Thread) (b : Block) (l : Launch) (w : DWord),
    Ready (encode i) p s us t0 b l → GoesOn (encode i) s t0 b l w → (∀ x ∈ s.blocks, x.bid = b.bid → x.xinsts = []) →
    (∀ t ∈ course s us, guardHolds p.g t = true ∧ t.gang = t0.gang) → (∀ x ∈ gangMembers s b.bid t0.gang, x.uid ∈ us) →
    ∃ z, exec i s = .next z ∧ Ran s z us ∧
      ∀ t ∈ course s us, ∃ y, z.thread? t.uid = some y ∧ Passed s p t0 w y ∧
        (let r := xCompute k ((course s us).map (opnd l)) none (opnd l t)
         Wrote s.clock none (r.reg.map fun v => (d, v)).toList (r.pred.map fun v => (pd, v)).toList r.flags t y)

/-- Node j of level k of the fixed pairwise tree over the leaves `N(0, j)` (R166). -/
def treeNode (op : Node → Node → Node) (leaf : Nat → Node) : Nat → Nat → Node
  | 0, j => leaf j
  | k + 1, j => op (treeNode op leaf k (2 * j)) (treeNode op leaf k (2 * j + 1))
/-- The inclusive prefix of lane `l`: a run for each set bit k of l + 1, from the highest; the lanes before it fill the higher
bits, so that its node is the one after theirs (R167). -/
def prefixNode (op : Node → Node → Node) (leaf : Nat → Node) (l : Nat) : Node :=
  match ([5, 4, 3, 2, 1, 0].filter fun k => (l + 1).testBit k).map fun k => treeNode op leaf k ((l + 1) / 2 ^ (k + 1) * 2) with
  | [] => (0, 0)
  | n :: ns => ns.foldl op n

/-- What a command's reads depend on: the block, the launch, the core and the word's address. -/
def Of (c : Ctx) (b : Block) (l : Launch) (t : Thread) : Prop :=
  c.b = b ∧ c.l = l ∧ c.core = b.core ∧ c.vf = l.vf ∧ c.pc = wordAt t

/-- No thread stands at the highest count of a class, its TOPENs not yet answered included (R30). -/
def RoomFor (c : EngClass) (s : State) : Prop := ∀ x ∈ s.threads, claims s x c < 63

/-- An operation of the thread `t` is with its engine. -/
def withOp (id pend : Nat) (work : Work) (s : State) (b : Block) (l : Launch) (t : Thread) : State :=
  { s with ops := s.ops ++ [{ id := id, vf := l.vf, lid := t.lid, bid := t.bid, uid := some t.uid, core := b.core, pc := wordAt t,
                              pend := pend, work := work }] }
/-- The thread's counter has risen by one. -/
def owing (id : Nat) (c : EngClass) (t : Thread) : Thread := { t with ops := t.ops ++ [{ id := id, cls := c }] }
/-- `y` is thread `t` with registers marked for a result that the engine will give under the name `id` (R64, R121). -/
def Awaits (id : Nat) (regs : List Nat) (t y : Thread) : Prop :=
  laneRest y = laneRest t ∧ y.fflags = t.fflags ∧
  bare y.pend = bare (t.pend ++ [{ id := id, due := .unanswered, regs := regs.map fun r => (r, 0), preds := [] }])

/-- A command with one active lane, for which `ready` holds, which first reads `x` (after which the machine is `r`) and may
raise a counter of class `cls`: it completes wherever its course is ready and `pre` holds, and what lies outside its threads
becomes `after`. -/
def CommandsIf {α : Type} (ready : State → Thread → Prop) (i : Instr) (p : Pre) (cls : Option EngClass)
    (rd : Ctx → Thread → State → Except Trip α × State) (x : α) (pre : Ctx → State → Thread → Prop)
    (after : Ctx → State → Thread → State) (got : Ctx → State → Thread → Thread → Prop) : Prop :=
  ∀ (s : State) (us : List Nat) (t0 t : Thread) (b : Block) (l : Launch) (w : DWord) (c : Ctx) (r : State),
    Ready (encode i) p s us t0 b l → GoesOn (encode i) s t0 b l w → active s us p = [t] → Of c b l t →
    ready s t → (∀ k, cls = some k → RoomFor k s) → rd c t s = (.ok x, r) → pre c r t → (after c r t).hole = none →
    (endsBlock t0 → entrantOf (after c r t) l.lid = none) →
    ∃ z, exec i s = .next z ∧ Left s (after c r t) z us ∧
      ∀ v ∈ course s us, ∃ y, z.thread? v.uid = some y ∧ Passed s p t0 w y ∧ (if guardHolds p.g v then got c r v y else Idle v y)
/-- Its reads follow the thread's accesses to what it reads (R283): here, every access of the thread has been performed. -/
def Commands {α : Type} (i : Instr) (p : Pre) (cls : Option EngClass) (rd : Ctx → Thread → State → Except Trip α × State) (x : α)
    (pre : Ctx → State → Thread → Prop) (after : Ctx → State → Thread → State) (got : Ctx → State → Thread → Thread → Prop) : Prop :=
  CommandsIf Performed i p cls rd x pre after got
/-- A command that reads nothing at issue. -/
def CommandsAtOnce (i : Instr) (p : Pre) (cls : Option EngClass) (pre : Ctx → State → Thread → Prop)
    (after : Ctx → State → Thread → State) (got : Ctx → State → Thread → Thread → Prop) : Prop :=
  CommandsIf (fun _ _ => True) i p cls (fun _ _ s => (.ok (), s)) () pre after got

/-- The names that the next objects get are new to the engines' operations too. -/
def OpsNew (s : State) (t : Thread) : Prop := NamesNew s t ∧ ∀ o ∈ s.ops, o.id < s.nextId
/-- The uncounted operation of a thread that a command starts, and the result that it will answer in (R196). -/
def uncounted (c : Ctx) (r : State) (t : Thread) (work : Work) : EOp :=
  { id := r.nextId + 1, vf := c.vf, lid := t.lid, bid := t.bid, uid := some t.uid, core := c.core, pc := c.pc, pend := r.nextId, work := work }

/-! ### Machine events -/

/-- The event takes the machine to `z`, unless an access of it met no memory. -/
def Occurs (i : Instr) (s z : State) : Prop := z.hole = none → exec i s = .next z

/-- An engine operation at work has its earlier looks at memory at hand, and puts them away when its step is done (R197). -/
def looksOut (s : State) (o : EOp) : State := { s with lens := o.past, lensId := o.id }
def looksBack (o : EOp) (z : State) : State := { updOp z o.id (fun x => { x with past := z.lens }) with lens := [], lensId := 0 }

end Sys2Proof.Safety
end

