-- ==== Sys2Proof/Certificates/Slice0/Obligations.lean ====
section
/-! DEFINITION. The statements for the provers: what the numbered rules of spec/ say that the machine does. -/

open Sys2Proof Sys2Proof.Machine Sys2Proof.Safety

/-! ### Integer instructions (05) -/

/-- R132, Table 5-6: the add and subtract instructions; IADDC's carry is bit 32 of the exact sum. -/
def Obligations.AddSubtract : Prop :=
  ∀ (p : Pre) (d a : Reg) (b : Src) (pd ps : BitVec 3) (nps : Bool),
    Gives (.iadd32 p d a b) p (fun l t => oneReg d (readReg l t a + readSrc l t b)) ∧
    Gives (.iadd64 p d a b) p (fun l t => onePair d (readPair l t a + readSrc64 l t b)) ∧
    Gives (.isub32 p d a b) p (fun l t => oneReg d (readReg l t a - readSrc l t b)) ∧
    Gives (.isub64 p d a b) p (fun l t => onePair d (readPair l t a - readSrc64 l t b)) ∧
    Gives (.iaddc p d a b pd ps nps) p (fun l t =>
      let sum := (readReg l t a).toNat + (readSrc l t b).toNat + if readPred t ps.toNat != nps then 1 else 0
      { regs := [(d.toNat, BitVec.ofNat 32 sum)], preds := [(pd.toNat, decide (2 ^ 32 ≤ sum))] }) ∧
    Gives (.iabs p d a) p (fun l t =>
      oneReg d (BitVec.ofInt 32 (if (readReg l t a).toInt < 0 then 0 - (readReg l t a).toInt else (readReg l t a).toInt))) ∧
    Gives (.ineg p d a) p (fun l t => oneReg d (0 - readReg l t a))

/-- R133, Table 5-7: the multiply instructions, each product formed exactly before it is truncated. -/
def Obligations.Multiply : Prop :=
  ∀ (p : Pre) (d a : Reg) (b : Src) (c : Reg),
    Gives (.imulLo p d a b) p (fun l t => oneReg d (BitVec.ofNat 32 ((readReg l t a).toNat * (readSrc l t b).toNat))) ∧
    Gives (.imulhS p d a b) p (fun l t => oneReg d (BitVec.ofInt 32 ((readReg l t a).toInt * (readSrc l t b).toInt / 2 ^ 32))) ∧
    Gives (.imulhN p d a b) p (fun l t => oneReg d (BitVec.ofNat 32 ((readReg l t a).toNat * (readSrc l t b).toNat / 2 ^ 32))) ∧
    Gives (.imulwS p d a b) p (fun l t => onePair d (BitVec.ofInt 64 ((readReg l t a).toInt * (readSrc l t b).toInt))) ∧
    Gives (.imulwN p d a b) p (fun l t => onePair d (BitVec.ofNat 64 ((readReg l t a).toNat * (readSrc l t b).toNat))) ∧
    Gives (.imadLo p d a b c) p (fun l t =>
      oneReg d (BitVec.ofNat 32 ((readReg l t a).toNat * (readSrc l t b).toNat + (readReg l t c).toNat))) ∧
    Gives (.imadwS p d a b c) p (fun l t =>
      onePair d (BitVec.ofInt 64 ((readReg l t a).toInt * (readSrc l t b).toInt + (readPair l t c).toNat))) ∧
    Gives (.imadwN p d a b c) p (fun l t =>
      onePair d (BitVec.ofNat 64 ((readReg l t a).toNat * (readSrc l t b).toNat + (readPair l t c).toNat))) ∧
    Gives (.imad64 p d a b c) p (fun l t =>
      onePair d (BitVec.ofNat 64 ((readPair l t a).toNat * (readSrc64 l t b).toNat + (readPair l t c).toNat)))

/-- R134: quotient and remainder of signed and of unsigned division, with the flag idz for a divisor of zero. -/
def Obligations.Divide : Prop :=
  ∀ (p : Pre) (d a : Reg) (b : Src),
    let q (x y : Int) : Int := if y = 0 then (if 0 ≤ x then 2 ^ 31 - 1 else -2 ^ 31) else x.tdiv y
    let r (x y : Int) : Int := if y = 0 then x else x - x.tdiv y * y
    let idz (l : Launch) (t : Thread) : BitVec 6 := if readSrc l t b = 0 then 0x20#6 else 0
    Gives (.idivS p d a b) p (fun l t =>
      { oneReg d (BitVec.ofInt 32 (q (readReg l t a).toInt (readSrc l t b).toInt)) with flags := idz l t }) ∧
    Gives (.iremS p d a b) p (fun l t =>
      { oneReg d (BitVec.ofInt 32 (r (readReg l t a).toInt (readSrc l t b).toInt)) with flags := idz l t }) ∧
    Gives (.idivN p d a b) p (fun l t =>
      { oneReg d (if readSrc l t b = 0 then 0xFFFFFFFF#32
                  else BitVec.ofNat 32 ((readReg l t a).toNat / (readSrc l t b).toNat)) with flags := idz l t }) ∧
    Gives (.iremN p d a b) p (fun l t =>
      { oneReg d (if readSrc l t b = 0 then readReg l t a
                  else BitVec.ofNat 32 ((readReg l t a).toNat % (readSrc l t b).toNat)) with flags := idz l t })

/-- R135: the smaller or the larger of A and B, as signed or unsigned values. -/
def Obligations.MinimumMaximum : Prop :=
  ∀ (p : Pre) (d a : Reg) (b : Src),
    Gives (.iminS p d a b) p (fun l t => oneReg d (BitVec.ofInt 32 (min (readReg l t a).toInt (readSrc l t b).toInt))) ∧
    Gives (.iminN p d a b) p (fun l t => oneReg d (BitVec.ofNat 32 (min (readReg l t a).toNat (readSrc l t b).toNat))) ∧
    Gives (.imaxS p d a b) p (fun l t => oneReg d (BitVec.ofInt 32 (max (readReg l t a).toInt (readSrc l t b).toInt))) ∧
    Gives (.imaxN p d a b) p (fun l t => oneReg d (BitVec.ofNat 32 (max (readReg l t a).toNat (readSrc l t b).toNat)))

/-- R136: AND, OR, XOR and NOT bit by bit; LUT3's bit i is the table's bit A_i + 2 B_i + 4 C_i. -/
def Obligations.Logic : Prop :=
  ∀ (p : Pre) (d a b' c : Reg) (b : Src) (tbl : BitVec 8),
    Gives (.andB p d a b) p (fun l t => oneReg d (readReg l t a &&& readSrc l t b)) ∧
    Gives (.orB p d a b) p (fun l t => oneReg d (readReg l t a ||| readSrc l t b)) ∧
    Gives (.xorB p d a b) p (fun l t => oneReg d (readReg l t a ^^^ readSrc l t b)) ∧
    Gives (.notB p d a) p (fun l t => oneReg d (~~~ readReg l t a)) ∧
    ∃ fn : Word → Word → Word → Word,
      Gives (.lut3 p d a b' c tbl) p (fun l t => oneReg d (fn (readReg l t a) (readReg l t b') (readReg l t c))) ∧
      ∀ x y z i, i < 32 → (fn x y z).getLsbD i =
        tbl.getLsbD ((x.getLsbD i).toNat + 2 * (y.getLsbD i).toNat + 4 * (z.getLsbD i).toNat)

/-- R137, Table 5-8: shifts, rotation and funnel shifts; amounts are unsigned. -/
def Obligations.Shifts : Prop :=
  ∀ (p : Pre) (d a b' : Reg) (b c : Src),
    Gives (.shl p d a b) p (fun l t => oneReg d (if 32 ≤ (readSrc l t b).toNat then 0 else readReg l t a <<< (readSrc l t b).toNat)) ∧
    Gives (.shr p d a b) p (fun l t => oneReg d (if 32 ≤ (readSrc l t b).toNat then 0 else readReg l t a >>> (readSrc l t b).toNat)) ∧
    Gives (.sar p d a b) p (fun l t => oneReg d ((readReg l t a).sshiftRight (min (readSrc l t b).toNat 31))) ∧
    Gives (.rot p d a b) p (fun l t => oneReg d ((readReg l t a).rotateLeft ((readSrc l t b).toNat % 32))) ∧
    Gives (.fshfL p d a b' c) p (fun l t => oneReg d
      (((readReg l t a ++ readReg l t b' : BitVec 64) <<< min (readSrc l t c).toNat 32).extractLsb' 32 32)) ∧
    Gives (.fshfR p d a b' c) p (fun l t => oneReg d
      (((readReg l t a ++ readReg l t b' : BitVec 64) >>> min (readSrc l t c).toNat 32).extractLsb' 0 32)) ∧
    Gives (.shl64 p d a b) p (fun l t => onePair d (if 64 ≤ (readSrc l t b).toNat then 0 else readPair l t a <<< (readSrc l t b).toNat)) ∧
    Gives (.shr64 p d a b) p (fun l t => onePair d (if 64 ≤ (readSrc l t b).toNat then 0 else readPair l t a >>> (readSrc l t b).toNat)) ∧
    Gives (.sar64 p d a b) p (fun l t => onePair d ((readPair l t a).sshiftRight (min (readSrc l t b).toNat 63)))

/-- R138: POPC counts the set bits, CLZ the leading zeros (32 of zero), BREV reverses; BFE and BFI take pos and len from B. -/
def Obligations.BitOperations : Prop :=
  ∀ (p : Pre) (d a : Reg) (b : Src) (c : Reg),
    let pos (y : Word) : Nat := min (y.toNat % 256) 32
    let len (y : Word) : Nat := min (y.toNat / 256 % 256) 32
    Gives (.popc p d a) p (fun l t => oneReg d (BitVec.ofNat 32 ((List.range 32).countP fun i => (readReg l t a).getLsbD i))) ∧
    (∃ zeros : Word → Nat, Gives (.clz p d a) p (fun l t => oneReg d (BitVec.ofNat 32 (zeros (readReg l t a)))) ∧
      ∀ x, zeros x ≤ 32 ∧ x.toNat < 2 ^ (32 - zeros x) ∧ (zeros x < 32 → 2 ^ (31 - zeros x) ≤ x.toNat)) ∧
    (∃ rev : Word → Word, Gives (.brev p d a) p (fun l t => oneReg d (rev (readReg l t a))) ∧
      ∀ x i, i < 32 → (rev x).getLsbD i = x.getLsbD (31 - i)) ∧
    Gives (.bfeN p d a b) p (fun l t => oneReg d
      (BitVec.ofNat 32 ((readReg l t a).toNat / 2 ^ pos (readSrc l t b) % 2 ^ len (readSrc l t b)))) ∧
    Gives (.bfeS p d a b) p (fun l t => oneReg d
      (let f := ((readReg l t a).signExtend 64).toNat / 2 ^ pos (readSrc l t b) % 2 ^ len (readSrc l t b)
       if len (readSrc l t b) = 0 then 0
       else if 2 ^ (len (readSrc l t b) - 1) ≤ f then BitVec.ofInt 32 ((f : Int) - 2 ^ len (readSrc l t b)) else BitVec.ofNat 32 f)) ∧
    Gives (.bfi p d a b c) p (fun l t => oneReg d
      (let m := BitVec.ofNat 32 ((2 ^ len (readSrc l t b) - 1) * 2 ^ pos (readSrc l t b))
       (readReg l t c &&& ~~~ m) ||| ((readReg l t a <<< pos (readSrc l t b)) &&& m)))

/-- R139: ICMP sets pd to A cmp B as signed or unsigned values of 32 or 64 bits; IPICK picks by ps XOR nps. -/
def Obligations.CompareSelect : Prop :=
  ∀ (p : Pre) (cmp : Cmp) (pd ps : BitVec 3) (nps : Bool) (d a : Reg) (b : Src),
    let holds (x y : Int) : Bool :=
      match cmp with
      | .eq => decide (x = y) | .ne => decide (x ≠ y) | .lt => decide (x < y)
      | .le => decide (x ≤ y) | .gt => decide (y < x) | .ge => decide (y ≤ x)
    Gives (.icmpS32 p cmp pd a b) p (fun l t => onePred pd (holds (readReg l t a).toInt (readSrc l t b).toInt)) ∧
    Gives (.icmpN32 p cmp pd a b) p (fun l t => onePred pd (holds (readReg l t a).toNat (readSrc l t b).toNat)) ∧
    Gives (.icmpS64 p cmp pd a b) p (fun l t => onePred pd (holds (readPair l t a).toInt (readSrc64 l t b).toInt)) ∧
    Gives (.icmpN64 p cmp pd a b) p (fun l t => onePred pd (holds (readPair l t a).toNat (readSrc64 l t b).toNat)) ∧
    Gives (.ipick p d a b ps nps) p (fun l t =>
      oneReg d (if (readPred t ps.toNat ^^ nps) = true then readReg l t a else readSrc l t b))

/-- R140: the four-way byte dot product. -/
def Obligations.DotProduct : Prop :=
  ∀ (p : Pre) (d a b c : Reg),
    Gives (.idp4S p d a b c) p (fun l t => oneReg d (BitVec.ofInt 32 ((readReg l t c).toInt + ((List.range 4).map fun j =>
      ((readReg l t a).extractLsb' (8 * j) 8).toInt * ((readReg l t b).extractLsb' (8 * j) 8).toInt).sum))) ∧
    Gives (.idp4N p d a b c) p (fun l t => oneReg d (BitVec.ofNat 32 ((readReg l t c).toNat + ((List.range 4).map fun j =>
      ((readReg l t a).extractLsb' (8 * j) 8).toNat * ((readReg l t b).extractLsb' (8 * j) 8).toNat).sum)))

/-- R141, Table 5-9: packed arithmetic, minimum, maximum, comparison and selection, element by element; a saturated result is
the exact one clamped to the element's range (R95). -/
def Obligations.Packed : Prop :=
  ∀ (p : Pre) (d a b' c : Reg) (b : Src) (m : SatMode) (cmp : Cmp) (uns : Bool),
    let el (w : Nat) (x : Word) (j : Nat) : BitVec w := x.extractLsb' (w * j) w
    let halves (fn : BitVec 16 → BitVec 16 → BitVec 16) (x y : Word) : Word := fn (el 16 x 1) (el 16 y 1) ++ fn (el 16 x 0) (el 16 y 0)
    let bytes (fn : BitVec 8 → BitVec 8 → BitVec 8) (x y : Word) : Word :=
      fn (el 8 x 3) (el 8 y 3) ++ fn (el 8 x 2) (el 8 y 2) ++ fn (el 8 x 1) (el 8 y 1) ++ fn (el 8 x 0) (el 8 y 0)
    let sat (w : Nat) (op : Int → Int → Int) (x y : BitVec w) : BitVec w :=
      match m with
      | .wrap => BitVec.ofInt w (op x.toInt y.toInt)
      | .satS => BitVec.ofInt w (max (-2 ^ (w - 1)) (min (2 ^ (w - 1) - 1) (op x.toInt y.toInt)))
      | .satN => BitVec.ofInt w (max 0 (min (2 ^ w - 1) (op x.toNat y.toNat)))
    let holds (x y : Int) : Bool :=
      match cmp with
      | .eq => decide (x = y) | .ne => decide (x ≠ y) | .lt => decide (x < y)
      | .le => decide (x ≤ y) | .gt => decide (y < x) | .ge => decide (y ≤ x)
    let ones (w : Nat) (x y : BitVec w) : BitVec w :=
      if (if uns then holds x.toNat y.toNat else holds x.toInt y.toInt) = true then BitVec.allOnes w else 0
    Gives (.padd16 p d a b m) p (fun l t => oneReg d (halves (sat 16 (· + ·)) (readReg l t a) (readSrc l t b))) ∧
    Gives (.padd8 p d a b m) p (fun l t => oneReg d (bytes (sat 8 (· + ·)) (readReg l t a) (readSrc l t b))) ∧
    Gives (.psub16 p d a b m) p (fun l t => oneReg d (halves (sat 16 (· - ·)) (readReg l t a) (readSrc l t b))) ∧
    Gives (.psub8 p d a b m) p (fun l t => oneReg d (bytes (sat 8 (· - ·)) (readReg l t a) (readSrc l t b))) ∧
    Gives (.pmaxS16 p d a b) p (fun l t => oneReg d (halves (fun x y => if x.toInt < y.toInt then y else x) (readReg l t a) (readSrc l t b))) ∧
    Gives (.pmaxN16 p d a b) p (fun l t => oneReg d (halves (fun x y => if x.toNat < y.toNat then y else x) (readReg l t a) (readSrc l t b))) ∧
    Gives (.pminS16 p d a b) p (fun l t => oneReg d (halves (fun x y => if y.toInt < x.toInt then y else x) (readReg l t a) (readSrc l t b))) ∧
    Gives (.pminN16 p d a b) p (fun l t => oneReg d (halves (fun x y => if y.toNat < x.toNat then y else x) (readReg l t a) (readSrc l t b))) ∧
    Gives (.pcmp16 p d a b cmp uns) p (fun l t => oneReg d (halves (ones 16) (readReg l t a) (readSrc l t b))) ∧
    Gives (.pcmp8 p d a b cmp uns) p (fun l t => oneReg d (bytes (ones 8) (readReg l t a) (readSrc l t b))) ∧
    Gives (.psel p d a b' c) p (fun l t => oneReg d ((readReg l t a &&& readReg l t c) ||| (readReg l t b' &&& ~~~ readReg l t c)))

/-- R142: PACS adds two pairs of halves, keeps the larger sum (a tie keeps the first) and says which in pd and pd + 1. -/
def Obligations.AddCompareSelect : Prop :=
  ∀ (p : Pre) (d a b c e : Reg) (m : SatMode) (pd : BitVec 3),
    let add (x y : BitVec 16) : BitVec 16 :=
      match m with
      | .wrap => x + y
      | .satS => BitVec.ofInt 16 (max (-2 ^ 15) (min (2 ^ 15 - 1) (x.toInt + y.toInt)))
      | .satN => BitVec.ofNat 16 (min (2 ^ 16 - 1) (x.toNat + y.toNat))
    let above (x y : BitVec 16) : Bool := if m = .satN then decide (x.toNat < y.toNat) else decide (x.toInt < y.toInt)
    Gives (.pacs p d a b c e m pd) p (fun l t =>
      let h (r : Reg) (j : Nat) : BitVec 16 := (readReg l t r).extractLsb' (16 * j) 16
      let take (j : Nat) : Bool := above (add (h a j) (h b j)) (add (h c j) (h e j))
      let sum (j : Nat) : BitVec 16 := if take j then add (h c j) (h e j) else add (h a j) (h b j)
      { regs := [(d.toNat, sum 1 ++ sum 0)], preds := [(pd.toNat, take 0), (pd.toNat + 1, take 1)] })

/-- R143: PERM's byte j is the byte of A and B that nibble j of C selects, or zero where the nibble's bit 3 is set. -/
def Obligations.Permute : Prop :=
  ∀ (p : Pre) (d a b : Reg) (c : Src),
    Gives (.perm p d a b c) p (fun l t =>
      let x : BitVec 64 := readReg l t b ++ readReg l t a
      let pick (j : Nat) : BitVec 8 :=
        let n := ((readSrc l t c).extractLsb' (4 * j) 4).toNat
        if 8 ≤ n then 0 else x.extractLsb' (8 * n) 8
      oneReg d (pick 3 ++ pick 2 ++ pick 1 ++ pick 0))

/-- R144: MOV, MOVI and LEA; a 64-bit form sign-extends its 48-bit immediate, and LEA.pc adds the block's header address. -/
def Obligations.Moves : Prop :=
  ∀ (p : Pre) (d a : Reg) (imm : BitVec 48),
    Gives (.mov p d a false) p (fun l t => oneReg d (readReg l t a)) ∧
    Gives (.mov p d a true) p (fun l t => onePair d (readPair l t a)) ∧
    Gives (.movi p d false imm) p (fun _ _ => oneReg d (imm.setWidth 32)) ∧
    Gives (.movi p d true imm) p (fun _ _ => onePair d (imm.signExtend 64)) ∧
    Gives (.lea p d a false imm) p (fun l t => onePair d (readPair l t a + imm.signExtend 64)) ∧
    Gives (.lea p d a true imm) p (fun _ t => onePair d (t.hdr + imm.signExtend 64))

/-- R145: PLOG, PGET and PPUT. -/
def Obligations.PredicateMoves : Prop :=
  ∀ (p : Pre) (d a : Reg) (pd pa pb : BitVec 3) (na nb : Bool) (op : PlogOp) (mask : BitVec 7),
    let join (x y : Bool) : Bool := match op with | .and => x && y | .or => x || y | .xor => x ^^ y
    Gives (.plog p pd pa na pb nb op) p (fun _ t =>
      onePred pd (join (readPred t pa.toNat ^^ na) (readPred t pb.toNat ^^ nb))) ∧
    Gives (.pget p d) p (fun _ t => oneReg d (BitVec.ofNat 32 (t.preds.toNat + 128))) ∧
    Gives (.pput p a mask) p (fun l t =>
      { preds := ((List.range 7).filter fun i => mask.getLsbD i).map fun i => (i, (readReg l t a).getLsbD i) })

/-! ### Floating-point and MX instructions (04, 06) -/

/-- R148: FADD, FSUB, FMUL and FFMA compute each element exactly and round it once. -/
def Obligations.FloatArithmetic : Prop :=
  ∀ (p : Pre) (d a b : Reg) (rm : Rm) (ftz : Bool) (c : Reg),
    Gives (.faddF64 p d a b rm) p (pairs2 d a b (fAdd f64 rm false)) ∧
    Gives (.faddF32 p d a b rm ftz) p (regs2 d a b (fAdd f32 rm ftz)) ∧
    Gives (.faddF16x2 p d a b rm ftz) p (halves2 d a b (fAdd f16 rm ftz)) ∧
    Gives (.faddBf16x2 p d a b rm) p (halves2 d a b (fAdd bf16 rm false)) ∧
    Gives (.fsubF64 p d a b rm) p (pairs2 d a b (fSub f64 rm false)) ∧
    Gives (.fsubF32 p d a b rm ftz) p (regs2 d a b (fSub f32 rm ftz)) ∧
    Gives (.fsubF16x2 p d a b rm ftz) p (halves2 d a b (fSub f16 rm ftz)) ∧
    Gives (.fsubBf16x2 p d a b rm) p (halves2 d a b (fSub bf16 rm false)) ∧
    Gives (.fmulF64 p d a b rm) p (pairs2 d a b (fMul f64 rm false)) ∧
    Gives (.fmulF32 p d a b rm ftz) p (regs2 d a b (fMul f32 rm ftz)) ∧
    Gives (.fmulF16x2 p d a b rm ftz) p (halves2 d a b (fMul f16 rm ftz)) ∧
    Gives (.fmulBf16x2 p d a b rm) p (halves2 d a b (fMul bf16 rm false)) ∧
    Gives (.ffmaF64 p d a b c rm) p (pairs3 d a b c (fFma f64 rm false)) ∧
    Gives (.ffmaF32 p d a b c rm ftz) p (regs3 d a b c (fFma f32 rm ftz)) ∧
    Gives (.ffmaF16x2 p d a b c rm ftz) p (halves3 d a b c (fFma f16 rm ftz)) ∧
    Gives (.ffmaBf16x2 p d a b c rm) p (halves3 d a b c (fFma bf16 rm false))

/-- R149, R150: FMIN, FMAX and FCMP, per element. -/
def Obligations.FloatMinMaxCompare : Prop :=
  ∀ (p : Pre) (d a b : Reg) (ftz : Bool) (cmp : FCmp) (pd : BitVec 3) (sig : Bool),
    Gives (.fminF64 p d a b) p (pairs2 d a b (fMinMax f64 false false)) ∧
    Gives (.fminF32 p d a b ftz) p (regs2 d a b (fMinMax f32 false ftz)) ∧
    Gives (.fminF16x2 p d a b ftz) p (halves2 d a b (fMinMax f16 false ftz)) ∧
    Gives (.fminBf16x2 p d a b) p (halves2 d a b (fMinMax bf16 false false)) ∧
    Gives (.fmaxF64 p d a b) p (pairs2 d a b (fMinMax f64 true false)) ∧
    Gives (.fmaxF32 p d a b ftz) p (regs2 d a b (fMinMax f32 true ftz)) ∧
    Gives (.fmaxF16x2 p d a b ftz) p (halves2 d a b (fMinMax f16 true ftz)) ∧
    Gives (.fmaxBf16x2 p d a b) p (halves2 d a b (fMinMax bf16 true false)) ∧
    Gives (.fcmpF64 p cmp pd a b sig) p (comparePairs pd a b (fCmp f64 cmp sig false)) ∧
    Gives (.fcmpF32 p cmp pd a b sig ftz) p (compare2 pd a b (fCmp f32 cmp sig ftz)) ∧
    Gives (.fcmpF16x2 p cmp pd a b sig ftz) p (compareHalves pd a b (fCmp f16 cmp sig ftz)) ∧
    Gives (.fcmpBf16x2 p cmp pd a b sig) p (compareHalves pd a b (fCmp bf16 cmp sig false))

/-- R151: FDIV, FSQRT, FRCP and FRSQ. -/
def Obligations.FloatDivideRoot : Prop :=
  ∀ (p : Pre) (d a b : Reg) (rm : Rm) (ftz : Bool),
    Gives (.fdivF64 p d a b rm) p (pairs2 d a b (fDiv f64 rm false)) ∧
    Gives (.fdivF32 p d a b rm ftz) p (regs2 d a b (fDiv f32 rm ftz)) ∧
    Gives (.fsqrtF64 p d a rm) p (pair1 d a (fSqrt f64 rm false)) ∧
    Gives (.fsqrtF32 p d a rm ftz) p (reg1 d a (fSqrt f32 rm ftz)) ∧
    Gives (.frcpF64 p d a rm) p (pair1 d a (f64.rcp rm false 0x0A0)) ∧
    Gives (.frcpF32 p d a rm ftz) p (reg1 d a (f32.rcp rm ftz 0x0A1)) ∧
    Gives (.frsqF64 p d a rm) p (pair1 d a (f64.rsq rm false 0x0A2)) ∧
    Gives (.frsqF32 p d a rm ftz) p (reg1 d a (f32.rsq rm ftz 0x0A3))

/-- R152: 2^A, log2 A, sin A, cos A and tanh A, each within the bound of Table 4-8. Which result within the bound is
delivered is the free choice of log 13. -/
def Obligations.FloatTranscendental : Prop :=
  ∀ (p : Pre) (d a : Reg) (rm : Rm) (ftz : Bool),
    Gives (.fexp2F32 p d a rm ftz) p (reg1 d a (f32.exp2 rm ftz 0x0A4)) ∧
    Gives (.flog2F32 p d a rm ftz) p (reg1 d a (f32.flog2 rm ftz 0x0A5)) ∧
    Gives (.fsinF32 p d a rm ftz) p (reg1 d a (f32.trig false rm ftz 0x0A6)) ∧
    Gives (.fcosF32 p d a rm ftz) p (reg1 d a (f32.trig true rm ftz 0x0A7)) ∧
    Gives (.ftanhF32 p d a rm ftz) p (reg1 d a (f32.tanh rm ftz 0x0A8)) ∧
    Gives (.fexp2F64 p d a rm) p (pair1 d a (f64.exp2 rm false 0x0A9)) ∧
    Gives (.flog2F64 p d a rm) p (pair1 d a (f64.flog2 rm false 0x0AA)) ∧
    Gives (.fsinF64 p d a rm) p (pair1 d a (f64.trig false rm false 0x0AB)) ∧
    Gives (.fcosF64 p d a rm) p (pair1 d a (f64.trig true rm false 0x0AC))

/-- R153, R154: FSCALE, FRND and FCLASS. -/
def Obligations.FloatScaleRoundClass : Prop :=
  ∀ (p : Pre) (d a b : Reg) (rm : Rm) (ftz : Bool),
    Gives (.fscaleF64 p d a b rm) p (fun l t => pairResult d (fScale f64 rm false (readPair l t a).toNat (readReg l t b).toInt)) ∧
    Gives (.fscaleF32 p d a b rm ftz) p (fun l t => regResult d (fScale f32 rm ftz (readReg l t a).toNat (readReg l t b).toInt)) ∧
    Gives (.frndF64 p d a rm) p (pair1 d a (fRnd f64 rm false)) ∧
    Gives (.frndF32 p d a rm ftz) p (reg1 d a (fRnd f32 rm ftz)) ∧
    Gives (.fclassF64 p d a) p (narrow1 d a (fun x => (f64.classify x, 0))) ∧
    Gives (.fclassF32 p d a) p (reg1 d a (fun x => (f32.classify x, 0)))

/-- R155, Table 6-6: the conversions. -/
def Obligations.FloatConvert : Prop :=
  ∀ (p : Pre) (d a : Reg) (rm : Rm) (b : Reg) (ftz : Bool),
    Gives (.fcvtF64F32 p d a rm) p (widen1 d a (fConv f32 f64 rm false false)) ∧
    Gives (.fcvtF32F64 p d a rm) p (narrow1 d a (fConv f64 f32 rm false false)) ∧
    Gives (.fcvtF16x2F32 p d a b rm ftz) p (pack2 d a b (fConv f32 f16 rm ftz ftz)) ∧
    Gives (.fcvtBf16x2F32 p d a b rm) p (pack2 d a b (fConv f32 bf16 rm false false)) ∧
    Gives (.fcvtF32F16x2 p d a rm ftz) p (unpack1 d a (fConv f16 f32 rm ftz ftz)) ∧
    Gives (.fcvtF32Bf16x2 p d a rm) p (unpack1 d a (fConv bf16 f32 rm false false)) ∧
    Gives (.fcvtF32S32 p d a rm ftz) p (reg1 d a (fOfInt f32 rm true 32)) ∧
    Gives (.fcvtF32N32 p d a rm ftz) p (reg1 d a (fOfInt f32 rm false 32)) ∧
    Gives (.fcvtF64S64 p d a rm) p (pair1 d a (fOfInt f64 rm true 64)) ∧
    Gives (.fcvtF64S32 p d a rm) p (widen1 d a (fOfInt f64 rm true 32)) ∧
    Gives (.fcvtS32F32 p d a rm ftz) p (reg1 d a (fToInt f32 rm ftz true 32)) ∧
    Gives (.fcvtN32F32 p d a rm ftz) p (reg1 d a (fToInt f32 rm ftz false 32)) ∧
    Gives (.fcvtS64F64 p d a rm) p (pair1 d a (fToInt f64 rm false true 64)) ∧
    Gives (.fcvtS32F64 p d a rm) p (narrow1 d a (fToInt f64 rm false true 32))

/-- R156: MXDQ dequantises two elements of a block packed in registers, with the scale byte that s selects (R101). -/
def Obligations.MxDequantise : Prop :=
  ∀ (p : Pre) (d a b : Reg) (j : BitVec 4) (sel : BitVec 2) (rm : Rm) (ftz : Bool),
    Gives (.mxdqE4m3 p d a b j sel rm ftz) p (dequantised .e4m3 d a b j sel rm ftz) ∧
    Gives (.mxdqE5m2 p d a b j sel rm ftz) p (dequantised .e5m2 d a b j sel rm ftz) ∧
    Gives (.mxdqE2m3 p d a b j sel rm ftz) p (dequantised .e2m3 d a b j sel rm ftz) ∧
    Gives (.mxdqE3m2 p d a b j sel rm ftz) p (dequantised .e3m2 d a b j sel rm ftz) ∧
    Gives (.mxdqE2m1 p d a b j sel rm ftz) p (dequantised .e2m1 d a b j sel rm ftz)

/-! ### Memory instructions (07) -/

/-- R66, R67, R170: the checks on a thread's address in their order, and the block's window. -/
def Obligations.AddressChecks : Prop :=
  ∀ (s : State) (b : Block) (vf : Nat) (a : DWord) (n align : Nat) (acc : Acc) (h : Hint),
    (canonicalVa a = false → resolve s b vf a n align acc h = (.error (.trap 0x06), s)) ∧
    (canonicalVa a = true → a.toNat % align ≠ 0 → resolve s b vf a n align acc h = (.error (.trap 0x05), s)) ∧
    (canonicalVa a = true → a.toNat % align = 0 → inAperture a = true →
      resolve s b vf a n align acc h =
        (if b.vbase ≤ a.toNat ∧ a.toNat + n ≤ b.vbase + b.vlimit then .ok (.vault (vaultSpace + (a.toNat - vaultBase)))
         else .error (.trap 0x09), s)) ∧
    (canonicalVa a = true → a.toNat % align = 0 → inVaultRange a = true → inAperture a = false →
      resolve s b vf a n align acc h = (.error (.trap 0x11), s)) ∧
    (canonicalVa a = true ↔ ∃ x : BitVec 57, a = x.signExtend 64)

/-- R260, R263, R283: what a place holds, and when an access in flight reaches it. In the vault a load reads and a store writes
memory itself; elsewhere a core's load after its own store, both with the default hint, finds the stored bytes. No other byte
of memory changes. An access is performed only after the earlier ones that must precede it: its thread's at the same
location, before a release, or the lower half of the same access (R173); its quad's in one vault (R289); its core's in one page
of a peer (R371; that the core is the source is the model's reading, log 25). -/
def Obligations.PlacesHoldBytes : Prop :=
  ∀ (s : State) (core lid vf : Nat) (h : Hint) (bs : List Byte) (k : Nat), tablesCanonical s →
    (∀ n, loadAt s core lid vf (.vault k) n h = (memRead s k n, s)) ∧
    storeAt s core lid vf (.vault k) bs h = memWrite s k bs ∧
    (∀ j, memByte (memWrite s k bs) j = if k ≤ j ∧ j < k + bs.length then bs.getD (j - k) 0 else memByte s j) ∧
    (∀ va key, 0 < bs.length → va57 va % 128 + bs.length ≤ 128 → (heldLines s.l1 core).length < l1Lines →
      let t := storeAt s core lid vf (.global va key) bs .dflt
      t.mem = s.mem ∧ loadAt t core lid vf (.cachedAt va) bs.length .dflt = (bs, t)) ∧
    (∀ x : Access,
      let rest : State := { s with flight := s.flight.filter fun y => y.id != x.id }
      (∀ n form d q, x.place = .vault k → x.act = .load n form d q →
        performOne s x = giveRegs rest x.uid q 0 (formRegs form d (memRead s k n))) ∧
      (x.place = .vault k → x.act = .store bs none → performOne s x = memWrite rest k bs) ∧
      (s.flight.find? (fun y => y.id == x.id) = some x → act (.perform x.id) s = done (performOne s x)) ∧
      ∀ pre post, s.flight = pre ++ x :: post → (∀ y ∈ pre, y.id ≠ x.id) →
        (performable s x.id = true ↔ ∀ y ∈ pre, mustPrecede y x = false)) ∧
    (∀ x y : Access, mustPrecede x y = true ↔
      (x.uid = y.uid ∧ (x.meets y = true ∨ y.act.rel? ≠ none ∨ (y.tail = true ∧ x.id + 1 = y.id))) ∨
      (coreQuad x.core = coreQuad y.core ∧ vaultOf x.place ≠ none ∧ vaultOf x.place = vaultOf y.place) ∨
      (x.core = y.core ∧ peerPage x.place ≠ none ∧ peerPage x.place = peerPage y.place)) ∧
    (∀ (u : Nat) (t : Thread) (q : Pend) (rs : List (Nat × Word)), s.thread? u = some t → q ∈ t.pend →
      (∀ x ∈ t.pend, x.id = q.id → x = q) → ∃ y, (giveRegs s u q.id 0 rs).thread? u = some y ∧
        y.pend = t.pend.map (fun x => if x.id = q.id then q.receive rs else x) ∧ y.regs = t.regs ∧ y.preds = t.preds) ∧
    ∀ (q : Pend) (rs : List (Nat × Word)), q.due = .loading 1 → (q.receive rs).due = .any ∧
      (q.receive rs).regs = q.regs.map fun w => (rs.find? fun r => r.1 == w.1).getD w

/-- R173, R174, R184, R283: loads, with registers from the lowest address up and 8- and 16-bit values extended, in pieces of at
most 8 bytes each; LDNF also writes 1 to pd (R185), and where the access would fail it writes zeros and 0. (That a load whose
bytes the caches hold reads and delivers them in the step of its issue: the model's choice, log 7.) -/
def Obligations.Loads : Prop :=
  ∀ (p : Pre) (d a : Reg) (off : BitVec 24) (h : Hint) (idx : Bool) (w : BitVec 2) (pd : BitVec 3),
    LoadsAs (.ldS8 p d a off h) p (at_ a off) 1 h (.bits 8 true) d []
      (fun bs => [(d.toNat, (BitVec.ofNat 8 (ofBytes bs)).signExtend 32)]) ∧
    LoadsAs (.ldN8 p d a off h) p (at_ a off) 1 h (.bits 8 false) d []
      (fun bs => [(d.toNat, (BitVec.ofNat 8 (ofBytes bs)).setWidth 32)]) ∧
    LoadsAs (.ldS16 p d a off h) p (at_ a off) 2 h (.bits 16 true) d []
      (fun bs => [(d.toNat, (BitVec.ofNat 16 (ofBytes bs)).signExtend 32)]) ∧
    LoadsAs (.ldN16 p d a off h) p (at_ a off) 2 h (.bits 16 false) d []
      (fun bs => [(d.toNat, (BitVec.ofNat 16 (ofBytes bs)).setWidth 32)]) ∧
    LoadsAs (.ld32 p d a off h) p (at_ a off) 4 h .words d [] (wordsAt d 1) ∧
    LoadsAs (.ld64 p d a off h) p (at_ a off) 8 h .words d [] (wordsAt d 2) ∧
    LoadsAs (.ld128 p d a off h) p (at_ a off) 16 h .words d [] (wordsAt d 4) ∧
    LoadsAs (.ldl32 p d idx a off h) p (atStack idx a off) 4 h .words d [] (wordsAt d 1) ∧
    LoadsAs (.ldl64 p d idx a off h) p (atStack idx a off) 8 h .words d [] (wordsAt d 2) ∧
    LoadsAs (.ldl128 p d idx a off h) p (atStack idx a off) 16 h .words d [] (wordsAt d 4) ∧
    LoadsAs (.ldnf p d w a off pd h) p (at_ a off) (4 * 2 ^ w.toNat) h .words d [(pd.toNat, true)] (wordsAt d (2 ^ w.toNat)) ∧
    ∀ why, Performs1 (.ldnf p d w a off pd h) p
      (fun s b l t => resolve s b l.vf (at_ a off l t) (4 * 2 ^ w.toNat) (4 * 2 ^ w.toNat) .load h = (.error why, s))
      (fun s _ _ _ => s)
      (fun _ _ _ t y => Receives ((List.range (2 ^ w.toNat)).map fun i => (d.toNat + i, 0)) [(pd.toNat, false)] t y)

/-- R173, R174, R183, R184, R283: stores write the low bits of B, a pair or a quadruple; ZLINE writes 128 zero bytes. Each is
issued in its pieces, at the place of its address. (That a store after a FENCE.rel is performed at the fence's point at least is
the model's reading of R288, log 81.) -/
def Obligations.Stores : Prop :=
  ∀ (p : Pre) (a b : Reg) (off : BitVec 24) (h : Hint) (idx : Bool),
    StoresAs (.st8 p a off b h) p (at_ a off) 1 h (fun l t => bytesOf 1 (readReg l t b).toNat) ∧
    StoresAs (.st16 p a off b h) p (at_ a off) 2 h (fun l t => bytesOf 2 (readReg l t b).toNat) ∧
    StoresAs (.st32 p a off b h) p (at_ a off) 4 h (fun l t => bytesOf 4 (readReg l t b).toNat) ∧
    StoresAs (.st64 p a off b h) p (at_ a off) 8 h (bytesFrom b 2) ∧
    StoresAs (.st128 p a off b h) p (at_ a off) 16 h (bytesFrom b 4) ∧
    StoresAs (.stl32 p idx a off b h) p (atStack idx a off) 4 h (fun l t => bytesOf 4 (readReg l t b).toNat) ∧
    StoresAs (.stl64 p idx a off b h) p (atStack idx a off) 8 h (bytesFrom b 2) ∧
    StoresAs (.stl128 p idx a off b h) p (atStack idx a off) 16 h (bytesFrom b 4) ∧
    StoresAs (.zline p a off h) p (at_ a off) 128 h (fun _ _ => List.replicate 128 0)

/-- R175, R287, R288: LDA and STR access their scope's coherence point. A load that acquires is performed at once and the
acquire follows it; a store that releases does so when it is performed. (That a load which the caches serve, and one that
acquires, reads and delivers in the step of its issue is the model's choice, log 7; that a store after a FENCE.rel is performed
at the fence's point at least is its reading of R288, log 81.) -/
def Obligations.ScopedAccesses : Prop :=
  ∀ (p : Pre) (d a b : Reg) (off : BitVec 24) (sem : Sem) (sc : Scope) (pl : Place),
    let acquires (i : Instr) (n : Nat) : Prop :=
      Performs1 i p
        (fun s b l t => LandsAt .load (at_ a off) n n (pointHint sc) pl s b l t ∧ NamesNew s t ∧
          NoneBefore s (loadAccesses pl n (pointHint sc) .words d s b l t))
        (fun s b l _ => acquire (loadPieces pl n (pointHint sc) s b l).2 b.core l.vf (actsAt pl sc))
        (fun s b l t y => Receives (wordsAt d (n / 4) (loadPieces pl n (pointHint sc) s b l).1) [] t y)
    let stores (i : Instr) (n : Nat) : Prop :=
      Performs1 i p (LandsAt .store (at_ a off) n n (pointHint sc) pl)
        (fun s k l t => sent (unfenced pl s l t)
          (storeAccesses pl (fencedHint t (pointHint sc)) (releaseScope sem pl sc) (bytesFrom b (n / 4) l t) s k l t))
        (fun _ _ _ t y => Idle t y)
    (isAcquire sem = false → LoadsAs (.lda32 p d a off sem sc) p (at_ a off) 4 (pointHint sc) .words d [] (wordsAt d 1)) ∧
    (isAcquire sem = false → LoadsAs (.lda64 p d a off sem sc) p (at_ a off) 8 (pointHint sc) .words d [] (wordsAt d 2)) ∧
    (isAcquire sem = true → acquires (.lda32 p d a off sem sc) 4) ∧ (isAcquire sem = true → acquires (.lda64 p d a off sem sc) 8) ∧
    stores (.str32 p a off b sem sc) 4 ∧ stores (.str64 p a off b sem sc) 8

/-- R176, Table 7-3: the 32-bit integer atomics and RED, which returns nothing. (That one which acquires is performed
in the step of its issue is the model's choice, log 7; that one after a FENCE.rel is performed at the fence's point at least is
its reading of R288, log 81.) -/
def Obligations.Atomics32 : Prop :=
  ∀ (p : Pre) (d a b c : Reg) (off : BitVec 24) (sem : Sem) (sc : Scope) (op : RedOp),
    let on (fn : Word → Word → Word) (l : Launch) (t : Thread) (old : Nat) : Nat := (fn (BitVec.ofNat 32 old) (readReg l t b)).toNat
    let lowS (x y : Word) : Word := if y.toInt < x.toInt then y else x
    let lowN (x y : Word) : Word := if y.toNat < x.toNat then y else x
    let highS (x y : Word) : Word := if x.toInt < y.toInt then y else x
    let highN (x y : Word) : Word := if x.toNat < y.toNat then y else x
    let red (x y : Word) : Word :=
      match op with
      | .add => x + y | .minS => lowS x y | .minN => lowN x y | .maxS => highS x y | .maxN => highN x y
      | .and => x &&& y | .or => x ||| y | .xor => x ^^^ y
    let reg (r : Reg) (l : Launch) (t : Thread) : BitVec 128 := (readReg l t r).setWidth 128
    let acts (i : Instr) (pcie : Bool) (o : RedOp) (fn : Word → Word → Word) : Prop :=
      ActsAtomically i p (some d) a off 4 sem sc false pcie (.int o) (reg b) (reg b) (on fn)
    acts (.atom32Add p d a off b sem sc) true .add (· + ·) ∧
    acts (.atom32MinS p d a off b sem sc) false .minS lowS ∧ acts (.atom32MinN p d a off b sem sc) false .minN lowN ∧
    acts (.atom32MaxS p d a off b sem sc) false .maxS highS ∧ acts (.atom32MaxN p d a off b sem sc) false .maxN highN ∧
    acts (.atom32And p d a off b sem sc) false .and (· &&& ·) ∧ acts (.atom32Or p d a off b sem sc) false .or (· ||| ·) ∧
    acts (.atom32Xor p d a off b sem sc) false .xor (· ^^^ ·) ∧
    ActsAtomically (.atom32Exch p d a off b sem sc) p (some d) a off 4 sem sc true true .exch (reg b) (reg b) (on fun _ y => y) ∧
    ActsAtomically (.atom32Cas p d a off b c sem sc) p (some d) a off 4 sem sc true true .cas (reg b) (reg c)
      (fun l t old => if old = (readReg l t b).toNat then (readReg l t c).toNat else old) ∧
    ActsAtomically (.red32 p a off b op sem sc) p none a off 4 sem sc false false (.int op) (reg b) (reg b) (on red)

/-- R176–R178, Table 7-3: the 64-bit, 128-bit and floating atomics; a floating sum is rounded once and sets no flag.
(That one which acquires is performed
in the step of its issue is the model's choice, log 7; that one after a FENCE.rel is performed at the fence's point at least is
its reading of R288, log 81.) -/
def Obligations.AtomicsWideFloat : Prop :=
  ∀ (p : Pre) (d a b c : Reg) (off : BitVec 24) (sem : Sem) (sc : Scope) (rm : Rm),
    let reg (r : Reg) (l : Launch) (t : Thread) : BitVec 128 := (readReg l t r).setWidth 128
    let pair (r : Reg) (l : Launch) (t : Thread) : BitVec 128 := (readPair l t r).setWidth 128
    let quad (r : Reg) (l : Launch) (t : Thread) : BitVec 128 := readQuad l t r
    let sum32 (l : Launch) (t : Thread) (old : Nat) : Nat :=
      (BitVec.ofNat 32 (fAdd f32 rm false old (readReg l t b).toNat).1).toNat
    ActsAtomically (.atom64Add p d a off b sem sc) p (some d) a off 8 sem sc false true (.int .add) (pair b) (pair b)
      (fun l t old => (BitVec.ofNat 64 old + readPair l t b).toNat) ∧
    ActsAtomically (.atom64Exch p d a off b sem sc) p (some d) a off 8 sem sc true true .exch (pair b) (pair b)
      (fun l t _ => (readPair l t b).toNat) ∧
    ActsAtomically (.atom64MaxN p d a off b sem sc) p (some d) a off 8 sem sc false false (.int .maxN) (pair b) (pair b)
      (fun l t old => (if (BitVec.ofNat 64 old).toNat < (readPair l t b).toNat then readPair l t b else BitVec.ofNat 64 old).toNat) ∧
    ActsAtomically (.atom64Cas p d a off b c sem sc) p (some d) a off 8 sem sc true true .cas (pair b) (pair c)
      (fun l t old => if old = (readPair l t b).toNat then (readPair l t c).toNat else old) ∧
    ActsAtomically (.atomCas128 p d a off b c sem sc) p (some d) a off 16 sem sc true true .cas (quad b) (quad c)
      (fun l t old => if old = (readQuad l t b).toNat then (readQuad l t c).toNat else old) ∧
    ActsAtomically (.atomF32Add p d a off b rm sem sc) p (some d) a off 4 sem sc true false (.addF rm) (reg b) (reg b) sum32 ∧
    ActsAtomically (.redF32Add p a off b rm sem sc) p none a off 4 sem sc true false (.addF rm) (reg b) (reg b) sum32 ∧
    ActsAtomically (.atomF64Add p d a off b rm sem sc) p (some d) a off 8 sem sc true false (.addF rm) (pair b) (pair b)
      (fun l t old => (BitVec.ofNat 64 (fAdd f64 rm false old (readPair l t b).toNat).1).toNat) ∧
    ActsAtomically (.atomBf16x2Add p d a off b rm sem sc) p (some d) a off 4 sem sc true false (.addHalves rm) (reg b) (reg b)
      (fun l t old =>
        (BitVec.ofNat 16 (fAdd bf16 rm false (half (BitVec.ofNat 32 old) 1) (half (readReg l t b) 1)).1 ++
          BitVec.ofNat 16 (fAdd bf16 rm false (half (BitVec.ofNat 32 old) 0) (half (readReg l t b) 0)).1 : Word).toNat)

/-- R180–R182, R186, R287, R288: FENCE is a release then an acquire of its scope in each active lane, at .th nothing, and a lane
keeps the widest scope of its releases at quad scope or wider (log 81: the model's reading of R288); PREF does nothing, CCTL writes back or also drops the lines it names,
ADDRQ answers without an access. (What ADDRQ answers for an undeclared alias or a protected walk is the model's choice, log
82; no clause rests on it.) -/
def Obligations.FencesAndCacheControl : Prop :=
  ∀ (p : Pre) (d a : Reg) (off : BitVec 24) (h : Hint) (sem : Sem) (sc : Scope) (op : CctlOp) (lvl2 : Bool) (v : DWord),
    let rel : Bool := sem == .rel || sem == .ar
    Performs (.fence p sem sc) p (fun s _ _ ts => ∀ t ∈ ts, Performed s t)
      (fun s b l ts => if sc = .th then s else ts.foldl (fun s t =>
        let s := if rel = true then releaseNow s t.uid b.core l.vf sc else s
        if isAcquire sem = true then acquire s b.core l.vf sc else s) s)
      (fun _ _ _ t y =>
        Idle (if rel = true then { t with relScope := widerFence t.relScope sc } else t) y) ∧
    Performs (.pref p a off h) p (fun _ _ _ _ => True) (fun s _ _ _ => s) (fun _ _ _ t y => Idle t y) ∧
    Performs1 (.cctl p op lvl2 a off) p (fun s _ _ t => Performed s t)
      (fun s b l t =>
        let va := at_ a off l t
        let line := inLine (lineBase (if lvl2 then coreRow b.core else b.core) l.vf (remap s l.vf va))
        let names := canonicalVa va = true ∧ inVaultRange va = false
        match op, lvl2 with
        | .wb, false => if names then wbL1 s line else s
        | .wb, true => if names then wbL2 s line else s
        | .inv, false => if names then flushL1 s line else s
        | .inv, true => if names then flushL2 s line else s
        | .wball, false => wbL1 s fun k => keyUnit k == b.core
        | .wball, true => wbL2 (wbL1 s fun k => keyUnit k == b.core) fun k => keyUnit k == coreRow b.core
        | .invall, false => flushL1 s fun k => keyUnit k == b.core
        | .invall, true => flushL2 (flushL1 s fun k => keyUnit k == b.core) fun k => keyUnit k == coreRow b.core)
      (fun _ _ _ t y => Idle t y) ∧
    Performs1 (.addrq p d a off) p (fun s _ l t => addrq s l.vf (at_ a off l t) = (v, s)) (fun s _ _ _ => s)
      (fun _ _ _ t y => Receives [(d.toNat, v.setWidth 32), (d.toNat + 1, (v >>> 32).setWidth 32)] [] t y) ∧
    (∀ s vf va, canonicalVa va = false → addrq s vf va = (0, s)) ∧
    (∀ s vf va, inAperture va = true →
      addrq s vf va = (BitVec.ofNat 64 ((va.toNat - vaultBase) / 2 ^ 23 * 2 ^ 16 + 2 * 2 ^ 8 + 7), s))

/-- R66, R67, R111, R129, R178: traps taken by every lane of a course: a non-canonical or misaligned address, a bad branch
target, a marked atomic in a deterministic launch. -/
def Obligations.LaneTraps : Prop :=
  ∀ (p : Pre) (d a b : Reg) (off : BitVec 24) (h : Hint) (sem : Sem) (sc : Scope),
    TrapsAll (.ld32 p d a off h) p 0x06 (fun _ _ l t => canonicalVa (at_ a off l t) = false) (at_ a off) ∧
    TrapsAll (.ld32 p d a off h) p 0x05 (fun _ _ l t => canonicalVa (at_ a off l t) = true ∧ (at_ a off l t).toNat % 4 ≠ 0) (at_ a off) ∧
    TrapsAll (.st64 p a off b h) p 0x06 (fun _ _ l t => canonicalVa (at_ a off l t) = false) (at_ a off) ∧
    TrapsAll (.st64 p a off b h) p 0x05 (fun _ _ l t => canonicalVa (at_ a off l t) = true ∧ (at_ a off l t).toNat % 8 ≠ 0) (at_ a off) ∧
    TrapsAll (.atom32Add p d a off b sem sc) p 0x05
      (fun _ _ l t => canonicalVa (at_ a off l t) = true ∧ (at_ a off l t).toNat % 4 ≠ 0) (at_ a off) ∧
    TrapsAll (.atom32Exch p d a off b sem sc) p 0x30
      (fun _ _ l t => canonicalVa (at_ a off l t) = true ∧ (at_ a off l t).toNat % 4 = 0 ∧ l.rcd.det = true) (fun _ _ => 0) ∧
    TrapsAll (.brx p a) p 0x03
      (fun _ _ l t => (readPair l t a).toNat % 8 ≠ 0 ∨ canonicalVa (readPair l t a) = false ∨ readPair l t a = 0) (fun _ _ => 0)

/-! ### Control instructions (05), divergence (14) -/

/-- R111, R113–R115: branches, calls and returns that every lane takes to one target, and those that no lane takes; BRT reads
its target from the table, here in the vault, and an index outside the table falls through. A thread issues nothing more
before its table word has landed. -/
def Obligations.Branches : Prop :=
  ∀ (p : Pre) (a b : Reg) (off n : BitVec 24) (h : Hint),
    let direct (_ : Launch) (t : Thread) : DWord := t.hdr + off.signExtend 64 * 8
    let entry (l : Launch) (t : Thread) : DWord := readPair l t a + 8 * (readReg l t b).setWidth 64
    JumpsTo (.bra p off) p false false direct (fun _ _ _ _ => True) ∧
    JumpsTo (.brx p a) p false true (fun l t => readPair l t a) (fun _ _ _ _ => True) ∧
    JumpsTo (.call p off) p true false direct (fun _ _ _ _ => True) ∧
    JumpsTo (.callx p a) p true true (fun l t => readPair l t a) (fun _ _ _ _ => True) ∧
    JumpsTo (.ret p) p false true (fun _ t => t.link) (fun _ _ _ _ => True) ∧
    (0 < n.toInt → ∀ (s : State) (us : List Nat) (t0 : Thread) (k : Block) (l : Launch) (T w : DWord),
      Ready (encode (.brt p a b n h)) p s us t0 k l → endsBlock t0 → (∀ t ∈ course s us, guardHolds p.g t = true ∧ Performed s t ∧
        (readReg l t b).toNat < n.toNat ∧ canonicalVa (entry l t) = true ∧ (entry l t).toNat % 8 = 0 ∧
        inAperture (entry l t) = true ∧ inWindow k (entry l t) 8 = true ∧
        memWord s (vaultSpace + ((entry l t).toNat - vaultBase)) = T) →
      T.toNat % 8 = 0 → canonicalVa T = true → T ≠ 0 → Enterable s k l T w →
      ∃ z, exec (.brt p a b n h) s = .next z ∧ Ran s z us ∧
        ∀ t ∈ course s us, ∃ y id, z.thread? t.uid = some y ∧ (y.hdr = T ∧ y.hword = w ∧ y.idx = 0) ∧
          y.readyAt = s.clock + max p.stall.toNat 1 ∧ laneRest y = laneRest t ∧ y.fflags = t.fflags ∧
          bare y.pend = bare (t.pend ++ [{ id := id, due := .any, load := true, long := true, all := true }])) ∧
    PassesUntaken (.bra p off) p ∧ PassesUntaken (.brx p a) p ∧ PassesUntaken (.call p off) p ∧ PassesUntaken (.callx p a) p ∧
    PassesUntaken (.ret p) p ∧ (0 < n.toInt → PassesUntaken (.brt p a b n h) p) ∧
    (0 < n.toInt → ∀ (s : State) (us : List Nat) (t0 : Thread) (k : Block) (l : Launch) (w : DWord),
      Ready (encode (.brt p a b n h)) p s us t0 k l → GoesOn (encode (.brt p a b n h)) s t0 k l w →
      (∀ t ∈ course s us, n.toNat ≤ (readReg l t b).toNat) →
      ∃ z, exec (.brt p a b n h) s = .next z ∧ Ran s z us ∧
        ∀ t ∈ course s us, ∃ y, z.thread? t.uid = some y ∧ Passed s p t0 w y ∧ Idle t y)

/-- R318: of the groups into which a branch divides a course, a largest one keeps the slot. Among the largest one that does
not fall through comes first, then the lowest header address. -/
def Obligations.DivergenceKeepsLargest : Prop :=
  ∀ (dst : Nat → DWord) (us : List Nat) (Hn : DWord),
    us.Nodup → us ≠ [] →
    ∃ g, bestGroup Hn (groupBy dst us) = some g ∧ g.2 ≠ [] ∧ (∀ u, u ∈ g.2 ↔ u ∈ us ∧ dst u = g.1) ∧
      ∀ x ∈ groupBy dst us, (∀ u, u ∈ x.2 ↔ u ∈ us ∧ dst u = x.1) ∧ x.2.length ≤ g.2.length ∧
        (x.2.length = g.2.length → x.1 ≠ g.1 → x.1 ≠ Hn → g.1 ≠ Hn ∧ g.1.toNat < x.1.toNat)

/-- R112, R124, R127, R131: NOP; BKPT without the debug enable; WAITC at or below its bound, and above it; SLEEP; YIELD, whose
slot leaves the active set. R30: a counted command whose counter stands at 63 in an active lane does not issue. -/
def Obligations.Waiting : Prop :=
  (∀ (i : Instr) (k : EngClass) (s : State) (us : List Nat) (t : Thread), cmdClass (encode i).op.toNat = some k →
    s.cur = .course us → t ∈ us.filterMap s.thread? → guardHolds (encode i).g t = true → 63 ≤ ecnt t k →
    exec i s = .next { s with cur := .none }) ∧
  ∀ (p : Pre) (cls : EngClass) (n : BitVec 6) (k : BitVec 24) (sc : Scope),
    Performs (.nop p) p (fun _ _ _ _ => True) (fun s _ _ _ => s) (fun _ _ _ t y => Idle t y) ∧
    Performs (.bkpt p) p (fun s _ l _ => fnField s l.vf 1 1 = 0) (fun s _ _ _ => s) (fun _ _ _ t y => Idle t y) ∧
    Performs (.waitc p cls n) p (fun s _ l ts => roundShut s l.lid = false ∧ ∀ t ∈ ts, t.acq = []) (fun s _ _ _ => s)
      (fun _ _ _ t y => if ecnt t cls ≤ n.toNat then Idle t y else Idle { t with wait := .counter cls n.toNat } y) ∧
    Performs1 (.waitc p cls n) p (fun _ _ _ t => ecnt t cls ≤ n.toNat ∧ cls ∈ t.acq)
      (fun s b l _ => acquire s b.core l.vf (if cls = .mx then .qd else .sy))
      (fun _ _ _ t y => Idle { t with acq := t.acq.filter (· != cls) } y) ∧
    (0 ≤ k.toInt → Performs (.sleep p k) p (fun s _ l _ => roundShut s l.lid = false) (fun s _ _ _ => s)
      (fun s _ _ t y => if k = 0 then Idle t y else Idle { t with wait := .sleep (s.clock + k.toNat) } y)) ∧
    Performs (.yield p sc) p (fun _ _ _ _ => True) (fun s b l ts => if ts = [] then s else acquire s b.core l.vf sc)
      (fun _ _ _ t y => Idle t y) ∧
    (∀ (s z : State) (us : List Nat) (t0 : Thread) (b : Block) (l : Launch),
      Ready (encode (.yield p sc)) p s us t0 b l → active s us p ≠ [] → exec (.yield p sc) s = .next z →
      ∀ x ∈ z.slots, (∃ t ∈ course s us, t.uid ∈ x.uids) → (∀ t ∈ course s us, ∃ y, z.thread? t.uid = some y ∧ y.life = .inSlot) →
        x.leave = true)

/-- R131, Table 2-1: TRAP with a code of 0x80 and above, BKPT under the debug enable and UDF each take their trap. -/
def Obligations.TrapInstructions : Prop :=
  ∀ (p : Pre) (code : BitVec 8) (hi : BitVec 55) (lo : BitVec 64),
    (0x80 ≤ code.toNat → TrapsAll (.trap p code) p code (fun _ _ _ _ => True) (fun _ _ => 0)) ∧
    TrapsAll (.bkpt p) p 0x07 (fun s _ l _ => fnField s l.vf 1 1 = 1) (fun _ _ => 0) ∧
    (0x80 ≤ code.toNat → PassesUntaken (.trap p code) p) ∧
    ∀ (s : State) (us : List Nat) (t0 : Thread), s.cur = .course us → s.hole = none → us.Nodup →
      (us.filterMap s.thread?).head? = some t0 → (∀ t ∈ us.filterMap s.thread?, t.hdr = t0.hdr ∧ t.idx = t0.idx ∧ t.life = .inSlot) →
      ∃ z, exec (.udf hi lo) s = .next z ∧ z.cur = .none ∧ z.mem = s.mem ∧
        ∀ t ∈ us.filterMap s.thread?, ∃ y, z.thread? t.uid = some y ∧ Trapped 0x01 0 t y

/-- R40, R126, R125, R287: BAR.ARR gives the phase; BAR.WAIT and BAR.SYNC wait while the phase is the old one. An arrival
releases at core scope, and a wait that ends acquires at it. A block's only thread completes a barrier that expects it: the
phase flips, its arrivals clear, and BAR.SYNC does not wait. -/
def Obligations.Barriers : Prop :=
  ∀ (p : Pre) (d a : Reg) (n : BitVec 4) (c : BitVec 11),
    let free (s : State) (b : Block) : Prop :=
      (getBarrier b n.toNat).arrived.length + (getBarrier b n.toNat).seq + 1 ≠
        barrierNeed s b.bid { getBarrier b n.toNat with expected := c.toNat }
    let agrees (b : Block) (t : Thread) : Prop :=
      t.uid ∉ (getBarrier b n.toNat).arrived ∧
      ((getBarrier b n.toNat).arrived = [] ∨ (getBarrier b n.toNat).expected = c.toNat)
    let joined (s : State) (b : Block) (l : Launch) (t : Thread) : State :=
      setBarrier (releaseNow s t.uid b.core l.vf .cr) b.bid n.toNat
        { getBarrier b n.toNat with expected := c.toNat, arrived := (getBarrier b n.toNat).arrived ++ [t.uid] }
    let alone (s : State) (b : Block) (t : Thread) : Prop :=
      (getBarrier b n.toNat).arrived = [] ∧ (getBarrier b n.toNat).seq = 0 ∧ b.stream = none ∧
      (∀ x ∈ s.threads, x.bid = b.bid → x.uid = t.uid) ∧ (∀ x ∈ s.slots, t.uid ∈ x.uids → ∀ v ∈ x.uids, v = t.uid) ∧ Performed s t
    let completed (s : State) (b : Block) (l : Launch) (t : Thread) : State :=
      acquire (setBarrier (releaseNow s t.uid b.core l.vf .cr) b.bid n.toNat
        { getBarrier b n.toNat with expected := 1, arrived := [], phase := !(getBarrier b n.toNat).phase }) b.core l.vf .cr
    (c.toNat ≤ 1024 → Performs1 (.barArr p d n c) p (fun s b _ t => agrees b t ∧ free s b ∧ Performed s t) joined
      (fun _ b _ t y => Receives [(d.toNat, if (getBarrier b n.toNat).phase then 1 else 0)] [] t y)) ∧
    (c.toNat = 1 → Performs1 (.barArr p d n c) p (fun s b _ t => alone s b t) completed
      (fun _ b _ t y => Receives [(d.toNat, if (getBarrier b n.toNat).phase then 1 else 0)] [] t y)) ∧
    (c.toNat = 1 → Performs1 (.barSync p n c) p (fun s b _ t => alone s b t) completed (fun _ _ _ t y => Idle t y)) ∧
    Performs (.barWait p a n) p (fun s _ l _ => roundShut s l.lid = false)
      (fun s b l ts => ts.foldl (fun s t => if (getBarrier b n.toNat).phase = (readReg l t a).getLsbD 0 then s else acquire s b.core l.vf .cr) s)
      (fun _ b l t y => if (getBarrier b n.toNat).phase = (readReg l t a).getLsbD 0
        then Idle { t with wait := .bar n.toNat (getBarrier b n.toNat).phase } y else Idle t y) ∧
    (c.toNat ≤ 1024 → ∀ (s : State) (us : List Nat) (t0 t : Thread) (b : Block) (l : Launch) (w : DWord),
      Ready (encode (.barSync p n c)) p s us t0 b l → GoesOn (encode (.barSync p n c)) s t0 b l w → active s us p = [t] →
      agrees b t → free s b → Performed s t → roundShut s l.lid = false →
      ∃ z y, exec (.barSync p n c) s = .next z ∧ Left s (joined s b l t) z us ∧ z.thread? t.uid = some y ∧
        y.wait = .barSync n.toNat (getBarrier b n.toNat).phase ∧ (y.hdr, y.idx) = (t0.hdr, t0.idx + 1) ∧
        laneRest y = laneRest { t with wait := y.wait } ∧ bare y.pend = bare t.pend ∧ y.fflags = t.fflags)

/-- R16, R116: the active lanes of EXIT have exited and stand in no slot; the others go on. -/
def Obligations.Exit : Prop :=
  ∀ (p : Pre) (s : State) (us : List Nat) (t0 : Thread) (b : Block) (l : Launch) (w : DWord),
    Ready (encode (.exit p)) p s us t0 b l → GoesOn (encode (.exit p)) s t0 b l w → entrantOf s l.lid = none →
    (∀ x ∈ s.blocks, x.bid = b.bid → x.xinsts = []) → (∀ x ∈ b.barriers, x.arrived = [] ∧ x.seq = 0) →
    ∃ z, exec (.exit p) s = .next z ∧ Left s s z us ∧
      ∀ t ∈ course s us, ∃ y, z.thread? t.uid = some y ∧
        (if guardHolds p.g t then
          y.life = .exited ∧ y.wait = .none ∧ y.ops = t.ops ∧ y.regs = t.regs ∧ y.preds = t.preds ∧ y.tid = t.tid ∧
          ∀ x ∈ z.slots, t.uid ∉ x.uids
         else Passed s p t0 w y ∧ Idle t y)

/-- R117, R14, R118: SPAWN's child takes the launch's next sr.tid, starts at the entry header with v0 to v7 from B on and joins
the pack of its entry; the parent's stores are released at device scope. -/
def Obligations.Spawn : Prop :=
  ∀ (p : Pre) (r : Reg) (off : BitVec 24) (s : State) (us : List Nat) (t0 t : Thread) (b : Block) (l : Launch) (w : DWord),
    let entry := t0.hdr + off.signExtend 64 * 8
    let a := releaseNow s t.uid b.core l.vf .dv
    Ready (encode (.spawn p r off)) p s us t0 b l → GoesOn (encode (.spawn p r off)) s t0 b l w → active s us p = [t] →
    Performed s t → a.hole = none → b.lid = l.lid → b.spawns = [] → b.packs = [] → l.nextTid ≠ noThread →
    childFits s b l.rcd.budget = true → s.thread? s.nextId = none → s.nextId ∉ us →
    ∃ z c, exec (.spawn p r off) s = .next z ∧ z.cur = .none ∧ z.mem = a.mem ∧ z.thread? s.nextId = some c ∧
      c.tid = l.nextTid ∧ c.bid = b.bid ∧ c.lid = l.lid ∧ c.life = .parked ∧ c.entering = true ∧ c.spawned = true ∧
      c.hdr = entry ∧ c.pallet.pc = entry ∧ c.preds = 0 ∧ (∀ i, i < 8 → c.regs.get i = readReg l t (r + BitVec.ofNat 8 i)) ∧
      (∀ i, 8 ≤ i → c.regs.get i = 0) ∧
      (∃ k, z.launch? l.lid = some k ∧ k.nextTid = l.nextTid + 1) ∧
      (∃ k, z.block? b.bid = some k ∧ k.spawns = [] ∧ k.packs = [⟨entry, s.clock, [s.nextId]⟩]) ∧
      (∀ v, v ∉ us → v ≠ s.nextId → z.thread? v = s.thread? v) ∧
      ∀ x ∈ course s us, ∃ y, z.thread? x.uid = some y ∧ Passed s p t0 w y ∧ Idle x y

/-! ### Cross-lane instructions (06) -/

/-- R158, R159, R163–R168, R127: a whole gang converges and each lane gets its result of the instance. -/
def Obligations.CrossLane : Prop :=
  ∀ (p : Pre) (d a : Reg) (b : ShSrc) (lg : BitVec 3) (cw : BitVec 2) (pd pa : BitVec 3) (na : Bool) (m : VoteMode) (op : RedOp)
    (fop : FRedOp) (exc ftz w64 : Bool) (rm : Rm),
    let lane (t : Thread) (v : DWord) (w : Word) (q : Bool) : Arrival := { uid := t.uid, lane := t.lane, active := true, a := v, b := w, pa := q }
    let low (l : Launch) (t : Thread) : DWord := (readReg l t a).setWidth 64
    let amount (l : Launch) (t : Thread) : Word := match b with | .reg r => readReg l t r | .imm v => v.setWidth 32
    Converges (.shflIdx p d a b lg cw pd) p (.shfl 0 (2 ^ lg.toNat)) d.toNat pd.toNat (fun l t => lane t (low l t) (amount l t) false) ∧
    Converges (.shflUp p d a b lg cw pd) p (.shfl 1 (2 ^ lg.toNat)) d.toNat pd.toNat (fun l t => lane t (low l t) (amount l t) false) ∧
    Converges (.shflDown p d a b lg cw pd) p (.shfl 2 (2 ^ lg.toNat)) d.toNat pd.toNat (fun l t => lane t (low l t) (amount l t) false) ∧
    Converges (.shflXor p d a b lg cw pd) p (.shfl 3 (2 ^ lg.toNat)) d.toNat pd.toNat (fun l t => lane t (low l t) (amount l t) false) ∧
    Converges (.vote p m d pd pa na cw) p (.vote m) d.toNat pd.toNat (fun _ t => lane t 0 0 (readPred t pa.toNat ^^ na)) ∧
    Converges (.reduxI p d a op cw) p (.reduxI op) d.toNat 7 (fun l t => lane t (low l t) 0 false) ∧
    Converges (.reduxF32 p d a fop rm ftz cw) p (.reduxF fop rm ftz) d.toNat 7 (fun l t => lane t (low l t) 0 false) ∧
    Converges (.scanI p d a op exc cw) p (.scanI op exc) d.toNat 7 (fun l t => lane t (low l t) 0 false) ∧
    Converges (.scanF32 p d a fop exc rm ftz cw) p (.scanF fop exc rm ftz) d.toNat 7 (fun l t => lane t (low l t) 0 false) ∧
    Converges (.matchAny p d a w64 cw pd) p .matchAny d.toNat pd.toNat
      (fun l t => lane t (if w64 then readPair l t a else low l t) 0 false) ∧
    Converges (.mxqE4m3 p d a cw) p (.mxq false) d.toNat 7 (fun l t => lane t (low l t) 0 false) ∧
    Converges (.mxqE2m1 p d a cw) p (.mxq true) d.toNat 7 (fun l t => lane t (low l t) 0 false) ∧
    Converges (.gsync p) p .gsync 0 7 (fun _ t => lane t 0 0 false)

/-- R164–R168: what the instances compute: SHFL's source lane, VOTE, REDUX and SCAN in their integer and f32 forms, each with the
identity of Table 6-9 for a lane that does not contribute, and MATCH. -/
def Obligations.CrossLaneValues : Prop :=
  ∀ (xs : List Arrival) (a : Arrival), a ∈ xs → a.active = true → (∀ x ∈ xs, x.lane < 32) → (xs.map Arrival.lane).Nodup →
    let act := xs.filter Arrival.active
    let takes (r : XRes) (src : Option Nat) : Prop :=
      (∀ x ∈ act, src = some x.lane → r.reg = some (x.a.setWidth 32) ∧ r.pred = some true) ∧
      ((∀ x ∈ act, src ≠ some x.lane) → r.reg = some (a.a.setWidth 32) ∧ r.pred = some false)
    let ident (op : RedOp) : Word :=
      match op with
      | .and => 0xFFFFFFFF | .minN => 0xFFFFFFFF | .minS => 0x7FFFFFFF | .maxS => 0x80000000
      | .add => 0 | .or => 0 | .xor => 0 | .maxN => 0
    let comb (op : RedOp) (x y : Word) : Word :=
      match op with
      | .add => x + y | .and => x &&& y | .or => x ||| y | .xor => x ^^^ y
      | .minS => if x.slt y then x else y | .maxS => if x.slt y then y else x
      | .minN => if x.ult y then x else y | .maxN => if x.ult y then y else x
    let folded (op : RedOp) (ys : List Arrival) : Word := (ys.map fun x => x.a.setWidth 32).foldl (comb op) (ident op)
    let fident (op : FRedOp) : Word := match op with | .add => 0 | .min => 0x7F800000 | .max => 0xFF800000
    let fcomb (op : FRedOp) (rm : Rm) (z : Bool) (x y : Node) : Node :=
      let r := match op with
        | .add => fAdd f32 rm z x.1.toNat y.1.toNat
        | .min => fMinMax f32 false z x.1.toNat y.1.toNat
        | .max => fMinMax f32 true z x.1.toNat y.1.toNat
      (BitVec.ofNat 32 r.1, x.2 ||| y.2 ||| r.2)
    let leaf (op : FRedOp) (z : Bool) (j : Nat) : Node :=
      (((act.find? fun x => x.lane == j).map fun x => BitVec.ofNat 32 (f32.flushIn z (x.a.setWidth 32).toNat)).getD (fident op), 0)
    let gives (r : XRes) (n : Node) : Prop := r.reg = some n.1 ∧ r.flags = n.2
    (∀ k ≤ 5,
      let n := 2 ^ k
      let base := a.lane / n * n
      takes (xCompute (.shfl 0 n) xs none a) (some (base + a.b.toNat % n)) ∧
      takes (xCompute (.shfl 1 n) xs none a) (if a.b.toNat ≤ a.lane - base then some (a.lane - a.b.toNat) else none) ∧
      takes (xCompute (.shfl 2 n) xs none a) (if a.lane + a.b.toNat < base + n then some (a.lane + a.b.toNat) else none) ∧
      takes (xCompute (.shfl 3 n) xs none a) (some (a.lane ^^^ (a.b.toNat % n)))) ∧
    (∃ v : Word, (xCompute (.vote .ballot) xs none a).reg = some v ∧
      ∀ j < 32, v.getLsbD j = act.any fun x => x.lane == j && x.pa) ∧
    (xCompute (.vote .all) xs none a).pred = some (act.all Arrival.pa) ∧
    (xCompute (.vote .any) xs none a).pred = some (act.any Arrival.pa) ∧
    (xCompute (.vote .eq) xs none a).pred = some (act.all Arrival.pa || !act.any Arrival.pa) ∧
    (∀ op : RedOp, (xCompute (.reduxI op) xs none a).reg = some (folded op act) ∧
      (xCompute (.scanI op false) xs none a).reg = some (folded op (act.filter fun x => decide (x.lane ≤ a.lane))) ∧
      (xCompute (.scanI op true) xs none a).reg = some (folded op (act.filter fun x => decide (x.lane < a.lane)))) ∧
    (∀ (op : FRedOp) (rm : Rm) (z : Bool),
      gives (xCompute (.reduxF op rm z) xs none a) (treeNode (fcomb op rm z) (leaf op z) 5 0) ∧
      gives (xCompute (.scanF op false rm z) xs none a) (prefixNode (fcomb op rm z) (leaf op z) a.lane) ∧
      gives (xCompute (.scanF op true rm z) xs none a)
        (if a.lane = 0 then (fident op, 0) else prefixNode (fcomb op rm z) (leaf op z) (a.lane - 1))) ∧
    (∃ v : Word, (xCompute .matchAny xs none a).reg = some v ∧
      (∀ j < 32, v.getLsbD j = act.any fun x => x.lane == j && x.a == a.a) ∧
      (xCompute .matchAny xs none a).pred = some (act.all fun x => x.a == a.a))

/-! ### System instructions (07) -/

/-- R187, R27, Table 1-4: SREG reads a special register; SSET writes one, and a nonzero bit in a field marked zero traps. -/
def Obligations.SpecialRegisters : Prop :=
  ∀ (p : Pre) (d a : Reg) (w64 : Bool) (idx : BitVec 24),
    let value (l : Launch) (t : Thread) : DWord := if sregWidth idx.toNat = 64 then readPair l t a else (readReg l t a).setWidth 64
    Performs (.sreg p d w64 idx) p (fun _ _ _ _ => True) (fun s _ _ _ => s)
      (fun _ b l t y =>
        let v := sregValue b l t idx.toNat
        Receives (if w64 = true ∨ sregWidth idx.toNat = 64 then [(d.toNat, v.setWidth 32), (d.toNat + 1, (v >>> 32).setWidth 32)]
                  else [(d.toNat, v.setWidth 32)]) [] t y) ∧
    Performs1 (.sset p idx a) p (fun _ _ l t => ssetBad idx.toNat (value l t) = false)
      (fun s _ l t => if idx.toNat = 0x18 then updBlock s t.bid fun b => { b with estat := b.estat &&& ~~~((value l t).setWidth 3) } else s)
      (fun _ _ l t y =>
        match idx.toNat with
        | 0x10 => Idle { t with stack := value l t } y
        | 0x11 => Idle { t with link := value l t } y
        | 0x12 => Idle { t with rngc := value l t } y
        | 0x13 => laneRest y = laneRest t ∧ bare y.pend = bare t.pend ∧ y.fflags = (value l t).setWidth 6
        | 0x14 => Idle { t with part := (value l t).getLsbD 0 } y
        | _ => Idle t y) ∧
    TrapsAll (.sset p idx a) p 0x02 (fun _ _ l t =>
      (idx.toNat = 0x13 ∧ 63 < (value l t).toNat) ∨ (idx.toNat = 0x14 ∧ 1 < (value l t).toNat) ∨
      (idx.toNat = 0x18 ∧ 7 < (value l t).toNat)) (fun _ _ => 0)

/-- R188–R190: RNG's Philox words and its counter; CLOCK, which never runs back; PMCFG and PMRD. (That PMCFG has an effect only
while no replay's pass runs is the model's choice, log 85; that a bad word traps also in a launch of a replay, where a good one
has no effect, is its reading, log 41.) -/
def Obligations.RandomTimeCounters : Prop :=
  ∀ (p : Pre) (d a : Reg) (w : BitVec 2) (u01 : Bool) (i : BitVec 2),
    (w ≠ 3 → Performs (.rng p d w u01) p (fun _ _ _ _ => True) (fun s _ _ _ => s)
      (fun _ _ l t y =>
        let x := philox [(t.rngc.setWidth 32).toNat, ((t.rngc >>> 32).setWidth 32).toNat, t.tid, 0] l.rcd.seed
        Receives ((List.range (2 ^ w.toNat)).map fun k =>
          (d.toNat + k, if u01 then unitFloat (x.getD k 0) else BitVec.ofNat 32 (x.getD k 0))) [] { t with rngc := t.rngc + 1 } y)) ∧
    Performs (.clock p d) p (fun _ _ _ _ => True) (fun s _ _ ts => { s with free := s.free + ts.length })
      (fun s _ _ t y => ∃ v, t.lastClock ≤ v ∧ s.clock ≤ v ∧ v ≤ max t.lastClock (s.clock + 32) ∧
        Receives [(d.toNat, BitVec.ofNat 32 v), (d.toNat + 1, BitVec.ofNat 32 (v / 2 ^ 32))] [] { t with lastClock := v } y) ∧
    Performs (.pmrd p d i) p (fun _ _ _ _ => True) (fun s _ _ _ => s)
      (fun s b _ t y =>
        let v := ((findPmc s b.core i.toNat).map Pmc.count).getD 0
        Receives [(d.toNat, v.setWidth 32), (d.toNat + 1, (v >>> 32).setWidth 32)] [] t y) ∧
    (∀ (s : State) (us : List Nat) (t0 t : Thread) (b : Block) (l : Launch) (w : DWord),
      Ready (encode (.pmcfg p i a)) p s us t0 b l → GoesOn (encode (.pmcfg p i a)) s t0 b l w → active s us p = [t] →
      isReplay l.parent = false → passRuns s = false → (readReg l t a).toNat % 256 ≤ 0x11 → (readReg l t a).toNat < 512 →
      ∃ z x, exec (.pmcfg p i a) s = .next z ∧ Ran s z us ∧ findPmc z b.core i.toNat = some x ∧
        x.event = (readReg l t a).toNat % 256 ∧ x.on = (readReg l t a).getLsbD 8 ∧ x.owner = l.lid ∧
        ∀ t ∈ course s us, ∃ y, z.thread? t.uid = some y ∧ Passed s p t0 w y ∧ Idle t y) ∧
    TrapsAll (.pmcfg p i a) p 0x02 (fun _ _ l t => 0x11 < (readReg l t a).toNat % 256 ∨ 512 ≤ (readReg l t a).toNat) (fun _ _ => 0)

/-- R193, R194: SVC posts its record after a release at system scope, and without a ring posts nothing; ERRQ stores the oldest
record, which leaves the queue, and writes 1, or 0 when there is none. (That its store after a FENCE.rel is performed at the
fence's point at least is the model's reading of R288, log 81.) -/
def Obligations.ServiceAndErrorQueue : Prop :=
  ∀ (p : Pre) (d a : Reg) (off : BitVec 24) (n : BitVec 16) (pl : Place) (bs : List Byte),
    Performs1 (.svc p a n) p (fun s _ _ t => Performed s t)
      (fun s b l t => postService (releaseNow s t.uid b.core l.vf .sy) l.vf
        (bytesOf 8 l.rcd.tag.toNat ++ bytesOf 4 t.tid ++ bytesOf 4 n.toNat ++ bytesFrom a 4 l t))
      (fun _ _ _ t y => Idle t y) ∧
    (∀ s vf r, fnField s vf 256 64 = 0 → postService s vf r = s) ∧
    Performs1 (.errq p d a off) p
      (fun s _ l t => canonicalVa (at_ a off l t) = true ∧ (at_ a off l t).toNat % 64 = 0 ∧
        ∀ q ∈ s.errqs, q.vf = l.vf → q.recs = [])
      (fun s _ _ _ => s) (fun _ _ _ t y => Receives [(d.toNat, 0)] [] t y) ∧
    Performs1 (.errq p d a off) p
      (fun s b l t => LandsAt .store (at_ a off) 64 64 .dflt pl s b l t ∧ (takeErr s l.vf).1 = some bs)
      (fun s b l t => sent (unfenced pl (takeErr s l.vf).2 l t) (storeAccesses pl (fencedHint t .dflt) none bs s b l t))
      (fun _ _ _ t y => Receives [(d.toNat, 1)] [] t y)

/-- R122, R123, Table 5-3, R191, R302: SPAWNQ admits the record it has read, after a release at device scope, and writes the
status; a record accepted is a held launch, one refused is counted. RPLY with a good descriptor and a good child record starts a replay, which rp counts. -/
def Obligations.LaunchesAndReplays : Prop :=
  ∀ (p : Pre) (d a : Reg) (off : BitVec 24) (q : BitVec 4) (bs : List Byte) (x : List Byte × List Byte) (s2 : State),
    Commands (.spawnq p d a off q) p none (fun k t => readChunks k t.uid 64 (at_ a off k.l t) 2) bs
      (fun k r _ => share r k.vf q.toNat = 0)
      (fun k r t => (admitRecord (releaseNow r t.uid k.core k.vf .dv) k.vf q.toNat bs).2)
      (fun k r t => Receives [(d.toNat, BitVec.ofNat 32 (admitRecord (releaseNow r t.uid k.core k.vf .dv) k.vf q.toNat bs).1)] [] t) ∧
    (∀ s vf n, queueEnabled s vf n = false →
      admitRecord s vf n bs = (0x09, setQField s vf n 160 32 (min (qField s vf n 160 32 + 1) (2 ^ 32 - 1)))) ∧
    (∀ s vf n, queueEnabled s vf n = true → 64 ≤ qField s vf n 192 32 → (admitRecord s vf n bs).1 = 0x08) ∧
    (∀ s vf n, (admitRecord s vf n bs).1 = 0 → ∃ l ∈ (admitRecord s vf n bs).2.launches, l.rcd = LaunchRec.ofBytes bs ∧ l.vf = vf ∧
      l.queue = some n ∧ l.nextTid = l.rcd.nblk * l.rcd.ntid ∧ l.placed = 0) ∧
    Commands (.rply p d a off) p (some .rp) (fun k t => readReplay k (at_ a off k.l) t) x
      (fun k r t => isReplay k.l.parent = false ∧ replayBad x.1 = false ∧
        recordStatus (releaseNow r t.uid k.core k.vf .dv) k.vf (LaunchRec.ofBytes x.2) = (0, s2))
      (fun k r t => { withOp (r.nextId + 1) 0 (.replay r.nextId) s2 k.b k.l t with
        replays := s2.replays ++
          [{ rid := r.nextId, lid := k.l.lid, op := r.nextId + 1, vf := k.vf, events := (x.1.drop 32).map BitVec.toNat,
             passes := natAt x.1 16 1, out := BitVec.ofNat 64 (natAt x.1 8 8), rcd := x.2,
             snapAt := (snapArea s2 k.vf).1, snapPages := (snapArea s2 k.vf).2 }] })
      (fun _ r t => Receives [(d.toNat, 0)] [] (owing (r.nextId + 1) .rp t)) ∧
    Commands (.rply p d a off) p (some .rp) (fun k t => readReplay k (at_ a off k.l) t) x (fun k _ _ => isReplay k.l.parent = true)
      (fun k r t => releaseNow r t.uid k.core k.vf .dv) (fun _ _ => Receives [(d.toNat, 0x11)] [])

/-- R192, R347, R348, R350–R352: the tournament instructions. TOPEN accepted opens a scope that tr counts, TSCORE sets or adds the
entrant's score, TBAR closes its round, TSTAT reads the rank table, TKILL kills an entrant; outside a tournament TSCORE and
TBAR pass. A thread of an entrant stands before its next header until the scope unit has charged it: within the allowance it
enters, else it is saved there and parks, and the round closes. (That accesses are charged in the order of sr.tid at the end of
a clock: the model's choice, log 30; that an answer waits for an earlier write of its register: its reading of R63, log 76.) -/
def Obligations.Tournament : Prop :=
  ∀ (p : Pre) (d a r : Reg) (off : BitVec 24) (add : Bool) (x : ScopeRead) (s2 s3 : State),
    (∀ (s : State) (us : List Nat) (t0 t : Thread) (b : Block) (l : Launch) (w : DWord),
      let va := at_ a off l t
      let id := s.nextId + 1
      let s1 := withOp id s.nextId (.topen va d.toNat) (releaseNow s t.uid b.core l.vf .dv) b l t
      let o : EOp := { id := id, vf := l.vf, lid := t.lid, bid := t.bid, uid := some t.uid, core := b.core, pc := wordAt t,
                       pend := s.nextId, work := .topen va d.toNat }
      let z1 := openScope o va x s3
      Ready (encode (.topen p d a off)) p s us t0 b l → GoesOn (encode (.topen p d a off)) s t0 b l w → active s us p = [t] →
      RoomFor .tr s → Performed s t → NamesNew s t → (∀ o ∈ s.ops, o.id < s.nextId) → l.term = none → isEntrant l.parent = false →
      canonicalVa va = true → va.toNat % 64 = 0 →
      readScope false (some b) l.vf va { s1 with nextId := s.nextId + 2 } = (.ok x, s2) → scopeStatus false l.vf x s2 = (0, s3) →
      z1.hole = none →
      ∃ z y sc, exec (.topen p d a off) s = .next z ∧ Left s z1 z us ∧ z.thread? t.uid = some y ∧ Passed s p t0 w y ∧
        Told none [(d.toNat, 0)] [] (owing id .tr t) y ∧ sc ∈ z.scopes ∧ sc.op = id ∧ sc.vf = l.vf ∧ sc.addr = va ∧
        sc.n = scopeField x.h 248 8 ∧ sc.entrants.length = x.recs.length ∧ sc.round = 1 ∧ sc.ended = false) ∧
    Performs (.tscore p add a) p (fun s _ l _ => entrantOf s l.lid = none) (fun s _ _ _ => s) (fun _ _ _ t y => Idle t y) ∧
    (∀ (s : State) (us : List Nat) (t0 t : Thread) (b : Block) (l : Launch) (w : DWord) (x : Tourn) (e : Entrant),
      let v := readPair l t a
      Ready (encode (.tscore p add a)) p s us t0 b l → endsBlock t0 → course s us = [t] → guardHolds p.g t = true →
      Held s b.core l.vf (following t0) w → (Header.of w).check l.rcd.budget = none → (Header.of w).region = true →
      entrantOf s l.lid = some (x, e) → ¬ (add = true ∧ l.rcd.det = true ∧ 2 ≤ x.rule) → e.isOpen = true →
      ∃ z y x' e', exec (.tscore p add a) s = .next z ∧ z.cur = .none ∧ z.mem = s.mem ∧ z.thread? t.uid = some y ∧ Passed s p t0 w y ∧
        Idle t y ∧ y.gate = some ⟨following t0, w, none⟩ ∧ (∀ u, u ∉ us → z.thread? u = s.thread? u) ∧
        entrantOf z l.lid = some (x', e') ∧ x'.sid = x.sid ∧ e'.idx = e.idx ∧ e'.charge = e.charge ∧
        e'.score = if add = false then v else if x.rule < 2 then e.score + v
                   else BitVec.ofNat 64 (fAdd f64 .rn false e.score.toNat v.toNat).1) ∧
    (∀ (s : State) (us : List Nat) (t0 : Thread) (b : Block) (l : Launch) (w : DWord) (x : Tourn) (e : Entrant),
      Ready (encode (.tscore p true a)) p s us t0 b l → endsBlock t0 → Held s b.core l.vf (following t0) w → (Header.of w).region = true →
      (Header.of w).check l.rcd.budget = none → (∀ t ∈ course s us, guardHolds p.g t = true) → entrantOf s l.lid = some (x, e) → l.rcd.det = true → 2 ≤ x.rule →
      ∃ z, exec (.tscore p true a) s = .next z ∧ AllTrapped s z us t0 l 0x30 (fun _ _ => 0)) ∧
    Performs (.tbar p) p (fun s _ l _ => entrantOf s l.lid = none) (fun s _ _ _ => s) (fun _ _ _ t y => Idle t y) ∧
    (∀ (s : State) (us : List Nat) (t0 t : Thread) (b : Block) (l : Launch) (w : DWord) (x : Tourn) (e : Entrant),
      Ready (encode (.tbar p)) p s us t0 b l → endsBlock t0 → course s us = [t] → guardHolds p.g t = true →
      Held s b.core l.vf (following t0) w → (Header.of w).check l.rcd.budget = none → (Header.of w).region = true →
      entrantOf s l.lid = some (x, e) → e.isOpen = true →
      (∀ y ∈ s.threads, y.lid = l.lid → y.uid = t.uid) → (s.threads.map Thread.uid).Nodup →
      ∃ z y x' e', exec (.tbar p) s = .next z ∧ z.cur = .none ∧ z.mem = s.mem ∧ z.thread? t.uid = some y ∧
        Passed s p t0 w y ∧ Idle t y ∧ y.gate = some ⟨following t0, w, none⟩ ∧ (∀ v, v ∉ us → z.thread? v = s.thread? v) ∧
        entrantOf z l.lid = some (x', e') ∧ x'.sid = x.sid ∧ e'.idx = e.idx ∧ e'.isOpen = false ∧ e'.charge = e.charge) ∧
    (∀ (s : State) (t : Thread) (b : Block) (g : Gate) (x : Tourn) (e : Entrant),
      let h := Header.of g.word
      let z := chargeOne s t.uid
      s.thread? t.uid = some t → t.gate = some g → g.park = none → s.block? t.bid = some b → entrantOf s t.lid = some (x, e) →
      h.merge = false → t.life = .inSlot →
      ∃ y x' e', z.thread? t.uid = some y ∧ z.mem = s.mem ∧ entrantOf z t.lid = some (x', e') ∧ x'.sid = x.sid ∧ e'.idx = e.idx ∧
        e'.score = e.score ∧
        (if e.isOpen = true ∧ e.charge + h.length ≤ x.allowance then
           e'.charge = e.charge + h.length ∧ e'.isOpen = true ∧ y.gate = none ∧ (y.hdr, y.hword, y.idx) = (g.hdr, g.word, 0) ∧
           y.life = .inSlot ∧ (h.region = true → y.pallet.pc = g.hdr)
         else
           e'.charge = e.charge ∧ e'.isOpen = false ∧ y.life = .parked ∧ y.roundHeld = true ∧ y.pallet.pc = g.hdr ∧ y.hdr = g.hdr ∧
           y.idx = 0 ∧ ∀ i, i < h.live → y.regs.get i = (landKnown t).regs.get i)) ∧
    Performs (.tstat p d a off r) p (fun _ _ _ _ => True) (fun s _ _ _ => s)
      (fun s _ l t y =>
        let v := tstatValue s l.vf (at_ a off l t) (readReg l t r).toNat
        Receives [(d.toNat, v.setWidth 32), (d.toNat + 1, (v >>> 32).setWidth 32)] [] t y) ∧
    Performs1 (.tkill p a off r) p (fun s _ l t => scopeAt s l.vf (at_ a off l t) = none) (fun s _ _ _ => s)
      (fun _ _ _ t y => Idle t y) ∧
    (∀ (s : State) (us : List Nat) (t0 t : Thread) (b : Block) (l : Launch) (w : DWord) (x : Tourn) (e : Entrant),
      let z1 := tkill s l.vf (at_ a off l t) e.idx
      Ready (encode (.tkill p a off r)) p s us t0 b l → GoesOn (encode (.tkill p a off r)) s t0 b l w → active s us p = [t] →
      scopeAt s l.vf (at_ a off l t) = some x → s.scope? x.sid = some x → x.ended = false → (readReg l t r).toNat = e.idx → e.idx < 64 →
      x.entrants.find? (fun y => y.idx == e.idx) = some e → e.alive = true → e.lid ≠ l.lid → z1.hole = none →
      (endsBlock t0 → entrantOf z1 l.lid = none) →
      ∃ z x' e', exec (.tkill p a off r) s = .next z ∧ z.scope? x.sid = some x' ∧
        x'.entrants.find? (fun y => y.idx == e.idx) = some e' ∧ e'.alive = false ∧ e'.killRound = x.round ∧ e'.cores = [])

/-! ### Engine commands (08) -/

/-- R38, R196, R200–R206: the tile commands. TBIND binds an empty handle when its record's status is 0; TFREE empties one; TLOAD
and TFILL set an empty handle filling and TSTORE and TSTOREQ hold a store on a handle that is not empty, each counted by cp;
TSTATE answers with state, bound and size. A handle in the wrong state traps. (That the origin that .at gives stays in the
handle, also of TSTORE and TSTOREQ, is the model's reading, log 48; the bytes of storage that a handle gets anew are free
values, log 14.) -/
def Obligations.TileCommands : Prop :=
  ∀ (p : Pre) (d a rb rc : Reg) (h : BitVec 6) (off : BitVec 24) (x at' unbind : Bool) (bs : List Byte) (sh : Shape) (fmt : MxFmt),
    let hd (k : Ctx) : Handle := k.b.handle h.toNat
    let moved (k : Ctx) (t : Thread) : Shape :=
      if at' then { sh with row0 := (readReg k.l t rb).toInt, col0 := (readReg k.l t rc).toInt } else sh
    let placed (k : Ctx) (t : Thread) : Prop := at' = true → sh.w < 8 → (readReg k.l t rc).toInt % 32 = 0
    let fills (k : Ctx) (r : State) (t : Thread) (new : Shape) (load : Bool) : State :=
      setHandle (withOp r.nextId 0 (.fill h.toNat new load) r k.b k.l t) k.b.bid h.toNat { hd k with shape := some new, st := .filling }
    let stores (k : Ctx) (r : State) (t : Thread) (f : Option MxFmt) : State :=
      setHandle (withOp r.nextId 0 (.store h.toNat (moved k t) f false) r k.b k.l t) k.b.bid h.toNat
        { hd k with shape := some (moved k t), heldStores := (hd k).heldStores + 1 }
    Commands (.tbind p d h a off x) p none (fun k t => readChunks k t.uid 64 (at_ a off k.l t) 1) bs (fun k _ _ => (hd k).st = .empty)
      (fun k r _ => if bindStatus k.b x bs = 0 then
          setHandle r k.b.bid h.toNat { shape := some (Shape.ofBytes x bs), rowBind := (Shape.ofBytes x bs).row0,
                                        colBind := (Shape.ofBytes x bs).col0 }
        else r)
      (fun k _ => Receives [(d.toNat, BitVec.ofNat 32 (bindStatus k.b x bs))] []) ∧
    CommandsAtOnce (.tfree p h unbind) p none
      (fun k _ _ => (hd k).st ≠ .filling ∧ (hd k).st ≠ .draining ∧ (hd k).heldStores = 0)
      (fun k r _ => emptyHandle r k.b.bid h.toNat unbind) (fun _ _ => Idle) ∧
    (∀ s (k : Block), s.block? k.bid = some k →
      ((emptyHandle s k.bid h.toNat unbind).block? k.bid).map (fun b => b.handle h.toNat) =
        some (if unbind then {} else { k.handle h.toNat with st := .empty })) ∧
    CommandsAtOnce (.tload p h at' rb rc) p (some .cp) (fun k _ t => (hd k).shape = some sh ∧ (hd k).st = .empty ∧ placed k t)
      (fun k r t => fills k r t (moved k t) true) (fun _ r t => Idle (owing r.nextId .cp t)) ∧
    CommandsAtOnce (.tfill p h) p (some .cp) (fun k _ _ => (hd k).shape = some sh ∧ (hd k).st = .empty)
      (fun k r t => fills k r t sh false) (fun _ r t => Idle (owing r.nextId .cp t)) ∧
    CommandsAtOnce (.tstore p h at' rb rc) p (some .cp) (fun k _ t => (hd k).shape = some sh ∧ (hd k).st ≠ .empty ∧ placed k t)
      (fun k r t => stores k r t none) (fun _ r t => Idle (owing r.nextId .cp t)) ∧
    CommandsAtOnce (.tstoreq p h at' rb rc fmt) p (some .cp)
      (fun k _ t => (hd k).shape = some sh ∧ (hd k).st ≠ .empty ∧ sh.fmt = 10 ∧ (moved k t).col0 % 32 = 0 ∧ sh.cols % 32 = 0)
      (fun k r t => stores k r t (some fmt)) (fun _ r t => Idle (owing r.nextId .cp t)) ∧
    Performs (.tstate p d h) p (fun _ _ _ _ => True) (fun s _ _ _ => s)
      (fun _ b _ t y =>
        let n : Nat := match (b.handle h.toNat).st with | .empty => 0 | .filling => 1 | .ready => 2 | .draining => 3
        Receives [(d.toNat, BitVec.ofNat 32 (n + if (b.handle h.toNat).shape.isSome then 4 else 0)),
                  (d.toNat + 1, BitVec.ofNat 32 (b.handle h.toNat).bytes)] [] t y) ∧
    TrapsAll (.tload p h at' rb rc) p 0x08
      (fun s b _ _ => RoomFor .cp s ∧ ((b.handle h.toNat).shape = none ∨ (b.handle h.toNat).st ≠ .empty)) (fun _ _ => 0) ∧
    TrapsAll (.tstore p h at' rb rc) p 0x08
      (fun s b _ _ => RoomFor .cp s ∧ ((b.handle h.toNat).shape = none ∨ (b.handle h.toNat).st = .empty)) (fun _ _ => 0) ∧
    TrapsAll (.tfree p h unbind) p 0x08
      (fun _ b _ _ => (b.handle h.toNat).st = .filling ∨ (b.handle h.toNat).st = .draining ∨ (b.handle h.toNat).heldStores ≠ 0)
      (fun _ _ => 0)

/-- R196, R208, R215: a gather command reads its descriptor and is counted by ga; GREPLAY issues again the elements that a fault
record's bitmap names. -/
def Obligations.GatherCommands : Prop :=
  ∀ (p : Pre) (a : Reg) (off : BitVec 24) (x : Bool) (op : BitVec 2) (g : List Byte × Nat) (q : List Byte × List Byte × List Byte),
    let issues (i : Instr) (kind op iw : Nat) : Prop :=
      Commands i p (some .ga) (fun k t => readGather k t.uid x (at_ a off k.l t)) g (fun _ _ _ => gatherBad x g.1 = false)
        (fun k r t => withOp r.nextId 0 (.gather (Gather.ofBytes x kind op iw g.2 (at_ a off k.l t) g.1)) r k.b k.l t)
        (fun _ r t => Idle (owing r.nextId .ga t))
    issues (.gathI32 p a off x) 1 0 4 ∧ issues (.gathI64 p a off x) 1 0 8 ∧
    issues (.scatI32 p a off x) 2 0 4 ∧ issues (.scatI64 p a off x) 2 0 8 ∧
    issues (.scatcI32 p a off op x) 3 op.toNat 4 ∧ issues (.scatcI64 p a off op x) 3 op.toNat 8 ∧
    Commands (.greplay p a off) p (some .ga) (fun k t => readReplayRec k t.uid (at_ a off k.l t)) q
      (fun _ _ _ => recordBad q.1 = false ∧ gatherBad true q.2.2 = false)
      (fun k r t => withOp r.nextId 0 (.gather
        { Gather.ofBytes true (natAt q.1 21 1) (natAt q.1 22 1 % 4) (natAt q.1 20 1) (natAt q.1 8 4) (BitVec.ofNat 64 (natAt q.1 24 8)) q.2.2 with
          count := natAt q.1 16 4, frec := at_ a off k.l t, posted := natAt q.1 32 8,
          only := (List.range (natAt q.1 16 4)).filter fun j => (ofBytes q.2.1).testBit j }) r k.b k.l t)
      (fun _ r t => Idle (owing r.nextId .ga t))

/-- R196, R217–R223, Table 8-10: SLBIND answers with the lowest status that applies, and under `.free` asks for its field to be
unbound; SLPOST, SLPASS, SLREAD and SLTRUNC on a bound field are counted by sl, a result marked until the engine answers.
R224–R227: SROPEN registers a producer, or answers why it cannot; SRPOST and SREND give the ring writer one entry, counted
by sl. (The order in which SLBIND tests its failure statuses is the model's reading, log 49; that the engine takes its arrays'
words at bind its choice, log 89; that an answer waits for an earlier write of its register its reading of R63, log 76.) -/
def Obligations.SlotAndRingCommands : Prop :=
  ∀ (p : Pre) (d a r1 r2 r3 : Reg) (off : BitVec 24) (x : Bool) (sel : SlSel) (bs : List Byte) (f : Field)
    (h : RingHdr) (v : Word) (n : Nat) (s2 : State),
    let va (k : Ctx) (t : Thread) : DWord := at_ a off k.l t
    let bound (k : Ctx) (r : State) (t : Thread) : Prop :=
      canonicalVa (va k t) = true ∧ (va k t).toNat % 256 = 0 ∧ field? r k.vf (va k t) = some f ∧ f.freed = false
    let rule := Rule.ofBytes x bs
    let posts (k : Ctx) (r : State) (t : Thread) (slot tok : Word) (fin : Bool) : State :=
      { withOp r.nextId 0 (.ring (va k t)) r k.b k.l t with
        posts := r.posts ++ [{ id := r.nextId + 1, op := r.nextId, ring := va k t, producer := (readReg k.l t r1).toNat,
                               slot := slot, tok := tok, fin := fin }] }
    -- an answer that has come at once
    let told (r : State) (t : Thread) (st : Word) (y : Thread) : Prop := Told (some (r.nextId + 1)) [(d.toNat, st)] [] t y
    let binds (pre : Ctx → State → Thread → Prop) : Prop :=
      Commands (.slbind p d a off false) p none (fun k t => readField k t false (va k t)) bs
        (fun k r t => OpsNew r t ∧ bindBad bs = false ∧ pre k r t) (fun _ r _ => r) (fun _ r t y => told r t v y)
    let full (k : Ctx) (r : State) : Prop := 1024 ≤ (r.fields.filter fun q => q.vf == k.vf).length
    let made (k : Ctx) (t : Thread) : Field :=
      let g := Field.ofBytes k.vf (va k t) bs
      { g with status := 1 + (if g.cursor = g.n then 2 else 0) + 0xFF00 }
    let frees (pre : Ctx → State → Thread → Prop) (after : Ctx → State → Thread → State) (got : Ctx → State → Thread → Thread → Prop) : Prop :=
      Commands (.slbind p d a off true) p none (fun k t => readField k t true (va k t)) [] (fun k r t => OpsNew r t ∧ pre k r t) after got
    Commands (.slbind p d a off false) p none (fun k t => readField k t false (va k t)) bs (fun _ _ _ => bindBad bs = true)
      (fun _ r _ => r) (fun _ _ => Receives [(d.toNat, 1)] []) ∧
    (v = 2 → binds fun k r t => field? r k.vf (va k t) ≠ none ∧ ∀ o ∈ r.ops, isSlotOp k.vf (va k t) o = false) ∧
    (v = 3 → binds fun k r t => field? r k.vf (va k t) = none ∧ (∀ o ∈ r.ops, isSlotOp k.vf (va k t) o = false) ∧ natAt bs 48 8 ≠ 0 ∧
      ∃ e, registerId h = .error e ∧
        readRing (uncounted k r t .mpost) (BitVec.ofNat 64 (natAt bs 48 8)) r = (.ok h, r)) ∧
    (v = 4 → binds fun k r t => field? r k.vf (va k t) = none ∧ (∀ o ∈ r.ops, isSlotOp k.vf (va k t) o = false) ∧ natAt bs 48 8 = 0 ∧
      full k r) ∧
    Commands (.slbind p d a off false) p none (fun k t => readField k t false (va k t)) bs
      (fun k r t => OpsNew r t ∧ bindBad bs = false ∧ field? r k.vf (va k t) = none ∧ natAt bs 48 8 = 0 ∧ ¬ full k r ∧
        (∀ o ∈ r.ops, isSlotOp k.vf (va k t) o = false) ∧
        absentArray (some k.b) (made k t) r = none ∧
        engWrites r (some k.b) k.l.lid k.vf { data := [recordWords (made k t)] } = (.ok (), s2))
      (fun k _ t => { (takeArrays (some k.b) (made k t) s2).2 with fields := s2.fields ++ [(takeArrays (some k.b) (made k t) s2).1] })
      (fun _ r t y => told r t 0 y) ∧
    frees (fun k r t => field? r k.vf (va k t) = none ∨ ∃ f, field? r k.vf (va k t) = some f ∧ f.freed = true) (fun _ r _ => r)
      (fun _ _ => Receives [(d.toNat, 5)] []) ∧
    frees (fun k r t => bound k r t ∧ (∀ i, f.busy = some i → i < r.nextId) ∧
        (f.busy ≠ none ∨ ∃ o ∈ r.ops, isSlotOp k.vf (va k t) o = true))
      (fun k r t => withOp (r.nextId + 1) r.nextId (.slot (va k t) (.unbind d.toNat))
        (updField r k.vf (va k t) fun q => { q with freed := true }) k.b k.l t)
      (fun _ r t y => laneRest y = laneRest t ∧ y.fflags = t.fflags ∧
        bare y.pend = bare (t.pend ++ [{ id := r.nextId, due := .unanswered, regs := [(d.toNat, 0)], preds := [], all := true }])) ∧
    frees (fun k r t => bound k r t ∧ f.busy = none ∧ (∀ o ∈ r.ops, isSlotOp k.vf (va k t) o = false) ∧
        (f.ring = 0 ∨ f.endOut = true) ∧
        engWrites r (some k.b) k.l.lid k.vf { data := [recordWords { f with status := f.status &&& ~~~1#32 }] } = (.ok (), s2))
      (fun k _ t => { s2 with fields := s2.fields.filter fun q => !q.is k.vf (va k t) }) (fun _ r t y => told r t 0 y) ∧
    CommandsAtOnce (.slpost p a off r1 r2 r3) p (some .sl) bound
      (fun k r t => withOp r.nextId 0 (.slot (va k t) (.post (readReg k.l t r1) (readReg k.l t r2) (readReg k.l t r3))) r k.b k.l t)
      (fun _ r t => Idle (owing r.nextId .sl t)) ∧
    CommandsAtOnce (.slread p d a off sel r1) p (some .sl) bound
      (fun k r t => withOp (r.nextId + 1) r.nextId (.slot (va k t) (.read sel (readReg k.l t r1))) r k.b k.l t)
      (fun _ r t => Awaits r.nextId [d.toNat, d.toNat + 1] (owing (r.nextId + 1) .sl t)) ∧
    CommandsAtOnce (.sltrunc p d a off r1) p (some .sl) bound
      (fun k r t => withOp (r.nextId + 1) r.nextId (.slot (va k t) (.trunc (readReg k.l t r1))) r k.b k.l t)
      (fun _ r t => Awaits r.nextId [d.toNat] (owing (r.nextId + 1) .sl t)) ∧
    Commands (.slpass p a off x r1) p (some .sl) (fun k t => readRule k x r1 (va k t) t) bs
      (fun _ _ _ => rule.bad = false ∧ (x = true → natAt bs 6 2 = 0 ∧ natAt bs 12 4 = 0))
      (fun k r t => withOp r.nextId 0 (.slot (va k t) (.pass rule)) r k.b k.l t)
      (fun _ r t => Idle (owing r.nextId .sl t)) ∧
    CommandsAtOnce (.sropen p d a off) p none
      (fun k r t => OpsNew r t ∧ canonicalVa (va k t) = true ∧ (va k t).toNat % 64 = 0 ∧
        readRing (uncounted k r t (.ropen (va k t) d.toNat)) (va k t) r = (.ok h, r) ∧ registerId h = .error v)
      (fun _ r _ => r) (fun _ r t y => told r t v y) ∧
    CommandsAtOnce (.sropen p d a off) p none
      (fun k r t => OpsNew r t ∧ canonicalVa (va k t) = true ∧ (va k t).toNat % 64 = 0 ∧
        readRing (uncounted k r t (.ropen (va k t) d.toNat)) (va k t) r = (.ok h, r) ∧ registerId h = .ok n ∧
        engWrites r (some k.b) k.l.lid k.vf { ring := registerWrites (va k t) h n } = (.ok (), s2))
      (fun _ _ _ => s2) (fun _ r t y => told r t (BitVec.ofNat 32 n) y) ∧
    (registerId h = .ok n → h.reg < 2 ^ 16 → n < 16 ∧ h.reg.testBit n = false ∧ ∀ j, j < n → h.reg.testBit j = true) ∧
    CommandsAtOnce (.srpost p a off r1 r2 r3) p (some .sl) (fun _ _ _ => True)
      (fun k r t => posts k r t (readReg k.l t r2) (readReg k.l t r3) false) (fun _ r t => Idle (owing r.nextId .sl t)) ∧
    CommandsAtOnce (.srend p a off r1) p (some .sl) (fun _ _ _ => True) (fun k r t => posts k r t 0 0 true)
      (fun _ r t => Idle (owing r.nextId .sl t))

/-- R228, R229, R231, R232: a collective releases, takes its place in the order of its rank and is counted by co; MPOST gives the
stream a parameter record, counted by mx; a gang of one whose queue holds a beat receives it at once, with mx acquired later. (That the result waits for an earlier write
of its registers is the model's reading of R63, log 76.) -/
def Obligations.CollectivesAndMessages : Prop :=
  ∀ (p : Pre) (d a : Reg) (off : BitVec 24) (op : CredOp) (ty : CredTy) (sy x : Bool) (n : BitVec 4) (cw : BitVec 2) (pd : BitVec 3)
    (bs : List Byte),
    let joins (i : Instr) (kind : Nat) (op : CredOp) (ty : CredTy) : Prop :=
      let coll (k : Ctx) (s : State) (t : Thread) : Coll :=
        let q := collOf k x kind op ty sy (at_ a off k.l t) bs 0
        { q with seq := seqOf s q.comm q.rank }
      let out (k : Ctx) (r : State) (t : Thread) : State := releaseNow r t.uid k.core k.vf (if sy then .sy else .dv)
      Commands i p (some .co) (fun k t => readChunks k t.uid 64 (at_ a off k.l t) 1) bs (fun _ _ _ => True)
        (fun k r t =>
          let q := coll k (out k r t) t
          withOp r.nextId 0 (.coll q) (if kind < 4 then bumpSeq (out k r t) q.comm q.rank else out k r t) k.b k.l t)
        (fun _ r t => Idle (owing r.nextId .co t))
    joins (.cred p a off op ty sy x) 0 op ty ∧ joins (.cgath p a off sy x) 1 .add .s32 ∧ joins (.cbcast p a off sy x) 2 .add .s32 ∧
    joins (.cscat p a off sy x) 3 .add .s32 ∧ joins (.csend p a off sy x) 4 .add .s32 ∧ joins (.crecv p a off sy x) 5 .add .s32 ∧
    CommandsAtOnce (.mpost p a n) p (some .mx) (fun k _ _ => k.b.stream ≠ none)
      (fun k r t => updBlock (withOp r.nextId 0 .mpost r k.b k.l t) k.b.bid fun b => { b with
        params := b.params ++ [⟨r.nextId, (List.range n.toNat).map fun i => readReg k.l t (a + BitVec.ofNat 8 i)⟩] })
      (fun _ r t => Idle (owing r.nextId .mx t)) ∧
    TrapsAll (.mpost p a n) p 0x01 (fun s b _ _ => RoomFor .mx s ∧ b.stream = none) (fun _ _ => 0) ∧
    (∀ (s : State) (us : List Nat) (t0 t : Thread) (b : Block) (l : Launch) (w : DWord) (q : Beat) (qs : List Beat),
      let z1 := updBlock s b.bid fun b => { b with beats := b.beats.map fun g => if g.1 == t.gang then (g.1, g.2.drop 1) else g }
      Ready (encode (.mrecv p d cw pd)) p s us t0 b l → GoesOn (encode (.mrecv p d cw pd)) s t0 b l w → RoomFor .mx s →
      course s us = [t] → guardHolds p.g t = true → (∀ y ∈ gangMembers s b.bid t.gang, y.uid = t.uid) →
      (∀ y ∈ s.blocks, y.bid = b.bid → y.xinsts = []) → (b.beats.find? fun g => g.1 == t.gang) = some (t.gang, q :: qs) →
      (∀ o ∈ s.ops, o.id < s.nextId) → (∀ o ∈ t.ops, o.id < s.nextId ∧ o.cls ≠ .mx) → (∀ o ∈ t.pend, o.id < s.nextId) →
      ∃ z y, exec (.mrecv p d cw pd) s = .next z ∧ Left s z1 z us ∧ z.thread? t.uid = some y ∧ Passed s p t0 w y ∧
        (let regs := [(d.toNat, q.data.getD t.lane 0), (d.toNat + 1, BitVec.ofNat 32 (q.row + q.beat * 2 ^ 16))]
         let got (id : Nat) (u : Thread) : Prop := Told (some id) regs [(pd.toNat, true)] u y
         -- a result that has landed has completed its operation, one that has not is still counted
         if t.pend.any (fun x => x.isFixed && sameTarget { id := 0, due := .any, regs := regs, preds := keptPreds [(pd.toNat, true)] } x) = true
         then ∃ id, got id (owing id .mx t)
         else ∃ id, got id { t with acq := if t.acq.contains .mx then t.acq else .mx :: t.acq }))

/-! ### The matrix sequencer (09) -/

/-- R234, R240–R251: the words that the front end places in the block's queue; MGRP, and the `.q` forms of ASAVE and ALOAD, take a
parameter record. (That its MPOST completes in the step in which the word is enqueued is the model's reading of R231, log 38.) -/
def Obligations.StreamQueue : Prop :=
  ∀ (d a b c : BitVec 8) (r j : BitVec 2) (rel z q lc bias table : Bool) (m0 rows sz : BitVec 8) (rm : Rm) (st : Stages) (kind : MKind)
    (g : BitVec 5) (beats : BitVec 3) (fmt : ChainFmt) (n : BitVec 4) (off : BitVec 24) (cnt : BitVec 11),
    Enqueues (.mldwBf16 a b c r j rel) false ∧ Enqueues (.mldwFp16 a b c r j rel) false ∧ Enqueues (.mldwE4m3 a b c r j rel) false ∧
    Enqueues (.mldwE5m2 a b c r j rel) false ∧ Enqueues (.mldwE2m3 a b c r j rel) false ∧ Enqueues (.mldwE3m2 a b c r j rel) false ∧
    Enqueues (.mldwE2m1 a b c r j rel) false ∧ Enqueues (.mldwI8 a b c r j rel) false ∧ Enqueues (.mldwT2 a b c r j rel) false ∧
    Enqueues (.mldwF64 a b c r j rel) false ∧
    Enqueues (.mstrmBf16 d a b c r j rel m0) false ∧ Enqueues (.mstrmFp16 d a b c r j rel m0) false ∧
    Enqueues (.mstrmE4m3 d a b c r j rel m0) false ∧ Enqueues (.mstrmE5m2 d a b c r j rel m0) false ∧
    Enqueues (.mstrmE2m3 d a b c r j rel m0) false ∧ Enqueues (.mstrmE3m2 d a b c r j rel m0) false ∧
    Enqueues (.mstrmE2m1 d a b c r j rel m0) false ∧ Enqueues (.mstrmI8 d a b c r j rel m0) false ∧
    Enqueues (.mstrmF64 d a b c r j rel m0 rm) false ∧
    Enqueues .mswap false ∧ (m0.toNat + rows.toNat + 1 ≤ 256 → Enqueues (.mzero d m0 rows) false) ∧
    Enqueues (.mdrain d a st z kind m0 r j) false ∧
    (m0.toNat + rows.toNat + 1 ≤ 256 → Enqueues (.mdrainl d g st z kind m0 rows beats) false) ∧
    Enqueues (.mchain a b fmt bias table) false ∧
    (1 ≤ n.toNat → n.toNat ≤ 8 → n.toNat * (sz.toNat + 1) ≤ 256 → Enqueues (.mgrp d a b c st n sz) true) ∧
    Enqueues (.asave d j lc q off) q ∧ Enqueues (.aload d j lc q off) q ∧
    (1 ≤ cnt.toNat → cnt.toNat ≤ 1024 → Enqueues (.mbara n cnt) false)

/-- R235, R251, R253, R254: MLOOP opens a loop with a permit, or skips it, or waits for a permit; MNEXT begins the next iteration
or leaves the loop; MEND waits for the back end or ends the stream; MBARW arrives and waits, giving the weight context up, or
completes the barrier. -/
def Obligations.StreamControl : Prop :=
  ∀ (s : State) (bid : Nat) (b : Block) (x : Stream) (q : Param) (l : Loop) (par : Bool) (n : BitVec 24) (bar : BitVec 4) (c : BitVec 11),
    let ends (i : Instr) (s : State) (y : Stream) : Prop :=
      ∃ z, exec i s = .next z ∧ z.cur = .none ∧ z.mem = s.mem ∧ (∀ v, v ≠ bid → z.block? v = s.block? v) ∧
        ∃ k, z.block? bid = some k ∧ k.stream = some { y with lastFetch := some s.clock }
    let count : Nat := if par then (q.data.headD 0).toNat else n.toNat
    let opened (p : Nat) : Loop := { lc := 0, count := count, body := x.nextHeader, permit := p }
    let left := x.closePermit l.permit
    let again (p : Nat) : List Loop := x.loops.dropLast ++ [{ l with lc := l.lc + 1, permit := p }]
    let old := getBarrier b bar.toNat
    Feeding s bid b x →
    (x.isLast = true → x.loops.length < 4 → (par = true → b.params.head? = some q) → (par = false → n.toNat < 0x800000) →
      (count = 0 → ends (.mloop par n) s { x.next with skip := 1 }) ∧
      (0 < count → x.permits.length < 8 → ends (.mloop par n) s
        { x.next with loops := x.loops ++ [opened s.nextId], permits := x.permits ++ [⟨s.nextId, false⟩], wait := .none }) ∧
      (0 < count → 8 ≤ x.permits.length → ends (.mloop par n) s { x.next with loops := x.loops ++ [opened 0], wait := .permit })) ∧
    (x.isLast = true → x.loops.getLast? = some l →
      (l.count ≤ l.lc + 1 → ends .mnext s { left.next with loops := x.loops.dropLast }) ∧
      (l.lc + 1 < l.count → left.permits.length < 8 → x.pausing = false → ends .mnext s
        { left.goto l.body with loops := again s.nextId, permits := left.permits ++ [⟨s.nextId, false⟩], wait := .none }) ∧
      (l.lc + 1 < l.count → (8 ≤ left.permits.length ∨ x.pausing = true) → ends .mnext s
        { left.goto l.body with loops := again l.permit, wait := .permit })) ∧
    (x.idle = false → ends .mend s
      (Stream.sweep { x with wait := .finish, loops := [], permits := x.permits.map fun p => { p with closed := true } })) ∧
    (x.idle = true → b.xinsts = [] → (∃ t ∈ s.threads, t.bid = bid) →
      ∃ z k y, exec .mend s = .next z ∧ z.mem = s.mem ∧ z.block? bid = some k ∧ k.stream = some y ∧ y.ended = true ∧ y.loops = [] ∧
        y.permits = [] ∧ ∀ w ∈ z.wctx, w.holder ≠ some bid) ∧
    (1 ≤ c.toNat → c.toNat ≤ 1024 → old.seq = 0 → (old.arrived = [] ∨ old.expected = c.toNat) →
      (old.arrived.length + 1 ≠ c.toNat →
        ∃ z, exec (.mbarw bar c) s = .next z ∧ z.mem = s.mem ∧ (∀ w ∈ z.wctx, w.holder ≠ some bid) ∧
          z.block? bid = some { b with
            barriers := b.barriers.setIfInBounds bar.toNat { old with expected := c.toNat, seq := 1 },
            stream := some { x.next with wait := .bar bar.toNat old.phase, lastFetch := some s.clock } }) ∧
      (old.arrived.length + 1 = c.toNat →
        ∃ z, exec (.mbarw bar c) s = .next z ∧ z.mem = s.mem ∧ z.block? bid = some { b with
            barriers := b.barriers.setIfInBounds bar.toNat { expected := c.toNat, arrived := [], seq := 0, phase := !old.phase },
            stream := some { x.next with wait := .none, lastFetch := some s.clock } }))

/-! ### Machine events (14, 08, 09, 11, 17, 18, 19, 21) -/

/-- R12, R315: the picker takes the first ready slot of the active set in key order. R63, R64, R196: fixed-latency writes land at
their clock, a variable-latency result lands when it may. R316, R319, R46–R48, R118–R120, R161, R320, R16: swaps, forming at a
region header or, of threads that are no children of a SPAWN, at any header, raising, and the waits and holds that end. (The
clocks for which a swap keeps a slot from issuing are the model's reading of Table 14-5, log 87; the order of landings is its
reading of R63, log 76.) -/
def Obligations.CoreEvents : Prop :=
  ∀ (s : State) (b : Block) (l : Launch) (uid id core bid h : Nat),
    s.hole = none →
    (∀ x, pickable s core = some x →
      exec (.pickerIssue core) s = .next { s with cur := .course ((courseOf s x).map Thread.uid), issuedNow := core :: s.issuedNow } ∧
      (∀ t ∈ courseOf s x, t ∈ slotThreads s x ∧ t.wait = .none ∧ threadReady s core t = true) ∧
      x ∈ s.slots ∧ x.core = core ∧ x.active = true ∧ slotReady s x = true ∧ issuedJust s x = false ∧ s.issuedNow.count core < 4 ∧
      ∀ y ∈ s.slots, y.core = core → y.active = true → slotReady s y = true → issuedJust s y = false → keyBefore s x y = true) ∧
    (fixedLandDue s uid = true →
      exec (.fixedLatencyWriteLand uid) s = .next (updThread s uid fun t => landDue t s.clock)) ∧
    (∀ t : Thread, ∀ p ∈ (landDue t s.clock).pend, p ∈ t.pend ∧ p.dueAt s.clock = false) ∧
    (variableLandDue s uid id = true → exec (.variableResultLand uid id) s = .next (landNow s uid id)) ∧
    (∀ t q, s.thread? uid = some t → (t.pend.find? fun p => p.id == id) = some q → q.due = .any → q.op = none →
      ∃ y, (landNow s uid id).thread? uid = some y ∧ y.pend = t.pend.filter (fun p => p.id != id) ∧
        (t.life ≠ .parked → y.regs = (landOne t q).regs ∧ y.preds = (landOne t q).preds)) ∧
    (∀ x out, dueSwap s core = some (.bring x out) → exec (.slotSwap core) s = .next (swapIn s x out) ∧
      ∀ y ∈ (swapIn s x out).slots, y.id = x.id → y.active = true ∧ y.stamp = (if x.issued then x.stamp else s.clock) ∧
        y.busy = s.clock + (if (out.map (issuedJust s)).getD false then 3 else 2)) ∧
    (∀ x, dueSwap s core = some (.expel x) → exec (.slotSwap core) s = .next { s with
      slots := s.slots.map (fun y => if y.id == x.id then { y with active := false, busy := s.clock + 2, leave := false, offer := false } else y),
      swapsNow := core :: s.swapsNow }) ∧
    (∀ t0 ts w, hasPlace s core = true → formSet s core = t0 :: ts → s.block? t0.bid = some b → s.launch? t0.lid = some l →
      (∀ t ∈ ts, t.lid = t0.lid) → (s.threads.map Thread.uid).Nodup → Enterable s b l t0.hdr w →
      ((Header.of w).region = true ∨ ∀ t ∈ t0 :: ts, t.spawned = false) →
      ∃ z, exec (.courseForm core) s = .next z ∧ z.cur = s.cur ∧ z.mem = s.mem ∧
        (∃ x ∈ z.slots, x.uids = (t0 :: ts).map Thread.uid ∧ x.core = core ∧ x.stamp = s.clock ∧
          x.active = decide ((coreSlots s core true).length < 8)) ∧
        (∀ v, v ∉ (t0 :: ts).map Thread.uid → z.thread? v = s.thread? v) ∧
        ∀ t ∈ t0 :: ts, t.bid = t0.bid ∧ t.hdr = t0.hdr ∧ ∃ y, z.thread? t.uid = some y ∧ y.life = .inSlot ∧ y.wait = .none ∧
          y.hdr = t.hdr ∧ y.hword = w ∧ y.regs = t.regs ∧ y.preds = t.preds ∧ (t.entering = true → y.idx = 0)) ∧
    (raiseDue s uid = true → exec (.threadRaise uid) s = .next (updThread s uid fun t => { t with raised := true })) ∧
    (∀ x, holdOf s bid h = some x → holdDue s bid x = true →
      exec (.mergeHoldExpire bid h) s = .next (closeHold s bid x.hdr) ∧
      (∀ y ∈ (closeHold s bid x.hdr).threads, y.bid = bid → y.pallet.pc = x.hdr → y.mergeHeld = false)) ∧
    (∀ x, instOf s bid id = some x → crossExpireDue s bid id = true → exec (.crosslaneExpire bid id) s = .next (xClose s bid x)) ∧
    (∀ c, (s.thread? uid).map Thread.wait = some (.sleep c) → c ≤ s.clock →
      exec (.sleepExpire uid) s = .next (updThread s uid fun t => { t with wait := .none })) ∧
    (∀ p, packOf s bid h = some p → p.opened + 16 ≤ s.clock → exec (.spawnPackClose bid h) s = .next (closePack s bid p.entry)) ∧
    (s.block? bid = some b → gangReadyDue s bid h = true → exec (.spawnGangReady bid h) s =
      .next (acquire (updBlock s bid fun b => { b with newGangs := b.newGangs.filter fun g => g.gang != h }) b.core (vfOf s b.lid) .dv)) ∧
    (∀ t, s.thread? uid = some t → (t.life = .exited ∨ t.life = .stopped) → t.ops = [] →
      Occurs (.threadRecordFree uid) s (freeRecord s t))

/-- R196, R203–R205, R209–R215, R218–R224, R229, R230: what an engine does when an operation of its own completes, its accesses
translated. R233, R234, R241, R248, R254: the sequencer's back end and the weight context. (That the reads and the writes of an
operation are made together in its completion's step, each word drawn from the looks it has taken, is the model's reading, log
39; so are the automatic fill before an operation is at the head, log 52, and the order in which operations are performed and
write the vault, log 91.) -/
def Obligations.EngineEvents : Prop :=
  ∀ (s s1 s2 s3 : State) (o : EOp) (b : Block) (op id bid n : Nat),
    (s.op? op = some o →
    (∀ sh load bs, o.work = .fill n sh load → o.held = [] → s.block? o.bid = some b →
      engReads (some b) o.vf (fillReads sh load ++ scaleReads sh load) (looksOut s o) = (.ok bs, s1) →
      let a := fillStorage s1 b sh load (bs.take sh.rows) (bs.drop sh.rows)
      let z := setHandle a o.bid n { handleOf a o.bid n with st := .ready, bytes := sh.size }
      Occurs (.tileFillComplete op) s (looksBack o (finishTileOp z o)) ∧ (handleOf z o.bid n).st = .ready ∧
        (handleOf z o.bid n).bytes = sh.size ∧ (finishOp z o [] []).op? op = none) ∧
    (∀ sh fmt, o.work = .store n sh fmt false → (handleOf s o.bid n).st = .ready →
      Occurs (.tileStoreStart op) s (updOp (setHandle s o.bid n
        { handleOf s o.bid n with st := .draining, heldStores := (handleOf s o.bid n).heldStores - 1 }) op
          fun o => { o with work := .store n sh fmt true })) ∧
    (∀ sh fmt ks, o.work = .store n sh fmt true → o.held = [] → s.block? o.bid = some b →
      let seen := lookTile (looksOut s o) b sh
      let d := storeData seen.1 b sh fmt
      let ws := storeWrites sh d.1 d.2.1 d.2.2
      resolveAll (some b) o.vf .engineWrite (ws.map Prod.fst) seen.2 = (.ok ks, s1) →
      let a := (ws.zip ks).foldl (fun s x => writeKeys (readKeys s x.2).2 o.lid o.vf true x.2 (x.1.2 (readKeys s x.2).1)) s1
      Occurs (.tileStoreComplete op) s
        (looksBack o (finishOp (setHandle a o.bid n { handleOf a o.bid n with st := .ready }) o [] []))) ∧
    (∀ g es pk rk, o.work = .gather g → o.held = [] →
      resolveElements (s.block? o.bid) o.vf g (g.only.filter fun k => !g.ended.any fun e => e.1 == k) (looksOut s o) = (es, s1) →
      (∀ x ∈ es, ∀ pg va acc, x.2 ≠ .parked pg va acc) →
      resolveAll (s.block? o.bid) o.vf (if g.kind = 1 then .engineWrite else .engineRead)
        (es.map fun x => match g.kind, x.2 with
          | 1, _ => (g.packed x.1, g.esize)
          | _, .data _ => (g.packed x.1, g.esize)
          | _, _ => (0, 0)) s1 = (.ok pk, s2) →
      engResolve (s.block? o.bid) o.vf .engineWrite (recordPieces g (faultsOf g es)) s2 = (.ok rk, s3) →
      Occurs (.gatherFamilyComplete op) s (looksBack o (performGather s3 o g es pk rk (faultsOf g es)))) ∧
    (∀ a slot tok conf, o.work = .slot a (.post slot tok conf) → slpostDue s op = true →
      let z := closeCommand (updField s o.vf a fun f => mergeCand f slot tok conf) o a []
      z.op? op = none → Occurs (.slpostMerge op) s z) ∧
    (∀ a k f, o.work = .slot a (.pass k) → slpassApplyDue s op = true → field? s o.vf a = some f → f.busy ≠ some op →
      Occurs (.slpassApply op) s
        (updField s o.vf a fun f => { f with busy := some op, taken := f.cands, cands := [], todo := [.sift] })) ∧
    (∀ a k f j js, o.work = .slot a (.pass k) → slpassApplyDue s op = true → field? s o.vf a = some f → f.busy = some op →
      f.todo = j :: js →
      let r := Run.job { s := looksOut s o, f := f, o := o } k j
      r.err = none → r.post = none →
      Occurs (.slpassApply op) s (looksBack o (updField r.s o.vf a fun _ => { r.f with todo := r.next ++ js }))) ∧
    (∀ a k, o.work = .slot a (.pass k) → slpassCompleteDue s op = true →
      Occurs (.slpassComplete op) s (closeCommand s o a [])) ∧
    (∀ a p f, o.work = .slot a (.trunc p) → sltruncDue s op = true → field? s o.vf a = some f → f.busy ≠ some op →
      (p.toNat < f.cursor → Occurs (.sltruncApply op) s (closeCommand s o a [1])) ∧
      (f.cursor ≤ p.toNat → Occurs (.sltruncApply op) s
        (updField s o.vf a fun f => { f with busy := some op, todo := truncJobs f.n p.toNat }))) ∧
    (∀ a p f, o.work = .slot a (.trunc p) → sltruncDue s op = true → field? s o.vf a = some f → f.busy = some op → f.todo = [] →
      Occurs (.sltruncApply op) s (closeCommand s o a [0])) ∧
    (∀ a sel slot f, o.work = .slot a (.read sel slot) → slreadDue s op = true → field? s o.vf a = some f →
      let r := Run.answer { s := looksOut s o, f := f, o := o } sel slot.toNat
      r.2.err = none → Occurs (.slreadAnswer op) s (looksBack o (closeCommand r.2.s o a r.1)))) ∧
    (∀ (k : Rule) (cs : List (Cand × Nat)) (x : Cand) (st : Nat), k.thr ≤ k.tht → k.tht ≤ k.thf → k.kmin = 0 → k.kmax = 0 → (x, st) ∈ cs →
      (k.thf ≤ x.2.2 → SlotJob.final x.1 x.2.1 x.2.2 ∈ passJobs k cs) ∧
      (k.tht ≤ x.2.2 → x.2.2 < k.thf → SlotJob.slot x.1 1 x.2.1 x.2.2 ∈ passJobs k cs) ∧
      (x.2.2 < k.thr → st = 1 → SlotJob.slot x.1 0 0 0 ∈ passJobs k cs)) ∧
    (∀ (k : Rule) (cs : List (Cand × Nat)) i tok conf, SlotJob.final i tok conf ∈ passJobs k cs →
      (i, tok, conf) ∈ cs.map Prod.fst ∧ (k.kmin = 0 → k.thf ≤ conf)) ∧
    (∀ (f : Field) slot tok conf, slot.toNat < f.n → conf.toNat < 2 ^ 16 → (∀ y ∈ f.cands, y.1 ≠ slot.toNat) →
      mergeCand f slot tok conf = { f with cands := f.cands ++ [(slot.toNat, tok.toNat, conf.toNat)] }) ∧
    (∀ (f : Field) slot tok conf, f.n ≤ slot.toNat ∨ 2 ^ 16 ≤ conf.toNat → (mergeCand f slot tok conf).cands = f.cands ∧
      (mergeCand f slot tok conf).bad = min (f.bad + 1) (2 ^ 32 - 1)) ∧
    (∀ x, (s.posts.find? fun y => y.id == id) = some x → ringPostDue s id = true → postOp s x = some o →
      Occurs (.streamRingPost id) s (writePost s o x)) ∧
    (∀ x r, (s.posts.find? fun y => y.id == id) = some x → ringPollDue s id = true → postOp s x = some o →
      readRing o x.ring s = (.ok r, s1) →
      Occurs (.streamRingHeadPoll id) s (updPost s1 id fun y => { y with full := if r.full then some s1.clock else none })) ∧
    (∀ ms st, instanceOf s op = some (ms, st) → (∀ m ∈ ms, m.1.held = []) →
      Occurs (.collectiveInstanceComplete op) s (runCollective s ms st)) ∧
    (sequencerStartDue s bid = true → Occurs (.sequencerStart bid) s (updStream s bid fun x => { x with started := true })) ∧
    (∀ x m, headOf s bid = some (b, x, m) → backFills s bid = [] → headStep s b x m = .go →
      Occurs (.matrixOperationPerform bid) s (performHead s b m)) ∧
    (∀ m drain, perform { flushRuns s bid (m.ranges b) with lens := (((flushRuns s bid (m.ranges b)).stream? bid).map Stream.past).getD [] } b m = .ok s1 drain →
      s.block? bid = some b → writeRange b m = none →
      performHead s b m = reach (updStream { s1 with lens := [] } bid fun x => { x with
        queue := x.queue.drop 1, past := [], running := x.running ++ [{ op := m, drain := drain, writes := [] }] }) bid) ∧
    (∀ x m k, headOf s bid = some (b, x, m) → backFills s bid = [] → headStep s b x m = .stop k →
      Occurs (.matrixOperationPerform bid) s (stopSequencer s bid k m.pc 0)) ∧
    (∀ x m q, headOf s bid = some (b, x, m) → backFills s bid = [q] → headStep s b x m = .wait →
      Occurs (.matrixOperationPerform bid) s (autoFill s b q.1 q.2)) ∧
    (∀ x r, s.block? bid = some b → b.stream = some x → completable x = [r] →
      Occurs (.matrixOperationComplete bid) s (completeRun s b x r)) ∧
    (∀ x r, s.block? bid = some b → b.stream = some x → onDrainPath r.op = false → r.op.isMldw = false → r.op.code ≠ 0x198 →
      completeRun s b x r = checkBlock (updStream (flushRun bid s r) bid fun x =>
        Stream.sweep { x with running := x.running.filter fun y => y.op != r.op }) bid) ∧
    (∀ x g clk beat rest, s.block? bid = some b → b.stream = some x → x.draining = some ⟨g, (clk, beat) :: rest⟩ → clk ≤ s.clock →
      gangLives s bid g = true → (beatsOf b g).length < 64 → b.xinsts = [] → s.hole = none →
      ∃ z k, exec (.drainBeatEnqueue bid) s = .next z ∧ z.block? bid = some k ∧ beatsOf k g = beatsOf b g ++ [beat]) ∧
    (∀ q, (ctxOf s n).holder = none → bestReq s (ctxOf s n).reqs = some q → s.hole = none →
      ∃ z, exec (.weightContextSwitch n) s = .next z ∧ (ctxOf z n).holder = some q.bid ∧ (ctxOf z n).since = s.clock ∧
        (ctxOf z n).reqs = (ctxOf s n).reqs.filter (fun r => r.bid != q.bid) ∧ z.mem = s.mem) ∧
    (weightRaiseDue s bid = true → s.hole = none →
      ∃ z, exec (.weightRequestRaise bid) s = .next z ∧ ∀ w ∈ z.wctx, ∀ r ∈ w.reqs, r.bid = bid → r.raised = true)

/-- R266, R272–R276: a walk's end retries its requester or holds it on the page with a fault entry; the device reads responses and
gives each answer: retry, terminate, trap, shoot down, declare or remove an alias. (That a course whose walk finds the page
present restarts with no fault entry is the model's reading, log 55; so is that a write to a ring which no place holds is lost,
log 15.) -/
def Obligations.PagingEvents : Prop :=
  ∀ (s s1 : State) (id vf page n : Nat) (code : BitVec 8) (rest : List Response),
    (∀ w key pte lvl, (s.walks.find? fun v => v.id == id) = some w → pageWalkDue s id = true →
      translate s w.vf (vaOf (w.page * 2 ^ 16)) (some w.acc) = (.frame key pte lvl, s1) →
      let a : State := { s1 with walks := s1.walks.filter fun v => v.id != id }
      walkGone a w = false → Occurs (.pageWalkComplete id) s (retryReq a w.page w.who)) ∧
    (∀ w, (s.walks.find? fun v => v.id == id) = some w → pageWalkDue s id = true →
      translate s w.vf (vaOf (w.page * 2 ^ 16)) (some w.acc) = (.notPresent, s1) →
      let a : State := { s1 with walks := s1.walks.filter fun v => v.id != id }
      walkGone a w = false → Occurs (.pageWalkComplete id) s (pageFault a w)) ∧
    (∀ (w : Walk) r, frhdr s ≠ 0 → findPending s w.vf w.page = some r → isGather w.who = false →
      (pageFault s w).heldFaults = s.heldFaults ∧ (pageFault s w).mem = s.mem ∧
      (pageFault s w).pending = s.pending.map fun p => if p.vf == w.vf && p.page == w.page then { p with who := p.who ++ [w.who] } else p) ∧
    (∀ e es, s.heldFaults = e :: es → (e.counted = false ∨ e.polled + 256 ≤ s.clock) →
      Occurs .faultRingHeadPoll s (writeFault s e es)) ∧
    (∀ h rs bad, responseReadDue s = true → devRead s 0 (rrhdr s) 32 = (some h, s1) →
      let cap := natAt h 20 4
      let head := natAt h 12 4
      let tail := natAt h 8 4
      ∀ s2, readResponses (BitVec.ofNat 64 (natAt h 24 8)) cap (min ((tail + 2 ^ 32 - head) % 2 ^ 32) cap) head s1 = (rs, bad, s2) →
      let a := bumpRing { s2 with responses := s2.responses ++ rs } (rrhdr s2) 0 bad
      Occurs .responseRingRead s (devPut a 0 (addrAt (rrhdr a) 12) 4 tail true)) ∧
    (s.responses = ⟨1, vf, page, 0, 0⟩ :: rest →
      let a := takeResponse s vf page
      Occurs (.responseMapped vf page) s (a.1.foldl (fun s w => retryReq s page w) a.2) ∧ a.2.responses = rest ∧
      findPending a.2 vf page = none) ∧
    (∀ (us own : List Nat), ∀ u ∈ us, ∀ t, s.thread? u = some t →
      ∃ y, (retryReq s page (.threads us own)).thread? u = some y ∧ page ∉ y.heldPages ∧ ∀ q, q ≠ page → (q ∈ y.heldPages ↔ q ∈ t.heldPages)) ∧
    (s.responses = ⟨2, vf, page, 0, code⟩ :: rest →
      let a := takeResponse s vf page
      let c := (a.1.flatMap (reqLaunch a.2)).dedup.foldl (fun s l => serviceEnds s page code a.1 l) a.2
      Occurs (.responseTerminateLaunch vf page code) s (a.1.foldl (fun s w => endReq s page code w) c)) ∧
    (s.responses = ⟨3, vf, page, 0, 0⟩ :: rest →
      let a := takeResponse s vf page
      Occurs (.responseDeliverTrap vf page) s (a.1.foldl (fun s w => denyReq s page w) a.2)) ∧
    (s.responses = ⟨4, vf, page, BitVec.ofNat 64 (n * 2 ^ 16), 0⟩ :: rest →
      Occurs (.responseShootDown vf page n) s (beginShoot { s with responses := rest } vf page n)) ∧
    (∀ x, (s.shoots.find? fun y => y.id == id) = some x →
      Occurs (.shootDownComplete id) s (countDone { shootRange s x.vf x.page x.pages with
        shoots := (shootRange s x.vf x.page x.pages).shoots.filter fun y => y.id != id })) ∧
    (s.responses = ⟨5, vf, page, vaOf (n * 2 ^ 16), 0⟩ :: rest → s.synonyms.length < 4096 →
      (∀ a ∈ s.synonyms, a.vf = vf → a.page ≠ page) →
      Occurs (.responseDeclareAlias vf page n) s (countDone { s with responses := rest, synonyms := s.synonyms ++ [⟨vf, page, n⟩] })) ∧
    (s.responses = ⟨6, vf, page, 0, 0⟩ :: rest →
      Occurs (.responseRemoveAlias vf page) s (beginShoot { s with
        responses := rest, synonyms := s.synonyms.filter fun a => !(a.vf == vf && a.page == page) } vf page 1))

/-- R302–R313, R278–R280, R321–R327, R351–R356, R367, R374: queues, admission, placement, sharing, pre-emption and resumption, launch
requests, suspension, function-level reset, replays and tournament scopes. (The clause on home quads follows the model's reading
of R308, log 22; that a pre-emption's save performs and releases at device scope what the block has issued is its reading, log
19; that a Reach request of a halted function is held, log 28.) -/
def Obligations.PlacementEvents : Prop :=
  ∀ (s s1 s2 : State) (l : Launch) (b : Block) (vf q lid bid n : Nat) (tail : BitVec 32) (bs : List Byte),
    (vf ≤ 96 → q < 16 → Occurs (.queueTailWrite vf q tail) s (setQField s vf q 256 32 tail.toNat) ∧
      (s.bar.wf = true → qField (setQField s vf q 256 32 tail.toNat) vf q 256 32 = tail.toNat)) ∧
    (vf ≤ 96 → q < 16 → Occurs (.queueEnable vf q) s (enableQueue s vf q) ∧ Occurs (.queueDisable vf q) s (disableQueue s vf q)) ∧
    (∀ hs, s.bar.wf = true → queueEnabled s vf q = false → s.boot = .up → queueBad s vf q = false →
      shareTotal s + share s vf q ≤ 96 → assignHomes s (share s vf q) = some hs →
      queueEnabled (enableQueue s vf q) vf q = true ∧ qField (enableQueue s vf q) vf q 129 1 = 0 ∧
      (hs ≠ [] → ⟨vf, q, hs⟩ ∈ (enableQueue s vf q).homes)) ∧
    (s.bar.wf = true → queueEnabled s vf q = false → queueBad s vf q = true →
      queueEnabled (enableQueue s vf q) vf q = false ∧ qField (enableQueue s vf q) vf q 129 1 = 1) ∧
    (∀ hs, assignHomes s n = some hs → hs.length = n ∧ hs.Nodup ∧ ∀ x ∈ hs, x < 96 ∧ ∀ h ∈ s.homes, x ∉ h.quads) ∧
    (vf ≤ 96 → q < 16 → admitDue s vf q = true →
      let t := qField s vf q 224 32
      let slot := t % max (qField s vf q 288 32) 1
      devRead s vf (BitVec.ofNat 64 (qField s vf q 384 64 + 128 * slot)) 128 = (some bs, s1) → admitRecord s1 vf q bs = (n, s2) →
      Occurs (.queueRecordAdmit vf q) s (raiseMsix
        (setQField (devPut s2 vf (BitVec.ofNat 64 (qField s2 vf q 448 64 + 8 * slot)) 8 (n + t * 2 ^ 32) true) vf q 224 32
          ((t + 1) % 2 ^ 32)) vf 0)) ∧
    (∀ room, s.launch? lid = some l → placing s l = some (.held room) → Occurs (.groupPlace lid) s (startGroup s lid room false)) ∧
    (∀ room, s.launch? lid = some l → placing s l = some (.shared room) →
      Occurs (.groupPlace lid) s (startGroup (notePlaces s l room) lid room (inHomes s room))) ∧
    (∀ x o, s.launch? lid = some l → placing s l = some (.slot x o) → Occurs (.groupPlace lid) s (startEntrantBlock s x l o)) ∧
    (∀ o, ((startBlock s l n o l.rcd.vault false).threads.drop s.threads.length).map Thread.tid =
        (List.range l.rcd.ntid).map (fun i => n * l.rcd.ntid + i) ∧
      ∀ t ∈ (startBlock s l n o l.rcd.vault false).threads.drop s.threads.length, t.lid = l.lid ∧ t.life = .parked ∧
        t.hdr = l.rcd.entry ∧ t.preds = 0 ∧ t.stack = l.rcd.stackbase + BitVec.ofNat 64 ((t.tid + 1) * l.rcd.stackbytes) ∧
        ∀ i, t.regs.get i = 0) ∧
    (∀ v, nextVisit s = some v → deficitOf s v ≤ 0 → Occurs .deficitVisit s
      { setDeficit s v (fun d => { d with d := d.d + weightOf s v * 2 ^ 30 }) with visiting := (v + 1) % 97 }) ∧
    (∀ v, nextVisit s = some v → 0 < deficitOf s v → v ≠ s.visiting → Occurs .deficitVisit s { s with visiting := v }) ∧
    (starvationVictim s vf = some b → Occurs (.deficitStarvation vf) s (wantGroups s [groupOf s b])) ∧
    ((∃ t ∈ s.threads, t.bid = bid ∧ t.gate ≠ none) → exec (.blockPreempt bid) s = .next s) ∧
    (s.block? bid = some b → b.wanted = true → b.res = .resident → (scopeLids s b.lid).length ≤ 1 →
      (s.threads.map Thread.uid).Nodup → (∀ t ∈ s.threads, t.bid = bid → t.gate = none) → s.hole = none →
      ∃ z k, exec (.blockPreempt bid) s = .next z ∧ z.block? bid = some k ∧ k.res = .saving ∧ k.wanted = false ∧ z.mem = s.mem ∧
        ∀ t ∈ z.threads, t.bid = bid → t.life ≠ .inSlot) ∧
    (s.block? bid = some b → preemptSaveDue s bid = true →
      let a := release (settleBlock s bid) b.core (vfOf s b.lid) .dv
      ∀ z, exec (.preemptSave bid) s = .next z → (∃ k, z.block? bid = some k ∧ k.res = .saved ∧ k.image = windowImage a b) ∧ z.mem = a.mem) ∧
    (s.block? bid = some b → preemptSaveDue s bid = true →
      (release (settleBlock s bid) b.core (vfOf s b.lid) .dv).hole = none →
      ∃ z, exec (.preemptSave bid) s = .next z) ∧
    (∀ ps, resumeOf s bid = (some ps, s1) → Occurs (.blockResume bid) s (ps.foldl (fun s p => resumeBlock s p.1 p.2) s1)) ∧
    (∀ x : ReachFrom, (s.boot ≠ .up ∨ reachHears s x = false ∨ bs.length ≠ 176 ∨ natAt bs 0 4 ≠ 0x01525652) →
      exec (.reachLaunchRequest x bs) s = .next s) ∧
    (∀ src : ReachFrom, s.boot = .up → reachHears s src = true → bs.length = 176 → natAt bs 0 4 = 0x01525652 →
      let tenant := natAt bs 4 4
      let id := natAt bs 28 4
      let kept := (s.reach.find? fun r => r.tenant == tenant).bind fun r => r.log.find? fun x => x.1 == id
      let answers (z : State) (st : Nat) : Prop :=
        Occurs (.reachLaunchRequest src bs) s (send z (.reach src.addr (reachAnswer id st)))
      (∀ x, kept = some x → answers s x.2) ∧
      (kept = none → findTenant tenant (List.range 256) s = (none, s1) → answers s1 0x0A) ∧
      (∀ y, kept = none → findTenant tenant (List.range 256) s = (some y, s1) →
        (∀ st, reachCheck y bs = some st → answers (keepReach s1 tenant id st) st) ∧
        (reachCheck y bs = none →
          let k : HeldReach := ⟨tenant, id, [src.addr], y.vf, natAt bs 24 1, bs.drop 48⟩
          Occurs (.reachLaunchRequest src bs) s (if fnHalted s1 y.vf then holdReach s1 k else admitReach s1 k)))) ∧
    (vf ≤ 96 → s.boot = .up → Occurs (.functionSuspend vf) s (startTransition (setFn s vf 2 1 1) vf) ∧
      Occurs (.functionResume vf) s (startTransition (setFn s vf 2 1 0) vf)) ∧
    (∀ up, (s.suspending.find? fun x => x.1 == vf) = some (vf, up) → transitionDue s vf = true →
      let a := if up then flushFunction s vf else s
      Occurs (.suspendTransitionComplete vf) s (startTransition (raiseMsix
        (setFn { a with suspending := a.suspending.filter fun x => x.1 != vf } vf 3 1 (if up then 1 else 0)) vf 3) vf)) ∧
    (vf ≤ 96 → Occurs (.functionLevelReset vf) s ((if vf = 0 then List.range 97 else [vf]).foldl resetFunction s)) ∧
    (∀ r, s.replay? n = some r → passStartDue s r = true →
      let a := if r.pass = 0 then flushFunction s r.vf else restorePages (flushFunction s r.vf) r
      let rcd := LaunchRec.ofBytes r.rcd
      recordStatus a r.vf rcd = (0, s1) →
      let c := newLaunch s1 r.vf none (.replay n) rcd []
      Occurs (.replayPassStart n) s
        (updReplay (programCounters c.2 r c.1 r.pass) n fun r => { r with pass := r.pass + 1, child := some c.1 })) ∧
    (∀ r, s.replay? n = some r → passEndDue s r = true → r.isOver = true → Occurs (.replayPassEnd n) s (writeReplay s r)) ∧
    (∀ r, s.replay? n = some r → passEndDue s r = true → r.isOver = false → r.pass ≠ r.passes → r.endCode = 0 → r.tooBig = false →
      (s.replays.map Replay.rid).Nodup →
      let a := cleanFunction s r.vf
      Occurs (.replayPassEnd n) s (updReplay a n fun r => { r with counts := r.counts ++ [passCounts a] })) ∧
    (∀ x, s.scope? n = some x → roundEndDue s x = true →
      let ranked := x.alive.mergeSort (ranksBefore x.rule)
      let out := (ranked.drop (ranked.length - killsOf x ranked.length)).map Entrant.idx
      Occurs (.roundEnd n) s (out.foldl (fun s i => killEntrant s n i) (updScope s n fun y => { y with
        st := 1, order := ranked.map Entrant.idx ++ x.order.filter fun i => !ranked.any fun e => e.idx == i }))) ∧
    (∀ (x : Tourn) k, (x.x = false → killsOf x k = k / 2) ∧ (x.x = true → killsOf x k = k - max 1 ((k * x.keep + 255) / 256))) ∧
    (∀ x, s.scope? n = some x → handoverDue s x = true → x.lost = false → x.writing ≠ 0 →
      Occurs (.tournamentHandover n) s (writeScope s x)) ∧
    (∀ x y, s.scope? n = some x → handoverDue s x = true → x.lost = false → x.writing = 0 →
      let a := updScope (handOver s x) n fun x => { x with writing := 2 }
      a.scope? n = some y → Occurs (.tournamentHandover n) s (writeScope a y))

/-- R361–R382, R281, R282: what the host, the service, the boot ROM, the power system, the fabric and management do, and errors.
(The digest of a firmware key and the order in which slots are tried are the model's reading, log 26; the bytes of the SPDM and
PLDM answers are presumed, log 65; what a quad loses in states 0 and 1 is its reading, log 24; that a port of the fabric which
comes up lets every peer be reached again is its choice, log 25.) -/
def Obligations.OutsideEvents : Prop :=
  ∀ (s s1 : State) (i k port : Nat) (code : Byte) (fail : Option Nat) (val : DWord),
    (s.boot = .up → Occurs .serviceStart s (startService s) ∧ (s.service.inCall = false → (startService s).service.running = true)) ∧
    (s.service.running = true → s.service.pending = true → s.service.inCall = false →
      Occurs .serviceEntryCall s { s with service := { s.service with
        pending := false, inCall := true, a0 := BitVec.ofNat 64 (ctlField s 128 64) } }) ∧
    (s.boot = .off → Occurs (.deviceStart fail) s (startDevice s fail)) ∧
    (3 ≤ s.starts → (startDevice s fail).boot = .minimal) ∧
    (s.starts < 3 → ∀ n, firstGood s.fwSlots = some n → (startDevice s none).boot = .up ∧ (startDevice s none).starts = 0 ∧
      (startDevice s none).fwRunning = n) ∧
    (s.starts < 3 → firstGood s.fwSlots ≠ none → 1 ≤ k → k ≤ 7 → (startDevice s (some k)).boot = .off ∧
      (startDevice s (some k)).starts = s.starts + 1 ∧ (startDevice s (some k)).clock = 0 ∧
      (s.bar.wf = true → barField (startDevice s (some k)) 0 0x2000 0 8 = k)) ∧
    (s.boot = .off → s.starts < 3 → 1 ≤ k → k ≤ 7 → Occurs (.startStageTimeout k) s (failStart { s with starts := s.starts + 1 } 0x08)) ∧
    ((s.boot = .up ∨ s.boot = .minimal) → Occurs .bootRestart s (restartBoot s) ∧ (restartBoot s).boot = .off ∧ (restartBoot s).starts = 0) ∧
    (i < 104 → s.boot = .up → Occurs (.islandCommand i code) s (commandIsland s i code.toNat)) ∧
    (i < 104 → commandRefused (setPwr s (8 * i) 8 k) i k = true → (commandIsland s i k).changes = s.changes) ∧
    (∀ c, (s.changes.find? fun c => c.island == i) = some c → changeDue s i = true →
      let a := if i < 96 && c.code ≤ 1 then quietQuad s i c.code else s
      Occurs (.islandStateChangeDone i) s { setPwr a (832 + 8 * i) 8 c.code with
        changes := (setPwr a (832 + 8 * i) 8 c.code).changes.filter fun x => x.island != i }) ∧
    (i < 104 → s.boot = .up → alarmOn s i = false → Occurs (.powerAlarmAssert (some i)) s (raiseMsix (assertAlarm s i) 0 4)) ∧
    (s.boot = .up → (∃ j < 104, alarmOn s j = false) →
      Occurs (.powerAlarmAssert none) s (raiseMsix ((List.range 104).foldl assertAlarm s) 0 4)) ∧
    (i < 104 → alarmOn s i = true → Occurs (.powerAlarmClear i) s
      { setPwr s (2496 + i) 1 0 with alarms := s.alarms.filter fun a => a.island != i }) ∧
    (alarmDue s i = true →
      let a : State := { s with alarms := s.alarms.map fun a => if a.island == i then { a with expired := true } else a }
      let fb := pwrField a (1664 + 8 * i) 8
      Occurs (.alarmFallbackExpire i) s (if fb < commandedState a i then commandIsland a i fb else a)) ∧
    (i < 2 → i ∉ s.links → Occurs (.pcieLinkUp i) s { s with links := s.links ++ [i] }) ∧
    (i ∈ s.links → s.hole = none → ∃ z, exec (.pcieLinkDown i) s = .next z ∧ z.links = s.links.filter (· != i) ∧ z.mem = s.mem) ∧
    (port < 38 → port ∉ s.ports → Occurs (.fabricPortStateChange port true) s
      (raiseMsix { s with ports := s.ports ++ [port], peersDown := if port < 36 then [] else s.peersDown } 0 6)) ∧
    (port < 38 → port ∈ s.ports → Occurs (.fabricPortStateChange port false) s
      (raiseMsix { s with ports := s.ports.filter (· != port) } 0 6)) ∧
    (∀ q, s.boot = .up → (∀ j < 256, windowFits q (windowAt s j) = false) →
      Occurs (.inboundWindowAccess q) s (send s (.peer q.src [] true))) ∧
    (∀ q x r, s.boot = .up → ((List.range 256).map (windowAt s)).find? (windowFits q) = some x → peerAccess s q x = (some r, s1) →
      Occurs (.inboundWindowAccess q) s (send s1 (.peer q.src r false))) ∧
    (i < 128 → i ∉ s.peersDown → Occurs (.peerTimeout i) s { s with peersDown := s.peersDown ++ [i] }) ∧
    (∀ u : FwUpdate, s.boot ≠ .off →
      (sha256 (bigBytes 384 u.modulus ++ bigBytes 4 u.exponent) = Config.fusedKeyHash →
        rsaVerifies u.modulus u.exponent u.signature (sha256 u.image) = true →
        Occurs (.firmwareUpdate u) s (send { s with
          fwSlots := [⟨sha256 u.image, true⟩, s.fwSlots.getD s.fwRunning ⟨[], false⟩], fwRunning := 1 } (.pldm 0))) ∧
      (rsaVerifies u.modulus u.exponent u.signature (sha256 u.image) = false → Occurs (.firmwareUpdate u) s (send s (.pldm 1)))) ∧
    (∀ nonce, s.boot ≠ .off →
      Occurs (.spdmRequest .capabilities) s (send s (.spdm (bytesOf 4 0x16))) ∧
      Occurs (.spdmRequest .algorithms) s (send s (.spdm (bytesOf 4 4 ++ bytesOf 4 1))) ∧
      Occurs (.spdmRequest (.certificate 0)) s (send s (.spdm Config.identityChain)) ∧
      Occurs (.spdmRequest (.challenge nonce)) s (send s (.spdm (deviceSign nonce))) ∧
      (i ≠ 0xFF → Occurs (.spdmRequest (.measurements i nonce)) s
        (send s (.spdm (measurement s i ++ deviceSign (measurement s i ++ nonce)))))) ∧
    (s.boot ≠ .off → Occurs (.pldmMctpRequest (.softErrors i false)) s (send s (.pldm (barField s 0 (0x40000 + 16 * i) 0 64))) ∧
      Occurs (.pldmMctpRequest (.softErrors i true)) s (send s (.pldm (barField s 0 (0x40000 + 16 * i) 64 64)))) ∧
    (i < 7 → Occurs (.softErrorCorrected ⟨i, none⟩) s (countSoft s i 0)) ∧
    (∀ p, i < 7 → dropSoft s p = some s1 → Occurs (.softErrorCorrected ⟨i, some p⟩) s (countSoft s1 i 0)) ∧
    (∀ b addr, i < 7 → s.block? k = some b → s.launch? b.lid ≠ none → s.hole = none →
      ∃ z, exec (.machineCheck { unit := i, place := .block k, addr := addr }) s = .next z ∧ z.mem = s.mem ∧
        ∀ l, s.launch? b.lid = some l → l.term = none → ∃ l' tm, z.launch? b.lid = some l' ∧ l'.term = some tm ∧ tm.kind = 2 ∧
          tm.code = 0x0C ∧ tm.unit = i ∧ tm.addr = addr ∧ tm.tid = 0xFFFFFFFF) ∧
    (∀ v, Occurs (.memoryScrub v) s s) ∧
    (i ≤ 96 → Occurs (.registerWrite i k val) s (writeRegister s i k val)) ∧
    (i ≤ 96 → k < 8 → (i, k) ∉ s.msixMask → (i, k) ∉ s.msixPend →
      Occurs (.msixVectorUnmask i k) s { s with msixMask := s.msixMask ++ [(i, k)] }) ∧
    (i ≤ 96 → k < 8 → (i, k) ∉ s.msixMask → (i, k) ∈ s.msixPend →
      Occurs (.msixVectorUnmask i k) s { s with
        msixMask := s.msixMask ++ [(i, k)], msixPend := s.msixPend.filter (· != (i, k)), outbox := s.outbox ++ [.msix i k] })

/-! ### Words and steps -/

/-- R9, R57, R85: every well-formed instruction is read back from its encoding, every operand at every value, by the decoder of its
stream; and a word is read as an instruction only if it is exactly that instruction's encoding. -/
def Obligations.EncodingRoundTrip : Prop :=
  (∀ i : Instr, i.wf = true →
    let f := encode i
    (f.op.toNat < 0x180 → decodeThread f.pack = .ok i) ∧
    (0x180 ≤ f.op.toNat → f.op.toNat ≤ 0x19F → decodeStream f.pack = .ok i) ∧ (f.op.toNat ≤ 0x19F ∨ f = { op := 0x1FF })) ∧
  (∀ w i, decodeThread w = .ok i → i.wf = true ∧ (encode i).pack = w ∧ w.extractLsb' 55 9 < 0x180#9) ∧
  (∀ w i, decodeStream w = .ok i → i.wf = true ∧ (encode i).pack = w ∧ 0x180#9 ≤ w.extractLsb' 55 9)

/-- Words that the spec itself writes out (Table 2-10, the worked FFMA of 03, the examples of 05, 06, 07, 08 and 09), dword1 before
dword0, and what they decode to. -/
def Obligations.DecodeSanity : Prop :=
  let p : Pre := { g := Guard.always, stall := 1, yld := false }
  decodeThread (0x0000000008000000#64 ++ 0x1002027180003B80#64) = .ok (.iadd32 { p with stall := 4 } 4 4 (.reg 0xE3)) ∧
  decodeThread (0x0000000002000000#64 ++ 0x7202010000003B80#64) = .ok (.ld32 p 4 2 0 .dflt) ∧
  decodeThread (0x0000000002000000#64 ++ 0x0300000000003B80#64) = .ok (.exit p) ∧
  decodeThread (0x0000002010000000#64 ++ 0x4604010203000B80#64) =
    .ok (.ffmaF64 { g := { Guard.always with g0 := 1 }, stall := 8, yld := false } 8 2 4 6 .rz) ∧
  decodeThread (0x0000030002000000#64 ++ 0x0600000000003B80#64) = .ok (.barSync p 3 0) ∧
  decodeThread (0x0000000702000000#64 ++ 0x6B05020000003B80#64) = .ok (.reduxF32 p 10 4 .add .rn false 0) ∧
  decodeThread (0x0000080002000000#64 ++ 0x7803010200003B85#64) = .ok (.atom32Add p 6 2 8 4 .rlx .dv) ∧
  decodeThread (0x0000000002000000#64 ++ 0x9100000000003B85#64) = .ok (.tload p 5 false 0 0) ∧
  decodeStream (0x0000000000000000#64 ++ 0xC600840000043B91#64) = .ok (.mstrmE4m3 1 8 0 8 1 0 true 0) ∧
  decodeThread (0x0000000002000000#64 ++ 0x0300000000003B81#64) = .error .nonzeroUnused

/-- R85, 02: a step with a course in progress fetches the word at its program counter and runs the instruction that the word decodes
to, or takes the encoding trap; a step with a sequencer in progress does the same for a stream word. A word that the
instruction cache holds is fetched with nothing changed. -/
def Obligations.StepRunsTheWord : Prop :=
  ∀ (s s1 : State) (us : List Nat) (bid : Nat) (w : BitVec 128) (i : Instr) (e : DecodeError),
    (s.cur = .course us → courseFetch s us = (some w, s1) → s1.hole = none → decodeThread w = .ok i → step s = exec i s1) ∧
    (s.cur = .course us → courseFetch s us = (some w, s1) → s1.hole = none → decodeThread w = .error e → step s = trapCourse 0x01 s1) ∧
    (s.cur = .course us → courseFetch s us = (none, s1) → step s = done s1) ∧
    (s.cur = .stream bid → streamFetch s bid = (some w, s1) → s1.hole = none → decodeStream w = .ok i → step s = exec i s1) ∧
    (s.cur = .stream bid → streamFetch s bid = (some w, s1) → s1.hole = none → decodeStream w = .error e → step s = streamBadWord bid s1) ∧
    (s.cur = .stream bid → streamFetch s bid = (none, s1) → step s = done s1) ∧
    (∀ t b lo hi, (us.filterMap s.thread?).head? = some t → s.block? t.bid = some b → Held s b.core (vfOf s t.lid) (wordAt t) lo →
      Held s b.core (vfOf s t.lid) (wordAt t + 8) hi → courseFetch s us = (some (hi ++ lo), s)) ∧
    (∀ b x lo hi, s.block? bid = some b → b.stream = some x → Held s b.core (vfOf s b.lid) x.wordPc lo →
      Held s b.core (vfOf s b.lid) (x.wordPc + 8) hi → streamFetch s bid = (some (hi ++ lo), s))

/-- Every step answers: a next state in which no access has met absent memory, or the fault that names the address of one. No
instruction and no event is refused. (The fault noSuchAddress for memory that the system does not have is the model's reading
of Table 0-1, log 2.) -/
def Obligations.StepAnswers : Prop :=
  (∀ s : State, s.hole = none → (∃ t, step s = .next t ∧ t.hole = none) ∨ ∃ a, step s = .fault (.noSuchAddress a)) ∧
  (∀ (i : Instr) (s : State) (r : Refusal), exec i s ≠ .refused r)

/-- R189, Table 21-10: after reset the time counter is 0 and the fallback bytes hold state 2 for the quads and state 3 for the
uncores. What else stands at reset (no launch, block, thread or engine operation; memory with nothing listed) is the model's
choice (log 1, log 3). -/
def Obligations.ResetState : Prop :=
  let s := State.reset
  s.clock = 0 ∧ (∀ i, i < 96 → barField s 0 0x30000 (1664 + 8 * i) 8 = 2) ∧
  (∀ i, 96 ≤ i → i < 104 → barField s 0 0x30000 (1664 + 8 * i) 8 = 3) ∧
  tablesCanonical s ∧ s.mem = [] ∧ s.hole = none ∧ s.cur = .none ∧ s.boot = .off ∧ s.launches = [] ∧ s.blocks = [] ∧ s.threads = [] ∧
  s.slots = [] ∧ s.ops = [] ∧ (∀ q, q < 16 → ∀ v, v ≤ 96 → queueEnabled s v q = false) ∧ (∀ v, v ≤ 96 → fnField s v 0 1 = 0)
end

