-- ==== Sys2Proof/Laws/Decode.lean ====
section
/-! SUPPORT. One lemma per shape of encoding: reading the fields of an encoded instruction back gives its operands. -/

namespace Sys2Proof.Laws

set_option linter.unusedSimpArgs false

/-! ### Parts of a field put together -/

theorem sl_append_low {n m w lo : Nat} (x : BitVec n) (y : BitVec m) (h : lo + w ≤ m) :
    sl (no_index (x ++ y)) lo w = sl y lo w := by
  unfold sl; ext i hi; simp [BitVec.getLsbD_append]; intro; omega

theorem sl_append_high {n m w lo : Nat} (x : BitVec n) (y : BitVec m) (h : m ≤ lo) :
    sl (no_index (x ++ y)) lo w = sl x (lo - m) w := by
  unfold sl; ext i hi
  simp only [BitVec.getElem_extractLsb', BitVec.getLsbD_append]
  rw [if_neg (by omega)]; congr 1; omega

theorem sl_whole {n : Nat} (x : BitVec n) : sl x 0 n = x := by unfold sl; ext i hi; simp

theorem bit_append_low {n m i : Nat} (x : BitVec n) (y : BitVec m) (h : i < m) :
    (no_index (x ++ y)).getLsbD i = y.getLsbD i := by
  simp [BitVec.getLsbD_append, h]

theorem bit_append_high {n m i : Nat} (x : BitVec n) (y : BitVec m) (h : m ≤ i) :
    (no_index (x ++ y)).getLsbD i = x.getLsbD (i - m) := by
  rw [BitVec.getLsbD_append, if_neg (by omega)]

theorem bit_bit1 (b : Bool) : (bit1 b).getLsbD 0 = b := by cases b <;> rfl

theorem bit_collScope (b : Bool) : (collScope b).getLsbD 1 = b := by cases b <;> rfl

theorem imm48_halves (v : BitVec 48) : (v >>> 24).setWidth 24 ++ v.setWidth 24 = v := by
  apply BitVec.eq_of_getLsbD_eq
  intro i hi
  rw [BitVec.getLsbD_append]
  split
  · simp; omega
  · simp
    have : 24 + (i - 24) = i := by omega
    rw [this]; simp; omega

/-! ### Codes -/

theorem Cmp_of_code (v : Cmp) : Cmp.of? v.code = some v := by cases v <;> rfl
theorem FCmp_of_code (v : FCmp) : FCmp.of v.code = v := by cases v <;> rfl
theorem EngClass_of_code (v : EngClass) : EngClass.of? v.code = some v := by cases v <;> rfl
theorem SatMode_of_code (v : SatMode) : SatMode.of? v.code = some v := by cases v <;> rfl
theorem PlogOp_of_code (v : PlogOp) : PlogOp.of? v.code = some v := by cases v <;> rfl
theorem VoteMode_of_code (v : VoteMode) : VoteMode.of v.code = v := by cases v <;> rfl
theorem RedOp_of_code (v : RedOp) : RedOp.of v.code = v := by cases v <;> rfl
theorem FRedOp_of_code (v : FRedOp) : FRedOp.of? v.code = some v := by cases v <;> rfl
theorem CctlOp_of_code (v : CctlOp) : CctlOp.of? v.code = some v := by cases v <;> rfl
theorem MxFmt_of_code (v : MxFmt) : MxFmt.of? v.code = some v := by cases v <;> rfl
theorem SlSel_of_code (v : SlSel) : SlSel.of? v.code = some v := by cases v <;> rfl
theorem CredOp_of_code (v : CredOp) : CredOp.of? v.code = some v := by cases v <;> rfl
theorem CredTy_of_code (v : CredTy) : CredTy.of? v.code = some v := by cases v <;> rfl
theorem MKind_of_code (v : MKind) : MKind.of? v.code = some v := by cases v <;> rfl
theorem ChainFmt_of_code (v : ChainFmt) : ChainFmt.of? v.code = some v := by cases v <;> rfl
theorem Rm_of_code (v : Rm) : Rm.of? v.code = some v := by cases v <;> rfl
theorem Hint_of_code (v : Hint) : Hint.of? v.code = some v := by cases v <;> rfl
theorem Scope_of_code (v : Scope) : Scope.of? v.code = some v := by cases v <;> rfl
theorem Sem_of_code (v : Sem) : Sem.of v.code = v := by cases v <;> rfl

/-! ### Sources -/

theorem withSrcB_op (f : Fields) (b : Src) (e : BitVec 4) : (withSrcB f b e).op = f.op := by cases b <;> rfl

/-! ### Words -/

theorem enUdf_op (hi : BitVec 55) (lo : BitVec 64) : (enUdf hi lo).op = 0x012#9 := by
  simp only [enUdf, Fields.unpack]
  apply BitVec.eq_of_getLsbD_eq
  intro i h
  simp only [BitVec.getLsbD_extractLsb', BitVec.getLsbD_append, h]
  simp only [decide_true, Bool.true_and]
  rw [if_pos (by omega), if_neg (by omega)]
  congr 1; omega

theorem deA_enA (k : Pre → Reg → Instr) (op : BitVec 9) (p : Pre) (a : Reg) :
    deA k (enA op p a) = some (k p a) := by
  simp (disch := decide) only [deA, Fields.pre, enA, enP, sl_append_low, sl_append_high, sl_whole, bit_append_low, bit_append_high, bit_bit1, Nat.sub_self, Nat.reduceSub, Nat.reduceAdd]
theorem enA_op (op : BitVec 9) (p : Pre) (a : Reg) : (enA op p a).op = op := by rfl
theorem deAB_enAB (k : Pre → Reg → BitVec 24 → Reg → Instr) (op : BitVec 9) (p : Pre) (a : Reg) (off : BitVec 24) (b : Reg) :
    deAB k (enAB op p a off b) = some (k p a off b) := by
  simp (disch := decide) only [deAB, Fields.pre, enAB, enAmem, enP, sl_append_low, sl_append_high, sl_whole, bit_append_low, bit_append_high, bit_bit1, Nat.sub_self, Nat.reduceSub, Nat.reduceAdd]
theorem enAB_op (op : BitVec 9) (p : Pre) (a : Reg) (off : BitVec 24) (b : Reg) : (enAB op p a off b).op = op := by rfl
theorem deABCE_enABCE (k : Pre → Reg → BitVec 24 → Reg → Reg → Reg → Instr) (op : BitVec 9) (p : Pre) (a : Reg) (off : BitVec 24) (b : Reg) (c : Reg) (e : Reg) :
    deABCE k (enABCE op p a off b c e) = some (k p a off b c e) := by
  simp (disch := decide) only [deABCE, Fields.pre, enABCE, enAB, enAmem, enP, sl_append_low, sl_append_high, sl_whole, bit_append_low, bit_append_high, bit_bit1, Nat.sub_self, Nat.reduceSub, Nat.reduceAdd]
theorem enABCE_op (op : BitVec 9) (p : Pre) (a : Reg) (off : BitVec 24) (b : Reg) (c : Reg) (e : Reg) : (enABCE op p a off b c e).op = op := by rfl
theorem deAH_enAH (k : Pre → Reg → BitVec 24 → Hint → Instr) (op : BitVec 9) (p : Pre) (a : Reg) (off : BitVec 24) (h : Hint) :
    deAH k (enAH op p a off h) = some (k p a off h) := by
  simp (disch := decide) only [deAH, Fields.hint?, Fields.hint, Fields.pre, enAH, enAmem, enP, sl_append_low, sl_append_high, sl_whole, bit_append_low, bit_append_high, bit_bit1, Nat.sub_self, Nat.reduceSub, Nat.reduceAdd, Option.map_some, Option.bind_some, Hint_of_code]
theorem enAH_op (op : BitVec 9) (p : Pre) (a : Reg) (off : BitVec 24) (h : Hint) : (enAH op p a off h).op = op := by rfl
theorem deAX_enAX (k : Pre → Reg → BitVec 24 → Bool → Instr) (op : BitVec 9) (p : Pre) (a : Reg) (off : BitVec 24) (x : Bool) :
    deAX k (enAX op p a off x) = some (k p a off x) := by
  simp (disch := decide) only [deAX, Fields.pre, Fields.x4, enAX, enAmem, enP, sl_append_low, sl_append_high, sl_whole, bit_append_low, bit_append_high, bit_bit1, Nat.sub_self, Nat.reduceSub, Nat.reduceAdd]
theorem enAX_op (op : BitVec 9) (p : Pre) (a : Reg) (off : BitVec 24) (x : Bool) : (enAX op p a off x).op = op := by rfl
theorem deAddc_enAddc (k : Pre → Reg → Reg → Src → BitVec 3 → BitVec 3 → Bool → Instr) (op : BitVec 9) (p : Pre) (d : Reg) (a : Reg) (b : Src) (pd : BitVec 3) (ps : BitVec 3) (nps : Bool) :
    deAddc k (enAddc op p d a b pd ps nps) = some (k p d a b pd ps nps) := by
  cases b <;> simp (disch := decide) only [deAddc, Fields.pre, Fields.srcB, Fields.pd, Fields.pd1, enAddc, withSrcB, enP, sl_append_low, sl_append_high, sl_whole, bit_append_low, bit_append_high, bit_bit1, Nat.sub_self, Nat.reduceSub, Nat.reduceAdd, BitVec.reduceGetLsb, reduceIte, Bool.false_eq_true]
theorem enAddc_op (op : BitVec 9) (p : Pre) (d : Reg) (a : Reg) (b : Src) (pd : BitVec 3) (ps : BitVec 3) (nps : Bool) : (enAddc op p d a b pd ps nps).op = op := by cases b <;> rfl
theorem deAmem_enAmem (k : Pre → Reg → BitVec 24 → Instr) (op : BitVec 9) (p : Pre) (a : Reg) (off : BitVec 24) :
    deAmem k (enAmem op p a off) = some (k p a off) := by
  simp (disch := decide) only [deAmem, Fields.pre, enAmem, enP, sl_append_low, sl_append_high, sl_whole, bit_append_low, bit_append_high, bit_bit1, Nat.sub_self, Nat.reduceSub, Nat.reduceAdd]
theorem enAmem_op (op : BitVec 9) (p : Pre) (a : Reg) (off : BitVec 24) : (enAmem op p a off).op = op := by rfl
theorem deAsave_enAsave (k : BitVec 8 → BitVec 2 → Bool → Bool → BitVec 24 → Instr) (op : BitVec 9) (d : BitVec 8) (j : BitVec 2) (lc : Bool) (q : Bool) (off : BitVec 24) :
    deAsave k (enAsave op d j lc q off) = some (k d j lc q off) := by
  simp (disch := decide) only [deAsave, enAsave, enX, sl_append_low, sl_append_high, sl_whole, bit_append_low, bit_append_high, bit_bit1, Nat.sub_self, Nat.reduceSub, Nat.reduceAdd]
theorem enAsave_op (op : BitVec 9) (d : BitVec 8) (j : BitVec 2) (lc : Bool) (q : Bool) (off : BitVec 24) : (enAsave op d j lc q off).op = op := by rfl
theorem deAtom_enAtom (k : Pre → Reg → Reg → BitVec 24 → Reg → Sem → Scope → Instr) (op : BitVec 9) (p : Pre) (d : Reg) (a : Reg) (off : BitVec 24) (b : Reg) (sem : Sem) (sc : Scope) :
    deAtom k (enAtom op p d a off b sem sc) = some (k p d a off b sem sc) := by
  simp (disch := decide) only [deAtom, Fields.sc?, Fields.pre, Fields.sem, enAtom, enStr, enAmem, enP, semScope, sl_append_low, sl_append_high, sl_whole, bit_append_low, bit_append_high, bit_bit1, Nat.sub_self, Nat.reduceSub, Nat.reduceAdd, Option.map_some, Option.bind_some, Scope_of_code, Sem_of_code]
theorem enAtom_op (op : BitVec 9) (p : Pre) (d : Reg) (a : Reg) (off : BitVec 24) (b : Reg) (sem : Sem) (sc : Scope) : (enAtom op p d a off b sem sc).op = op := by rfl
theorem deAtomF_enAtomF (k : Pre → Reg → Reg → BitVec 24 → Reg → Rm → Sem → Scope → Instr) (op : BitVec 9) (p : Pre) (d : Reg) (a : Reg) (off : BitVec 24) (b : Reg) (rm : Rm) (sem : Sem) (sc : Scope) :
    deAtomF k (enAtomF op p d a off b rm sem sc) = some (k p d a off b rm sem sc) := by
  simp (disch := decide) only [deAtomF, Fields.sc?, Fields.rm?, Fields.rm, Fields.pre, Fields.sem, enAtomF, enAtom, enStr, enAmem, enP, semScope, sl_append_low, sl_append_high, sl_whole, bit_append_low, bit_append_high, bit_bit1, Nat.sub_self, Nat.reduceSub, Nat.reduceAdd, Option.map_some, Option.bind_some, Rm_of_code, Scope_of_code, Sem_of_code]
theorem enAtomF_op (op : BitVec 9) (p : Pre) (d : Reg) (a : Reg) (off : BitVec 24) (b : Reg) (rm : Rm) (sem : Sem) (sc : Scope) : (enAtomF op p d a off b rm sem sc).op = op := by rfl
theorem deBarArr_enBarArr (k : Pre → Reg → BitVec 4 → BitVec 11 → Instr) (op : BitVec 9) (p : Pre) (d : Reg) (b : BitVec 4) (c : BitVec 11) :
    deBarArr k (enBarArr op p d b c) = some (k p d b c) := by
  simp (disch := decide) only [deBarArr, Fields.pre, enBarArr, enP, sl_append_low, sl_append_high, sl_whole, bit_append_low, bit_append_high, bit_bit1, Nat.sub_self, Nat.reduceSub, Nat.reduceAdd]
theorem enBarArr_op (op : BitVec 9) (p : Pre) (d : Reg) (b : BitVec 4) (c : BitVec 11) : (enBarArr op p d b c).op = op := by rfl
theorem deBarSync_enBarSync (k : Pre → BitVec 4 → BitVec 11 → Instr) (op : BitVec 9) (p : Pre) (b : BitVec 4) (c : BitVec 11) :
    deBarSync k (enBarSync op p b c) = some (k p b c) := by
  simp (disch := decide) only [deBarSync, Fields.pre, enBarSync, enP, sl_append_low, sl_append_high, sl_whole, bit_append_low, bit_append_high, bit_bit1, Nat.sub_self, Nat.reduceSub, Nat.reduceAdd]
theorem enBarSync_op (op : BitVec 9) (p : Pre) (b : BitVec 4) (c : BitVec 11) : (enBarSync op p b c).op = op := by rfl
theorem deBarWait_enBarWait (k : Pre → Reg → BitVec 4 → Instr) (op : BitVec 9) (p : Pre) (a : Reg) (b : BitVec 4) :
    deBarWait k (enBarWait op p a b) = some (k p a b) := by
  simp (disch := decide) only [deBarWait, Fields.pre, enBarWait, enP, sl_append_low, sl_append_high, sl_whole, bit_append_low, bit_append_high, bit_bit1, Nat.sub_self, Nat.reduceSub, Nat.reduceAdd]
theorem enBarWait_op (op : BitVec 9) (p : Pre) (a : Reg) (b : BitVec 4) : (enBarWait op p a b).op = op := by rfl
theorem deBrt_enBrt (k : Pre → Reg → Reg → BitVec 24 → Hint → Instr) (op : BitVec 9) (p : Pre) (a : Reg) (b : Reg) (n : BitVec 24) (h : Hint) :
    deBrt k (enBrt op p a b n h) = some (k p a b n h) := by
  simp (disch := decide) only [deBrt, Fields.hint?, Fields.hint, Fields.pre, enBrt, enP, sl_append_low, sl_append_high, sl_whole, bit_append_low, bit_append_high, bit_bit1, Nat.sub_self, Nat.reduceSub, Nat.reduceAdd, Option.map_some, Option.bind_some, Hint_of_code]
theorem enBrt_op (op : BitVec 9) (p : Pre) (a : Reg) (b : Reg) (n : BitVec 24) (h : Hint) : (enBrt op p a b n h).op = op := by rfl
theorem deCas_enCas (k : Pre → Reg → Reg → BitVec 24 → Reg → Reg → Sem → Scope → Instr) (op : BitVec 9) (p : Pre) (d : Reg) (a : Reg) (off : BitVec 24) (b : Reg) (c : Reg) (sem : Sem) (sc : Scope) :
    deCas k (enCas op p d a off b c sem sc) = some (k p d a off b c sem sc) := by
  simp (disch := decide) only [deCas, Fields.sc?, Fields.pre, Fields.sem, enCas, enAtom, enStr, enAmem, enP, semScope, sl_append_low, sl_append_high, sl_whole, bit_append_low, bit_append_high, bit_bit1, Nat.sub_self, Nat.reduceSub, Nat.reduceAdd, Option.map_some, Option.bind_some, Scope_of_code, Sem_of_code]
theorem enCas_op (op : BitVec 9) (p : Pre) (d : Reg) (a : Reg) (off : BitVec 24) (b : Reg) (c : Reg) (sem : Sem) (sc : Scope) : (enCas op p d a off b c sem sc).op = op := by rfl
theorem deCctl_enCctl (k : Pre → CctlOp → Bool → Reg → BitVec 24 → Instr) (op : BitVec 9) (p : Pre) (o : CctlOp) (lvl2 : Bool) (a : Reg) (off : BitVec 24) :
    deCctl k (enCctl op p o lvl2 a off) = some (k p o lvl2 a off) := by
  simp (disch := decide) only [deCctl, Fields.pd, Fields.pre, enCctl, enAmem, enP, sl_append_low, sl_append_high, sl_whole, bit_append_low, bit_append_high, bit_bit1, Nat.sub_self, Nat.reduceSub, Nat.reduceAdd, Option.map_some, Option.bind_some, CctlOp_of_code]
theorem enCctl_op (op : BitVec 9) (p : Pre) (o : CctlOp) (lvl2 : Bool) (a : Reg) (off : BitVec 24) : (enCctl op p o lvl2 a off).op = op := by rfl
theorem deColl_enColl (k : Pre → Reg → BitVec 24 → Bool → Bool → Instr) (op : BitVec 9) (p : Pre) (a : Reg) (off : BitVec 24) (sy : Bool) (x : Bool) :
    deColl k (enColl op p a off sy x) = some (k p a off sy x) := by
  simp (disch := decide) only [deColl, Fields.pre, Fields.x4, enColl, enAmem, enP, sl_append_low, sl_append_high, sl_whole, bit_append_low, bit_append_high, bit_bit1, Nat.sub_self, Nat.reduceSub, Nat.reduceAdd, bit_collScope]
theorem enColl_op (op : BitVec 9) (p : Pre) (a : Reg) (off : BitVec 24) (sy : Bool) (x : Bool) : (enColl op p a off sy x).op = op := by rfl
theorem deCred_enCred (k : Pre → Reg → BitVec 24 → CredOp → CredTy → Bool → Bool → Instr) (op : BitVec 9) (p : Pre) (a : Reg) (off : BitVec 24) (o : CredOp) (ty : CredTy) (sy : Bool) (x : Bool) :
    deCred k (enCred op p a off o ty sy x) = some (k p a off o ty sy x) := by
  simp (disch := decide) only [deCred, Fields.pd, Fields.pre, Fields.x4, enCred, enColl, enAmem, enP, sl_append_low, sl_append_high, sl_whole, bit_append_low, bit_append_high, bit_bit1, Nat.sub_self, Nat.reduceSub, Nat.reduceAdd, bit_collScope, Option.map_some, Option.bind_some, CredOp_of_code, CredTy_of_code]
theorem enCred_op (op : BitVec 9) (p : Pre) (a : Reg) (off : BitVec 24) (o : CredOp) (ty : CredTy) (sy : Bool) (x : Bool) : (enCred op p a off o ty sy x).op = op := by rfl
theorem deD_enD (k : Pre → Reg → Instr) (op : BitVec 9) (p : Pre) (d : Reg) :
    deD k (enD op p d) = some (k p d) := by
  simp (disch := decide) only [deD, Fields.pre, enD, enP, sl_append_low, sl_append_high, sl_whole, bit_append_low, bit_append_high, bit_bit1, Nat.sub_self, Nat.reduceSub, Nat.reduceAdd]
theorem enD_op (op : BitVec 9) (p : Pre) (d : Reg) : (enD op p d).op = op := by rfl
theorem deDA_enDA (k : Pre → Reg → Reg → BitVec 24 → Instr) (op : BitVec 9) (p : Pre) (d : Reg) (a : Reg) (off : BitVec 24) :
    deDA k (enDA op p d a off) = some (k p d a off) := by
  simp (disch := decide) only [deDA, Fields.pre, enDA, enAmem, enP, sl_append_low, sl_append_high, sl_whole, bit_append_low, bit_append_high, bit_bit1, Nat.sub_self, Nat.reduceSub, Nat.reduceAdd]
theorem enDA_op (op : BitVec 9) (p : Pre) (d : Reg) (a : Reg) (off : BitVec 24) : (enDA op p d a off).op = op := by rfl
theorem deDAB_enDAB (k : Pre → Reg → Reg → BitVec 24 → Reg → Instr) (op : BitVec 9) (p : Pre) (d : Reg) (a : Reg) (off : BitVec 24) (b : Reg) :
    deDAB k (enDAB op p d a off b) = some (k p d a off b) := by
  simp (disch := decide) only [deDAB, Fields.pre, enDAB, enDA, enAmem, enP, sl_append_low, sl_append_high, sl_whole, bit_append_low, bit_append_high, bit_bit1, Nat.sub_self, Nat.reduceSub, Nat.reduceAdd]
theorem enDAB_op (op : BitVec 9) (p : Pre) (d : Reg) (a : Reg) (off : BitVec 24) (b : Reg) : (enDAB op p d a off b).op = op := by rfl
theorem deDH_enDH (k : Pre → Reg → BitVec 6 → Instr) (op : BitVec 9) (p : Pre) (d : Reg) (h : BitVec 6) :
    deDH k (enDH op p d h) = some (k p d h) := by
  simp (disch := decide) only [deDH, Fields.pre, enDH, enP, sl_append_low, sl_append_high, sl_whole, bit_append_low, bit_append_high, bit_bit1, Nat.sub_self, Nat.reduceSub, Nat.reduceAdd]
theorem enDH_op (op : BitVec 9) (p : Pre) (d : Reg) (h : BitVec 6) : (enDH op p d h).op = op := by rfl
theorem deFC_enFC (k : Pre → FCmp → BitVec 3 → Reg → Reg → Bool → Instr) (op : BitVec 9) (p : Pre) (cmp : FCmp) (pd : BitVec 3) (a : Reg) (b : Reg) (sig : Bool) :
    deFC k (enFC op p cmp pd a b sig) = some (k p cmp pd a b sig) := by
  simp (disch := decide) only [deFC, Fields.pre, Fields.pd, enFC, enFCz, enP, sl_append_low, sl_append_high, sl_whole, bit_append_low, bit_append_high, bit_bit1, Nat.sub_self, Nat.reduceSub, Nat.reduceAdd, FCmp_of_code]
theorem enFC_op (op : BitVec 9) (p : Pre) (cmp : FCmp) (pd : BitVec 3) (a : Reg) (b : Reg) (sig : Bool) : (enFC op p cmp pd a b sig).op = op := by rfl
theorem deFCz_enFCz (k : Pre → FCmp → BitVec 3 → Reg → Reg → Bool → Bool → Instr) (op : BitVec 9) (p : Pre) (cmp : FCmp) (pd : BitVec 3) (a : Reg) (b : Reg) (sig : Bool) (ftz : Bool) :
    deFCz k (enFCz op p cmp pd a b sig ftz) = some (k p cmp pd a b sig ftz) := by
  simp (disch := decide) only [deFCz, Fields.pre, Fields.pd, Fields.x4, enFCz, enP, sl_append_low, sl_append_high, sl_whole, bit_append_low, bit_append_high, bit_bit1, Nat.sub_self, Nat.reduceSub, Nat.reduceAdd, FCmp_of_code]
theorem enFCz_op (op : BitVec 9) (p : Pre) (cmp : FCmp) (pd : BitVec 3) (a : Reg) (b : Reg) (sig : Bool) (ftz : Bool) : (enFCz op p cmp pd a b sig ftz).op = op := by rfl
theorem deFRR_enFRR (k : Pre → Reg → Reg → Reg → Rm → Instr) (op : BitVec 9) (p : Pre) (d : Reg) (a : Reg) (b : Reg) (rm : Rm) :
    deFRR k (enFRR op p d a b rm) = some (k p d a b rm) := by
  simp (disch := decide) only [deFRR, Fields.rm?, Fields.rm, Fields.pre, enFRR, enFRRz, enP, sl_append_low, sl_append_high, sl_whole, bit_append_low, bit_append_high, bit_bit1, Nat.sub_self, Nat.reduceSub, Nat.reduceAdd, Option.map_some, Option.bind_some, Rm_of_code]
theorem enFRR_op (op : BitVec 9) (p : Pre) (d : Reg) (a : Reg) (b : Reg) (rm : Rm) : (enFRR op p d a b rm).op = op := by rfl
theorem deFRRR_enFRRR (k : Pre → Reg → Reg → Reg → Reg → Rm → Instr) (op : BitVec 9) (p : Pre) (d : Reg) (a : Reg) (b : Reg) (c : Reg) (rm : Rm) :
    deFRRR k (enFRRR op p d a b c rm) = some (k p d a b c rm) := by
  simp (disch := decide) only [deFRRR, Fields.rm?, Fields.rm, Fields.pre, enFRRR, enFRRRz, enFRRz, enP, sl_append_low, sl_append_high, sl_whole, bit_append_low, bit_append_high, bit_bit1, Nat.sub_self, Nat.reduceSub, Nat.reduceAdd, Option.map_some, Option.bind_some, Rm_of_code]
theorem enFRRR_op (op : BitVec 9) (p : Pre) (d : Reg) (a : Reg) (b : Reg) (c : Reg) (rm : Rm) : (enFRRR op p d a b c rm).op = op := by rfl
theorem deFRRRz_enFRRRz (k : Pre → Reg → Reg → Reg → Reg → Rm → Bool → Instr) (op : BitVec 9) (p : Pre) (d : Reg) (a : Reg) (b : Reg) (c : Reg) (rm : Rm) (ftz : Bool) :
    deFRRRz k (enFRRRz op p d a b c rm ftz) = some (k p d a b c rm ftz) := by
  simp (disch := decide) only [deFRRRz, Fields.rm?, Fields.rm, Fields.pre, Fields.x4, enFRRRz, enFRRz, enP, sl_append_low, sl_append_high, sl_whole, bit_append_low, bit_append_high, bit_bit1, Nat.sub_self, Nat.reduceSub, Nat.reduceAdd, Option.map_some, Option.bind_some, Rm_of_code]
theorem enFRRRz_op (op : BitVec 9) (p : Pre) (d : Reg) (a : Reg) (b : Reg) (c : Reg) (rm : Rm) (ftz : Bool) : (enFRRRz op p d a b c rm ftz).op = op := by rfl
theorem deFRRz_enFRRz (k : Pre → Reg → Reg → Reg → Rm → Bool → Instr) (op : BitVec 9) (p : Pre) (d : Reg) (a : Reg) (b : Reg) (rm : Rm) (ftz : Bool) :
    deFRRz k (enFRRz op p d a b rm ftz) = some (k p d a b rm ftz) := by
  simp (disch := decide) only [deFRRz, Fields.rm?, Fields.rm, Fields.pre, Fields.x4, enFRRz, enP, sl_append_low, sl_append_high, sl_whole, bit_append_low, bit_append_high, bit_bit1, Nat.sub_self, Nat.reduceSub, Nat.reduceAdd, Option.map_some, Option.bind_some, Rm_of_code]
theorem enFRRz_op (op : BitVec 9) (p : Pre) (d : Reg) (a : Reg) (b : Reg) (rm : Rm) (ftz : Bool) : (enFRRz op p d a b rm ftz).op = op := by rfl
theorem deFU_enFU (k : Pre → Reg → Reg → Rm → Instr) (op : BitVec 9) (p : Pre) (d : Reg) (a : Reg) (rm : Rm) :
    deFU k (enFU op p d a rm) = some (k p d a rm) := by
  simp (disch := decide) only [deFU, Fields.rm?, Fields.rm, Fields.pre, enFU, enFRRz, enP, sl_append_low, sl_append_high, sl_whole, bit_append_low, bit_append_high, bit_bit1, Nat.sub_self, Nat.reduceSub, Nat.reduceAdd, Option.map_some, Option.bind_some, Rm_of_code]
theorem enFU_op (op : BitVec 9) (p : Pre) (d : Reg) (a : Reg) (rm : Rm) : (enFU op p d a rm).op = op := by rfl
theorem deFUz_enFUz (k : Pre → Reg → Reg → Rm → Bool → Instr) (op : BitVec 9) (p : Pre) (d : Reg) (a : Reg) (rm : Rm) (ftz : Bool) :
    deFUz k (enFUz op p d a rm ftz) = some (k p d a rm ftz) := by
  simp (disch := decide) only [deFUz, Fields.rm?, Fields.rm, Fields.pre, Fields.x4, enFUz, enFRRz, enP, sl_append_low, sl_append_high, sl_whole, bit_append_low, bit_append_high, bit_bit1, Nat.sub_self, Nat.reduceSub, Nat.reduceAdd, Option.map_some, Option.bind_some, Rm_of_code]
theorem enFUz_op (op : BitVec 9) (p : Pre) (d : Reg) (a : Reg) (rm : Rm) (ftz : Bool) : (enFUz op p d a rm ftz).op = op := by rfl
theorem deFence_enFence (k : Pre → Sem → Scope → Instr) (op : BitVec 9) (p : Pre) (sem : Sem) (sc : Scope) :
    deFence k (enFence op p sem sc) = some (k p sem sc) := by
  simp (disch := decide) only [deFence, Fields.sc?, Fields.pre, Fields.sem, enFence, enP, semScope, sl_append_low, sl_append_high, sl_whole, bit_append_low, bit_append_high, bit_bit1, Nat.sub_self, Nat.reduceSub, Nat.reduceAdd, Option.map_some, Option.bind_some, Scope_of_code, Sem_of_code]
theorem enFence_op (op : BitVec 9) (p : Pre) (sem : Sem) (sc : Scope) : (enFence op p sem sc).op = op := by rfl
theorem deH_enH (k : Pre → BitVec 6 → Instr) (op : BitVec 9) (p : Pre) (h : BitVec 6) :
    deH k (enH op p h) = some (k p h) := by
  simp (disch := decide) only [deH, Fields.pre, enH, enP, sl_append_low, sl_append_high, sl_whole, bit_append_low, bit_append_high, bit_bit1, Nat.sub_self, Nat.reduceSub, Nat.reduceAdd]
theorem enH_op (op : BitVec 9) (p : Pre) (h : BitVec 6) : (enH op p h).op = op := by rfl
theorem deIcmp_enIcmp (k : Pre → Cmp → BitVec 3 → Reg → Src → Instr) (op : BitVec 9) (p : Pre) (cmp : Cmp) (pd : BitVec 3) (a : Reg) (b : Src) :
    deIcmp k (enIcmp op p cmp pd a b) = some (k p cmp pd a b) := by
  cases b <;> simp (disch := decide) only [deIcmp, Fields.cmp?, Fields.pre, Fields.pd, Fields.srcB, enIcmp, withSrcB, enP, sl_append_low, sl_append_high, sl_whole, bit_append_low, bit_append_high, bit_bit1, Nat.sub_self, Nat.reduceSub, Nat.reduceAdd, BitVec.reduceGetLsb, reduceIte, Bool.false_eq_true, Option.map_some, Option.bind_some, Cmp_of_code]
theorem enIcmp_op (op : BitVec 9) (p : Pre) (cmp : Cmp) (pd : BitVec 3) (a : Reg) (b : Src) : (enIcmp op p cmp pd a b).op = op := by cases b <;> rfl
theorem deIpick_enIpick (k : Pre → Reg → Reg → Src → BitVec 3 → Bool → Instr) (op : BitVec 9) (p : Pre) (d : Reg) (a : Reg) (b : Src) (ps : BitVec 3) (nps : Bool) :
    deIpick k (enIpick op p d a b ps nps) = some (k p d a b ps nps) := by
  cases b <;> simp (disch := decide) only [deIpick, Fields.pre, Fields.srcB, Fields.pd1, enIpick, withSrcB, enP, sl_append_low, sl_append_high, sl_whole, bit_append_low, bit_append_high, bit_bit1, Nat.sub_self, Nat.reduceSub, Nat.reduceAdd, BitVec.reduceGetLsb, reduceIte, Bool.false_eq_true]
theorem enIpick_op (op : BitVec 9) (p : Pre) (d : Reg) (a : Reg) (b : Src) (ps : BitVec 3) (nps : Bool) : (enIpick op p d a b ps nps).op = op := by cases b <;> rfl
theorem deLd_enLd (k : Pre → Reg → Reg → BitVec 24 → Hint → Instr) (op : BitVec 9) (p : Pre) (d : Reg) (a : Reg) (off : BitVec 24) (h : Hint) :
    deLd k (enLd op p d a off h) = some (k p d a off h) := by
  simp (disch := decide) only [deLd, Fields.hint?, Fields.hint, Fields.pre, enLd, enAH, enAmem, enP, sl_append_low, sl_append_high, sl_whole, bit_append_low, bit_append_high, bit_bit1, Nat.sub_self, Nat.reduceSub, Nat.reduceAdd, Option.map_some, Option.bind_some, Hint_of_code]
theorem enLd_op (op : BitVec 9) (p : Pre) (d : Reg) (a : Reg) (off : BitVec 24) (h : Hint) : (enLd op p d a off h).op = op := by rfl
theorem deLda_enLda (k : Pre → Reg → Reg → BitVec 24 → Sem → Scope → Instr) (op : BitVec 9) (p : Pre) (d : Reg) (a : Reg) (off : BitVec 24) (sem : Sem) (sc : Scope) :
    deLda k (enLda op p d a off sem sc) = some (k p d a off sem sc) := by
  simp (disch := decide) only [deLda, Fields.sc?, Fields.pre, Fields.sem, enLda, enAmem, enP, semScope, sl_append_low, sl_append_high, sl_whole, bit_append_low, bit_append_high, bit_bit1, Nat.sub_self, Nat.reduceSub, Nat.reduceAdd, Option.map_some, Option.bind_some, Scope_of_code, Sem_of_code]
theorem enLda_op (op : BitVec 9) (p : Pre) (d : Reg) (a : Reg) (off : BitVec 24) (sem : Sem) (sc : Scope) : (enLda op p d a off sem sc).op = op := by rfl
theorem deLdl_enLdl (k : Pre → Reg → Bool → Reg → BitVec 24 → Hint → Instr) (op : BitVec 9) (p : Pre) (d : Reg) (idx : Bool) (a : Reg) (off : BitVec 24) (h : Hint) :
    deLdl k (enLdl op p d idx a off h) = some (k p d idx a off h) := by
  simp (disch := decide) only [deLdl, Fields.hint?, Fields.hint, Fields.pre, enLdl, enLd, enAH, enAmem, enP, sl_append_low, sl_append_high, sl_whole, bit_append_low, bit_append_high, bit_bit1, Nat.sub_self, Nat.reduceSub, Nat.reduceAdd, Option.map_some, Option.bind_some, Hint_of_code]
theorem enLdl_op (op : BitVec 9) (p : Pre) (d : Reg) (idx : Bool) (a : Reg) (off : BitVec 24) (h : Hint) : (enLdl op p d idx a off h).op = op := by rfl
theorem deLdnf_enLdnf (k : Pre → Reg → BitVec 2 → Reg → BitVec 24 → BitVec 3 → Hint → Instr) (op : BitVec 9) (p : Pre) (d : Reg) (w : BitVec 2) (a : Reg) (off : BitVec 24) (pd : BitVec 3) (h : Hint) :
    deLdnf k (enLdnf op p d w a off pd h) = some (k p d w a off pd h) := by
  simp (disch := decide) only [deLdnf, Fields.hint?, Fields.hint, Fields.pre, Fields.pd1, enLdnf, enLd, enAH, enAmem, enP, sl_append_low, sl_append_high, sl_whole, bit_append_low, bit_append_high, bit_bit1, Nat.sub_self, Nat.reduceSub, Nat.reduceAdd, Option.map_some, Option.bind_some, Hint_of_code]
theorem enLdnf_op (op : BitVec 9) (p : Pre) (d : Reg) (w : BitVec 2) (a : Reg) (off : BitVec 24) (pd : BitVec 3) (h : Hint) : (enLdnf op p d w a off pd h).op = op := by rfl
theorem deLea_enLea (k : Pre → Reg → Reg → Bool → BitVec 48 → Instr) (op : BitVec 9) (p : Pre) (d : Reg) (a : Reg) (pcrel : Bool) (imm : BitVec 48) :
    deLea k (enLea op p d a pcrel imm) = some (k p d a pcrel imm) := by
  simp (disch := decide) only [deLea, Fields.pre, Fields.imm48, enLea, enMovi, enP, imm48_halves, sl_append_low, sl_append_high, sl_whole, bit_append_low, bit_append_high, bit_bit1, Nat.sub_self, Nat.reduceSub, Nat.reduceAdd]
theorem enLea_op (op : BitVec 9) (p : Pre) (d : Reg) (a : Reg) (pcrel : Bool) (imm : BitVec 48) : (enLea op p d a pcrel imm).op = op := by rfl
theorem deLut_enLut (k : Pre → Reg → Reg → Reg → Reg → BitVec 8 → Instr) (op : BitVec 9) (p : Pre) (d : Reg) (a : Reg) (b : Reg) (c : Reg) (tbl : BitVec 8) :
    deLut k (enLut op p d a b c tbl) = some (k p d a b c tbl) := by
  simp (disch := decide) only [deLut, Fields.pre, enLut, enRRRR, enP, sl_append_low, sl_append_high, sl_whole, bit_append_low, bit_append_high, bit_bit1, Nat.sub_self, Nat.reduceSub, Nat.reduceAdd]
theorem enLut_op (op : BitVec 9) (p : Pre) (d : Reg) (a : Reg) (b : Reg) (c : Reg) (tbl : BitVec 8) : (enLut op p d a b c tbl).op = op := by rfl
theorem deM0_enM0 (k : Instr) (op : BitVec 9) :
    deM0 k (enM0 op ) = some (k ) := by
  simp (disch := decide) only [deM0, enM0, enX, sl_append_low, sl_append_high, sl_whole, bit_append_low, bit_append_high, bit_bit1, Nat.sub_self, Nat.reduceSub, Nat.reduceAdd]
theorem enM0_op (op : BitVec 9) : (enM0 op ).op = op := by rfl
theorem deMM_enMM (k : Pre → Reg → Reg → Reg → Instr) (op : BitVec 9) (p : Pre) (d : Reg) (a : Reg) (b : Reg) :
    deMM k (enMM op p d a b) = some (k p d a b) := by
  simp (disch := decide) only [deMM, Fields.pre, enMM, enFRRz, enP, sl_append_low, sl_append_high, sl_whole, bit_append_low, bit_append_high, bit_bit1, Nat.sub_self, Nat.reduceSub, Nat.reduceAdd]
theorem enMM_op (op : BitVec 9) (p : Pre) (d : Reg) (a : Reg) (b : Reg) : (enMM op p d a b).op = op := by rfl
theorem deMMz_enMMz (k : Pre → Reg → Reg → Reg → Bool → Instr) (op : BitVec 9) (p : Pre) (d : Reg) (a : Reg) (b : Reg) (ftz : Bool) :
    deMMz k (enMMz op p d a b ftz) = some (k p d a b ftz) := by
  simp (disch := decide) only [deMMz, Fields.pre, Fields.x4, enMMz, enFRRz, enP, sl_append_low, sl_append_high, sl_whole, bit_append_low, bit_append_high, bit_bit1, Nat.sub_self, Nat.reduceSub, Nat.reduceAdd]
theorem enMMz_op (op : BitVec 9) (p : Pre) (d : Reg) (a : Reg) (b : Reg) (ftz : Bool) : (enMMz op p d a b ftz).op = op := by rfl
theorem deMatch_enMatch (k : Pre → Reg → Reg → Bool → BitVec 2 → BitVec 3 → Instr) (op : BitVec 9) (p : Pre) (d : Reg) (a : Reg) (w64 : Bool) (cw : BitVec 2) (pd : BitVec 3) :
    deMatch k (enMatch op p d a w64 cw pd) = some (k p d a w64 cw pd) := by
  simp (disch := decide) only [deMatch, Fields.pre, Fields.cw, Fields.pd1, enMatch, enRR, enP, sl_append_low, sl_append_high, sl_whole, bit_append_low, bit_append_high, bit_bit1, Nat.sub_self, Nat.reduceSub, Nat.reduceAdd]
theorem enMatch_op (op : BitVec 9) (p : Pre) (d : Reg) (a : Reg) (w64 : Bool) (cw : BitVec 2) (pd : BitVec 3) : (enMatch op p d a w64 cw pd).op = op := by rfl
theorem deMbar_enMbar (k : BitVec 4 → BitVec 11 → Instr) (op : BitVec 9) (b : BitVec 4) (c : BitVec 11) :
    deMbar k (enMbar op b c) = some (k b c) := by
  simp (disch := decide) only [deMbar, enMbar, enX, sl_append_low, sl_append_high, sl_whole, bit_append_low, bit_append_high, bit_bit1, Nat.sub_self, Nat.reduceSub, Nat.reduceAdd]
theorem enMbar_op (op : BitVec 9) (b : BitVec 4) (c : BitVec 11) : (enMbar op b c).op = op := by rfl
theorem deMchain_enMchain (k : BitVec 8 → BitVec 8 → ChainFmt → Bool → Bool → Instr) (op : BitVec 9) (a : BitVec 8) (b : BitVec 8) (fmt : ChainFmt) (bias : Bool) (table : Bool) :
    deMchain k (enMchain op a b fmt bias table) = some (k a b fmt bias table) := by
  simp (disch := decide) only [deMchain, Fields.pd, enMchain, enX, sl_append_low, sl_append_high, sl_whole, bit_append_low, bit_append_high, bit_bit1, Nat.sub_self, Nat.reduceSub, Nat.reduceAdd, Option.map_some, Option.bind_some, ChainFmt_of_code]
theorem enMchain_op (op : BitVec 9) (a : BitVec 8) (b : BitVec 8) (fmt : ChainFmt) (bias : Bool) (table : Bool) : (enMchain op a b fmt bias table).op = op := by rfl
theorem deMdrain_enMdrain (k : BitVec 8 → BitVec 8 → Stages → Bool → MKind → BitVec 8 → BitVec 2 → BitVec 2 → Instr) (op : BitVec 9) (d : BitVec 8) (a : BitVec 8) (st : Stages) (z : Bool) (kind : MKind) (m0 : BitVec 8) (r : BitVec 2) (j : BitVec 2) :
    deMdrain k (enMdrain op d a st z kind m0 r j) = some (k d a st z kind m0 r j) := by
  simp (disch := decide) only [deMdrain, Fields.stages, enMdrain, enX, drainMods, sl_append_low, sl_append_high, sl_whole, bit_append_low, bit_append_high, bit_bit1, Nat.sub_self, Nat.reduceSub, Nat.reduceAdd, Option.map_some, Option.bind_some, MKind_of_code]
theorem enMdrain_op (op : BitVec 9) (d : BitVec 8) (a : BitVec 8) (st : Stages) (z : Bool) (kind : MKind) (m0 : BitVec 8) (r : BitVec 2) (j : BitVec 2) : (enMdrain op d a st z kind m0 r j).op = op := by rfl
theorem deMdrainL_enMdrainL (k : BitVec 8 → BitVec 5 → Stages → Bool → MKind → BitVec 8 → BitVec 8 → BitVec 3 → Instr) (op : BitVec 9) (d : BitVec 8) (g : BitVec 5) (st : Stages) (z : Bool) (kind : MKind) (m0 : BitVec 8) (rows : BitVec 8) (beats : BitVec 3) :
    deMdrainL k (enMdrainL op d g st z kind m0 rows beats) = some (k d g st z kind m0 rows beats) := by
  simp (disch := decide) only [deMdrainL, Fields.stages, enMdrainL, enX, drainMods, sl_append_low, sl_append_high, sl_whole, bit_append_low, bit_append_high, bit_bit1, Nat.sub_self, Nat.reduceSub, Nat.reduceAdd, Option.map_some, Option.bind_some, MKind_of_code]
theorem enMdrainL_op (op : BitVec 9) (d : BitVec 8) (g : BitVec 5) (st : Stages) (z : Bool) (kind : MKind) (m0 : BitVec 8) (rows : BitVec 8) (beats : BitVec 3) : (enMdrainL op d g st z kind m0 rows beats).op = op := by rfl
theorem deMgrp_enMgrp (k : BitVec 8 → BitVec 8 → BitVec 8 → BitVec 8 → Stages → BitVec 4 → BitVec 8 → Instr) (op : BitVec 9) (d : BitVec 8) (a : BitVec 8) (b : BitVec 8) (c : BitVec 8) (st : Stages) (g : BitVec 4) (s : BitVec 8) :
    deMgrp k (enMgrp op d a b c st g s) = some (k d a b c st g s) := by
  simp (disch := decide) only [deMgrp, Fields.stages, enMgrp, enX, sl_append_low, sl_append_high, sl_whole, bit_append_low, bit_append_high, bit_bit1, Nat.sub_self, Nat.reduceSub, Nat.reduceAdd]
theorem enMgrp_op (op : BitVec 9) (d : BitVec 8) (a : BitVec 8) (b : BitVec 8) (c : BitVec 8) (st : Stages) (g : BitVec 4) (s : BitVec 8) : (enMgrp op d a b c st g s).op = op := by rfl
theorem deMldw_enMldw (k : BitVec 8 → BitVec 8 → BitVec 8 → BitVec 2 → BitVec 2 → Bool → Instr) (op : BitVec 9) (a : BitVec 8) (c : BitVec 8) (e : BitVec 8) (r : BitVec 2) (j : BitVec 2) (rel : Bool) :
    deMldw k (enMldw op a c e r j rel) = some (k a c e r j rel) := by
  simp (disch := decide) only [deMldw, enMldw, enX, tileMods, sl_append_low, sl_append_high, sl_whole, bit_append_low, bit_append_high, bit_bit1, Nat.sub_self, Nat.reduceSub, Nat.reduceAdd]
theorem enMldw_op (op : BitVec 9) (a : BitVec 8) (c : BitVec 8) (e : BitVec 8) (r : BitVec 2) (j : BitVec 2) (rel : Bool) : (enMldw op a c e r j rel).op = op := by rfl
theorem deMloop_enMloop (k : Bool → BitVec 24 → Instr) (op : BitVec 9) (q : Bool) (n : BitVec 24) :
    deMloop k (enMloop op q n) = some (k q n) := by
  simp (disch := decide) only [deMloop, enMloop, enX, sl_append_low, sl_append_high, sl_whole, bit_append_low, bit_append_high, bit_bit1, Nat.sub_self, Nat.reduceSub, Nat.reduceAdd]
theorem enMloop_op (op : BitVec 9) (q : Bool) (n : BitVec 24) : (enMloop op q n).op = op := by rfl
theorem deMov_enMov (k : Pre → Reg → Reg → Bool → Instr) (op : BitVec 9) (p : Pre) (d : Reg) (a : Reg) (w64 : Bool) :
    deMov k (enMov op p d a w64) = some (k p d a w64) := by
  simp (disch := decide) only [deMov, Fields.pre, enMov, enP, sl_append_low, sl_append_high, sl_whole, bit_append_low, bit_append_high, bit_bit1, Nat.sub_self, Nat.reduceSub, Nat.reduceAdd]
theorem enMov_op (op : BitVec 9) (p : Pre) (d : Reg) (a : Reg) (w64 : Bool) : (enMov op p d a w64).op = op := by rfl
theorem deMovi_enMovi (k : Pre → Reg → Bool → BitVec 48 → Instr) (op : BitVec 9) (p : Pre) (d : Reg) (w64 : Bool) (imm : BitVec 48) :
    deMovi k (enMovi op p d w64 imm) = some (k p d w64 imm) := by
  simp (disch := decide) only [deMovi, Fields.pre, Fields.imm48, enMovi, enP, imm48_halves, sl_append_low, sl_append_high, sl_whole, bit_append_low, bit_append_high, bit_bit1, Nat.sub_self, Nat.reduceSub, Nat.reduceAdd]
theorem enMovi_op (op : BitVec 9) (p : Pre) (d : Reg) (w64 : Bool) (imm : BitVec 48) : (enMovi op p d w64 imm).op = op := by rfl
theorem deMpost_enMpost (k : Pre → Reg → BitVec 4 → Instr) (op : BitVec 9) (p : Pre) (a : Reg) (n : BitVec 4) :
    deMpost k (enMpost op p a n) = some (k p a n) := by
  simp (disch := decide) only [deMpost, Fields.pre, enMpost, enP, sl_append_low, sl_append_high, sl_whole, bit_append_low, bit_append_high, bit_bit1, Nat.sub_self, Nat.reduceSub, Nat.reduceAdd]
theorem enMpost_op (op : BitVec 9) (p : Pre) (a : Reg) (n : BitVec 4) : (enMpost op p a n).op = op := by rfl
theorem deMrecv_enMrecv (k : Pre → Reg → BitVec 2 → BitVec 3 → Instr) (op : BitVec 9) (p : Pre) (d : Reg) (cw : BitVec 2) (pd : BitVec 3) :
    deMrecv k (enMrecv op p d cw pd) = some (k p d cw pd) := by
  simp (disch := decide) only [deMrecv, Fields.pre, Fields.cw, Fields.pd1, enMrecv, enP, sl_append_low, sl_append_high, sl_whole, bit_append_low, bit_append_high, bit_bit1, Nat.sub_self, Nat.reduceSub, Nat.reduceAdd]
theorem enMrecv_op (op : BitVec 9) (p : Pre) (d : Reg) (cw : BitVec 2) (pd : BitVec 3) : (enMrecv op p d cw pd).op = op := by rfl
theorem deMstrm_enMstrm (k : BitVec 8 → BitVec 8 → BitVec 8 → BitVec 8 → BitVec 2 → BitVec 2 → Bool → BitVec 8 → Instr) (op : BitVec 9) (d : BitVec 8) (a : BitVec 8) (c : BitVec 8) (e : BitVec 8) (r : BitVec 2) (j : BitVec 2) (rel : Bool) (m0 : BitVec 8) :
    deMstrm k (enMstrm op d a c e r j rel m0) = some (k d a c e r j rel m0) := by
  simp (disch := decide) only [deMstrm, enMstrm, enMldw, enX, tileMods, sl_append_low, sl_append_high, sl_whole, bit_append_low, bit_append_high, bit_bit1, Nat.sub_self, Nat.reduceSub, Nat.reduceAdd]
theorem enMstrm_op (op : BitVec 9) (d : BitVec 8) (a : BitVec 8) (c : BitVec 8) (e : BitVec 8) (r : BitVec 2) (j : BitVec 2) (rel : Bool) (m0 : BitVec 8) : (enMstrm op d a c e r j rel m0).op = op := by rfl
theorem deMstrmF_enMstrmF (k : BitVec 8 → BitVec 8 → BitVec 8 → BitVec 8 → BitVec 2 → BitVec 2 → Bool → BitVec 8 → Rm → Instr) (op : BitVec 9) (d : BitVec 8) (a : BitVec 8) (c : BitVec 8) (e : BitVec 8) (r : BitVec 2) (j : BitVec 2) (rel : Bool) (m0 : BitVec 8) (rm : Rm) :
    deMstrmF k (enMstrmF op d a c e r j rel m0 rm) = some (k d a c e r j rel m0 rm) := by
  simp (disch := decide) only [deMstrmF, Fields.rm?, Fields.rm, enMstrmF, enMstrm, enMldw, enX, tileMods, sl_append_low, sl_append_high, sl_whole, bit_append_low, bit_append_high, bit_bit1, Nat.sub_self, Nat.reduceSub, Nat.reduceAdd, Option.map_some, Option.bind_some, Rm_of_code]
theorem enMstrmF_op (op : BitVec 9) (d : BitVec 8) (a : BitVec 8) (c : BitVec 8) (e : BitVec 8) (r : BitVec 2) (j : BitVec 2) (rel : Bool) (m0 : BitVec 8) (rm : Rm) : (enMstrmF op d a c e r j rel m0 rm).op = op := by rfl
theorem deMxdq_enMxdq (k : Pre → Reg → Reg → Reg → BitVec 4 → BitVec 2 → Rm → Bool → Instr) (op : BitVec 9) (p : Pre) (d : Reg) (a : Reg) (b : Reg) (j : BitVec 4) (s : BitVec 2) (rm : Rm) (ftz : Bool) :
    deMxdq k (enMxdq op p d a b j s rm ftz) = some (k p d a b j s rm ftz) := by
  simp (disch := decide) only [deMxdq, Fields.rm?, Fields.rm, Fields.pre, Fields.x4, enMxdq, enFRRz, enP, sl_append_low, sl_append_high, sl_whole, bit_append_low, bit_append_high, bit_bit1, Nat.sub_self, Nat.reduceSub, Nat.reduceAdd, Option.map_some, Option.bind_some, Rm_of_code]
theorem enMxdq_op (op : BitVec 9) (p : Pre) (d : Reg) (a : Reg) (b : Reg) (j : BitVec 4) (s : BitVec 2) (rm : Rm) (ftz : Bool) : (enMxdq op p d a b j s rm ftz).op = op := by rfl
theorem deMxq_enMxq (k : Pre → Reg → Reg → BitVec 2 → Instr) (op : BitVec 9) (p : Pre) (d : Reg) (a : Reg) (cw : BitVec 2) :
    deMxq k (enMxq op p d a cw) = some (k p d a cw) := by
  simp (disch := decide) only [deMxq, Fields.pre, Fields.cw, enMxq, enRR, enP, sl_append_low, sl_append_high, sl_whole, bit_append_low, bit_append_high, bit_bit1, Nat.sub_self, Nat.reduceSub, Nat.reduceAdd]
theorem enMxq_op (op : BitVec 9) (p : Pre) (d : Reg) (a : Reg) (cw : BitVec 2) : (enMxq op p d a cw).op = op := by rfl
theorem deMzero_enMzero (k : BitVec 8 → BitVec 8 → BitVec 8 → Instr) (op : BitVec 9) (d : BitVec 8) (m0 : BitVec 8) (rows : BitVec 8) :
    deMzero k (enMzero op d m0 rows) = some (k d m0 rows) := by
  simp (disch := decide) only [deMzero, enMzero, enX, sl_append_low, sl_append_high, sl_whole, bit_append_low, bit_append_high, bit_bit1, Nat.sub_self, Nat.reduceSub, Nat.reduceAdd]
theorem enMzero_op (op : BitVec 9) (d : BitVec 8) (m0 : BitVec 8) (rows : BitVec 8) : (enMzero op d m0 rows).op = op := by rfl
theorem deOff_enOff (k : Pre → BitVec 24 → Instr) (op : BitVec 9) (p : Pre) (off : BitVec 24) :
    deOff k (enOff op p off) = some (k p off) := by
  simp (disch := decide) only [deOff, Fields.pre, enOff, enP, sl_append_low, sl_append_high, sl_whole, bit_append_low, bit_append_high, bit_bit1, Nat.sub_self, Nat.reduceSub, Nat.reduceAdd]
theorem enOff_op (op : BitVec 9) (p : Pre) (off : BitVec 24) : (enOff op p off).op = op := by rfl
theorem deP_enP (k : Pre → Instr) (op : BitVec 9) (p : Pre) :
    deP k (enP op p) = some (k p) := by
  simp (disch := decide) only [deP, Fields.pre, enP, sl_append_low, sl_append_high, sl_whole, bit_append_low, bit_append_high, bit_bit1, Nat.sub_self, Nat.reduceSub, Nat.reduceAdd]
theorem enP_op (op : BitVec 9) (p : Pre) : (enP op p).op = op := by rfl
theorem dePacs_enPacs (k : Pre → Reg → Reg → Reg → Reg → Reg → SatMode → BitVec 3 → Instr) (op : BitVec 9) (p : Pre) (d : Reg) (a : Reg) (b : Reg) (c : Reg) (e : Reg) (m : SatMode) (pd : BitVec 3) :
    dePacs k (enPacs op p d a b c e m pd) = some (k p d a b c e m pd) := by
  simp (disch := decide) only [dePacs, Fields.pre, Fields.pd, enPacs, enP, sl_append_low, sl_append_high, sl_whole, bit_append_low, bit_append_high, bit_bit1, Nat.sub_self, Nat.reduceSub, Nat.reduceAdd, Option.map_some, Option.bind_some, SatMode_of_code]
theorem enPacs_op (op : BitVec 9) (p : Pre) (d : Reg) (a : Reg) (b : Reg) (c : Reg) (e : Reg) (m : SatMode) (pd : BitVec 3) : (enPacs op p d a b c e m pd).op = op := by rfl
theorem dePadd_enPadd (k : Pre → Reg → Reg → Src → SatMode → Instr) (op : BitVec 9) (p : Pre) (d : Reg) (a : Reg) (b : Src) (m : SatMode) :
    dePadd k (enPadd op p d a b m) = some (k p d a b m) := by
  cases b <;> simp (disch := decide) only [dePadd, Fields.pre, Fields.srcB, enPadd, withSrcB, enP, sl_append_low, sl_append_high, sl_whole, bit_append_low, bit_append_high, bit_bit1, Nat.sub_self, Nat.reduceSub, Nat.reduceAdd, BitVec.reduceGetLsb, reduceIte, Bool.false_eq_true, Option.map_some, Option.bind_some, SatMode_of_code]
theorem enPadd_op (op : BitVec 9) (p : Pre) (d : Reg) (a : Reg) (b : Src) (m : SatMode) : (enPadd op p d a b m).op = op := by cases b <;> rfl
theorem dePcmp_enPcmp (k : Pre → Reg → Reg → Src → Cmp → Bool → Instr) (op : BitVec 9) (p : Pre) (d : Reg) (a : Reg) (b : Src) (cmp : Cmp) (uns : Bool) :
    dePcmp k (enPcmp op p d a b cmp uns) = some (k p d a b cmp uns) := by
  cases b <;> simp (disch := decide) only [dePcmp, Fields.cmp?, Fields.pre, Fields.srcB, enPcmp, withSrcB, enP, sl_append_low, sl_append_high, sl_whole, bit_append_low, bit_append_high, bit_bit1, Nat.sub_self, Nat.reduceSub, Nat.reduceAdd, BitVec.reduceGetLsb, reduceIte, Bool.false_eq_true, Option.map_some, Option.bind_some, Cmp_of_code]
theorem enPcmp_op (op : BitVec 9) (p : Pre) (d : Reg) (a : Reg) (b : Src) (cmp : Cmp) (uns : Bool) : (enPcmp op p d a b cmp uns).op = op := by cases b <;> rfl
theorem dePlog_enPlog (k : Pre → BitVec 3 → BitVec 3 → Bool → BitVec 3 → Bool → PlogOp → Instr) (op : BitVec 9) (p : Pre) (pd : BitVec 3) (pa : BitVec 3) (na : Bool) (pb : BitVec 3) (nb : Bool) (o : PlogOp) :
    dePlog k (enPlog op p pd pa na pb nb o) = some (k p pd pa na pb nb o) := by
  simp (disch := decide) only [dePlog, Fields.pre, Fields.pd, enPlog, enP, sl_append_low, sl_append_high, sl_whole, bit_append_low, bit_append_high, bit_bit1, Nat.sub_self, Nat.reduceSub, Nat.reduceAdd, Option.map_some, Option.bind_some, PlogOp_of_code]
theorem enPlog_op (op : BitVec 9) (p : Pre) (pd : BitVec 3) (pa : BitVec 3) (na : Bool) (pb : BitVec 3) (nb : Bool) (o : PlogOp) : (enPlog op p pd pa na pb nb o).op = op := by rfl
theorem dePmcfg_enPmcfg (k : Pre → BitVec 2 → Reg → Instr) (op : BitVec 9) (p : Pre) (c : BitVec 2) (a : Reg) :
    dePmcfg k (enPmcfg op p c a) = some (k p c a) := by
  simp (disch := decide) only [dePmcfg, Fields.pre, enPmcfg, enP, sl_append_low, sl_append_high, sl_whole, bit_append_low, bit_append_high, bit_bit1, Nat.sub_self, Nat.reduceSub, Nat.reduceAdd]
theorem enPmcfg_op (op : BitVec 9) (p : Pre) (c : BitVec 2) (a : Reg) : (enPmcfg op p c a).op = op := by rfl
theorem dePmrd_enPmrd (k : Pre → Reg → BitVec 2 → Instr) (op : BitVec 9) (p : Pre) (d : Reg) (c : BitVec 2) :
    dePmrd k (enPmrd op p d c) = some (k p d c) := by
  simp (disch := decide) only [dePmrd, Fields.pre, enPmrd, enP, sl_append_low, sl_append_high, sl_whole, bit_append_low, bit_append_high, bit_bit1, Nat.sub_self, Nat.reduceSub, Nat.reduceAdd]
theorem enPmrd_op (op : BitVec 9) (p : Pre) (d : Reg) (c : BitVec 2) : (enPmrd op p d c).op = op := by rfl
theorem dePput_enPput (k : Pre → Reg → BitVec 7 → Instr) (op : BitVec 9) (p : Pre) (a : Reg) (mask : BitVec 7) :
    dePput k (enPput op p a mask) = some (k p a mask) := by
  simp (disch := decide) only [dePput, Fields.pre, enPput, enP, sl_append_low, sl_append_high, sl_whole, bit_append_low, bit_append_high, bit_bit1, Nat.sub_self, Nat.reduceSub, Nat.reduceAdd]
theorem enPput_op (op : BitVec 9) (p : Pre) (a : Reg) (mask : BitVec 7) : (enPput op p a mask).op = op := by rfl
theorem deRR_enRR (k : Pre → Reg → Reg → Instr) (op : BitVec 9) (p : Pre) (d : Reg) (a : Reg) :
    deRR k (enRR op p d a) = some (k p d a) := by
  simp (disch := decide) only [deRR, Fields.pre, enRR, enP, sl_append_low, sl_append_high, sl_whole, bit_append_low, bit_append_high, bit_bit1, Nat.sub_self, Nat.reduceSub, Nat.reduceAdd]
theorem enRR_op (op : BitVec 9) (p : Pre) (d : Reg) (a : Reg) : (enRR op p d a).op = op := by rfl
theorem deRRI_enRRI (k : Pre → Reg → Reg → Src → Instr) (op : BitVec 9) (p : Pre) (d : Reg) (a : Reg) (b : Src) :
    deRRI k (enRRI op p d a b) = some (k p d a b) := by
  cases b <;> simp (disch := decide) only [deRRI, Fields.pre, Fields.srcB, enRRI, withSrcB, enP, sl_append_low, sl_append_high, sl_whole, bit_append_low, bit_append_high, bit_bit1, Nat.sub_self, Nat.reduceSub, Nat.reduceAdd, BitVec.reduceGetLsb, reduceIte, Bool.false_eq_true]
theorem enRRI_op (op : BitVec 9) (p : Pre) (d : Reg) (a : Reg) (b : Src) : (enRRI op p d a b).op = op := by cases b <;> rfl
theorem deRRIR_enRRIR (k : Pre → Reg → Reg → Src → Reg → Instr) (op : BitVec 9) (p : Pre) (d : Reg) (a : Reg) (b : Src) (c : Reg) :
    deRRIR k (enRRIR op p d a b c) = some (k p d a b c) := by
  cases b <;> simp (disch := decide) only [deRRIR, Fields.pre, Fields.srcB, enRRIR, withSrcB, enP, sl_append_low, sl_append_high, sl_whole, bit_append_low, bit_append_high, bit_bit1, Nat.sub_self, Nat.reduceSub, Nat.reduceAdd, BitVec.reduceGetLsb, reduceIte, Bool.false_eq_true]
theorem enRRIR_op (op : BitVec 9) (p : Pre) (d : Reg) (a : Reg) (b : Src) (c : Reg) : (enRRIR op p d a b c).op = op := by cases b <;> rfl
theorem deRRRI_enRRRI (k : Pre → Reg → Reg → Reg → Src → Instr) (op : BitVec 9) (p : Pre) (d : Reg) (a : Reg) (b : Reg) (c : Src) :
    deRRRI k (enRRRI op p d a b c) = some (k p d a b c) := by
  cases c <;> simp (disch := decide) only [deRRRI, Fields.pre, Fields.srcC, enRRRI, enP, sl_append_low, sl_append_high, sl_whole, bit_append_low, bit_append_high, bit_bit1, Nat.sub_self, Nat.reduceSub, Nat.reduceAdd, BitVec.reduceGetLsb, reduceIte, Bool.false_eq_true]
theorem enRRRI_op (op : BitVec 9) (p : Pre) (d : Reg) (a : Reg) (b : Reg) (c : Src) : (enRRRI op p d a b c).op = op := by cases c <;> rfl
theorem deRRRR_enRRRR (k : Pre → Reg → Reg → Reg → Reg → Instr) (op : BitVec 9) (p : Pre) (d : Reg) (a : Reg) (b : Reg) (c : Reg) :
    deRRRR k (enRRRR op p d a b c) = some (k p d a b c) := by
  simp (disch := decide) only [deRRRR, Fields.pre, enRRRR, enP, sl_append_low, sl_append_high, sl_whole, bit_append_low, bit_append_high, bit_bit1, Nat.sub_self, Nat.reduceSub, Nat.reduceAdd]
theorem enRRRR_op (op : BitVec 9) (p : Pre) (d : Reg) (a : Reg) (b : Reg) (c : Reg) : (enRRRR op p d a b c).op = op := by rfl
theorem deRed_enRed (k : Pre → Reg → BitVec 24 → Reg → RedOp → Sem → Scope → Instr) (op : BitVec 9) (p : Pre) (a : Reg) (off : BitVec 24) (b : Reg) (o : RedOp) (sem : Sem) (sc : Scope) :
    deRed k (enRed op p a off b o sem sc) = some (k p a off b o sem sc) := by
  simp (disch := decide) only [deRed, Fields.sc?, Fields.pre, Fields.pd1, Fields.sem, enRed, enStr, enAmem, enP, semScope, sl_append_low, sl_append_high, sl_whole, bit_append_low, bit_append_high, bit_bit1, Nat.sub_self, Nat.reduceSub, Nat.reduceAdd, Option.map_some, Option.bind_some, RedOp_of_code, Scope_of_code, Sem_of_code]
theorem enRed_op (op : BitVec 9) (p : Pre) (a : Reg) (off : BitVec 24) (b : Reg) (o : RedOp) (sem : Sem) (sc : Scope) : (enRed op p a off b o sem sc).op = op := by rfl
theorem deRedA_enRedA (k : Pre → Reg → BitVec 24 → Reg → Rm → Sem → Scope → Instr) (op : BitVec 9) (p : Pre) (a : Reg) (off : BitVec 24) (b : Reg) (rm : Rm) (sem : Sem) (sc : Scope) :
    deRedA k (enRedA op p a off b rm sem sc) = some (k p a off b rm sem sc) := by
  simp (disch := decide) only [deRedA, Fields.sc?, Fields.rm?, Fields.rm, Fields.pre, Fields.sem, enRedA, enStr, enAmem, enP, semScope, sl_append_low, sl_append_high, sl_whole, bit_append_low, bit_append_high, bit_bit1, Nat.sub_self, Nat.reduceSub, Nat.reduceAdd, Option.map_some, Option.bind_some, Rm_of_code, Scope_of_code, Sem_of_code]
theorem enRedA_op (op : BitVec 9) (p : Pre) (a : Reg) (off : BitVec 24) (b : Reg) (rm : Rm) (sem : Sem) (sc : Scope) : (enRedA op p a off b rm sem sc).op = op := by rfl
theorem deRedF_enRedF (k : Pre → Reg → Reg → FRedOp → Rm → Bool → BitVec 2 → Instr) (op : BitVec 9) (p : Pre) (d : Reg) (a : Reg) (o : FRedOp) (rm : Rm) (ftz : Bool) (cw : BitVec 2) :
    deRedF k (enRedF op p d a o rm ftz cw) = some (k p d a o rm ftz cw) := by
  simp (disch := decide) only [deRedF, Fields.rm?, Fields.rm, Fields.pre, Fields.x4, Fields.cw, enRedF, enRR, enP, sl_append_low, sl_append_high, sl_whole, bit_append_low, bit_append_high, bit_bit1, Nat.sub_self, Nat.reduceSub, Nat.reduceAdd, Option.map_some, Option.bind_some, FRedOp_of_code, Rm_of_code]
theorem enRedF_op (op : BitVec 9) (p : Pre) (d : Reg) (a : Reg) (o : FRedOp) (rm : Rm) (ftz : Bool) (cw : BitVec 2) : (enRedF op p d a o rm ftz cw).op = op := by rfl
theorem deRedI_enRedI (k : Pre → Reg → Reg → RedOp → BitVec 2 → Instr) (op : BitVec 9) (p : Pre) (d : Reg) (a : Reg) (o : RedOp) (cw : BitVec 2) :
    deRedI k (enRedI op p d a o cw) = some (k p d a o cw) := by
  simp (disch := decide) only [deRedI, Fields.pre, Fields.pd, Fields.cw, enRedI, enRR, enP, sl_append_low, sl_append_high, sl_whole, bit_append_low, bit_append_high, bit_bit1, Nat.sub_self, Nat.reduceSub, Nat.reduceAdd, RedOp_of_code]
theorem enRedI_op (op : BitVec 9) (p : Pre) (d : Reg) (a : Reg) (o : RedOp) (cw : BitVec 2) : (enRedI op p d a o cw).op = op := by rfl
theorem deRng_enRng (k : Pre → Reg → BitVec 2 → Bool → Instr) (op : BitVec 9) (p : Pre) (d : Reg) (w : BitVec 2) (u01 : Bool) :
    deRng k (enRng op p d w u01) = some (k p d w u01) := by
  simp (disch := decide) only [deRng, Fields.pre, enRng, enP, sl_append_low, sl_append_high, sl_whole, bit_append_low, bit_append_high, bit_bit1, Nat.sub_self, Nat.reduceSub, Nat.reduceAdd]
theorem enRng_op (op : BitVec 9) (p : Pre) (d : Reg) (w : BitVec 2) (u01 : Bool) : (enRng op p d w u01).op = op := by rfl
theorem deScanF_enScanF (k : Pre → Reg → Reg → FRedOp → Bool → Rm → Bool → BitVec 2 → Instr) (op : BitVec 9) (p : Pre) (d : Reg) (a : Reg) (o : FRedOp) (exc : Bool) (rm : Rm) (ftz : Bool) (cw : BitVec 2) :
    deScanF k (enScanF op p d a o exc rm ftz cw) = some (k p d a o exc rm ftz cw) := by
  simp (disch := decide) only [deScanF, Fields.rm?, Fields.rm, Fields.pre, Fields.x4, Fields.cw, enScanF, enRR, enP, sl_append_low, sl_append_high, sl_whole, bit_append_low, bit_append_high, bit_bit1, Nat.sub_self, Nat.reduceSub, Nat.reduceAdd, Option.map_some, Option.bind_some, FRedOp_of_code, Rm_of_code]
theorem enScanF_op (op : BitVec 9) (p : Pre) (d : Reg) (a : Reg) (o : FRedOp) (exc : Bool) (rm : Rm) (ftz : Bool) (cw : BitVec 2) : (enScanF op p d a o exc rm ftz cw).op = op := by rfl
theorem deScanI_enScanI (k : Pre → Reg → Reg → RedOp → Bool → BitVec 2 → Instr) (op : BitVec 9) (p : Pre) (d : Reg) (a : Reg) (o : RedOp) (exc : Bool) (cw : BitVec 2) :
    deScanI k (enScanI op p d a o exc cw) = some (k p d a o exc cw) := by
  simp (disch := decide) only [deScanI, Fields.pre, Fields.pd, Fields.cw, enScanI, enRR, enP, sl_append_low, sl_append_high, sl_whole, bit_append_low, bit_append_high, bit_bit1, Nat.sub_self, Nat.reduceSub, Nat.reduceAdd, RedOp_of_code]
theorem enScanI_op (op : BitVec 9) (p : Pre) (d : Reg) (a : Reg) (o : RedOp) (exc : Bool) (cw : BitVec 2) : (enScanI op p d a o exc cw).op = op := by rfl
theorem deScatc_enScatc (k : Pre → Reg → BitVec 24 → BitVec 2 → Bool → Instr) (op : BitVec 9) (p : Pre) (a : Reg) (off : BitVec 24) (o : BitVec 2) (x : Bool) :
    deScatc k (enScatc op p a off o x) = some (k p a off o x) := by
  simp (disch := decide) only [deScatc, Fields.pre, Fields.x4, enScatc, enAX, enAmem, enP, sl_append_low, sl_append_high, sl_whole, bit_append_low, bit_append_high, bit_bit1, Nat.sub_self, Nat.reduceSub, Nat.reduceAdd]
theorem enScatc_op (op : BitVec 9) (p : Pre) (a : Reg) (off : BitVec 24) (o : BitVec 2) (x : Bool) : (enScatc op p a off o x).op = op := by rfl
theorem deShfl_enShfl (k : Pre → Reg → Reg → ShSrc → BitVec 3 → BitVec 2 → BitVec 3 → Instr) (op : BitVec 9) (p : Pre) (d : Reg) (a : Reg) (b : ShSrc) (lg : BitVec 3) (cw : BitVec 2) (pd : BitVec 3) :
    deShfl k (enShfl op p d a b lg cw pd) = some (k p d a b lg cw pd) := by
  cases b <;> simp (disch := decide) only [deShfl, Fields.pre, Fields.shB, Fields.pd, Fields.cw, Fields.pd1, enShfl, enRR, enP, sl_append_low, sl_append_high, sl_whole, bit_append_low, bit_append_high, bit_bit1, Nat.sub_self, Nat.reduceSub, Nat.reduceAdd, BitVec.reduceGetLsb, reduceIte, Bool.false_eq_true]
theorem enShfl_op (op : BitVec 9) (p : Pre) (d : Reg) (a : Reg) (b : ShSrc) (lg : BitVec 3) (cw : BitVec 2) (pd : BitVec 3) : (enShfl op p d a b lg cw pd).op = op := by cases b <;> rfl
theorem deSlbind_enSlbind (k : Pre → Reg → Reg → BitVec 24 → Bool → Instr) (op : BitVec 9) (p : Pre) (d : Reg) (a : Reg) (off : BitVec 24) (free : Bool) :
    deSlbind k (enSlbind op p d a off free) = some (k p d a off free) := by
  simp (disch := decide) only [deSlbind, Fields.pre, enSlbind, enDA, enAmem, enP, sl_append_low, sl_append_high, sl_whole, bit_append_low, bit_append_high, bit_bit1, Nat.sub_self, Nat.reduceSub, Nat.reduceAdd]
theorem enSlbind_op (op : BitVec 9) (p : Pre) (d : Reg) (a : Reg) (off : BitVec 24) (free : Bool) : (enSlbind op p d a off free).op = op := by rfl
theorem deSleep_enSleep (k : Pre → BitVec 24 → Instr) (op : BitVec 9) (p : Pre) (n : BitVec 24) :
    deSleep k (enSleep op p n) = some (k p n) := by
  simp (disch := decide) only [deSleep, Fields.pre, enSleep, enP, sl_append_low, sl_append_high, sl_whole, bit_append_low, bit_append_high, bit_bit1, Nat.sub_self, Nat.reduceSub, Nat.reduceAdd]
theorem enSleep_op (op : BitVec 9) (p : Pre) (n : BitVec 24) : (enSleep op p n).op = op := by rfl
theorem deSlpass_enSlpass (k : Pre → Reg → BitVec 24 → Bool → Reg → Instr) (op : BitVec 9) (p : Pre) (a : Reg) (off : BitVec 24) (x : Bool) (b : Reg) :
    deSlpass k (enSlpass op p a off x b) = some (k p a off x b) := by
  simp (disch := decide) only [deSlpass, Fields.pre, Fields.x4, enSlpass, enAX, enAmem, enP, sl_append_low, sl_append_high, sl_whole, bit_append_low, bit_append_high, bit_bit1, Nat.sub_self, Nat.reduceSub, Nat.reduceAdd]
theorem enSlpass_op (op : BitVec 9) (p : Pre) (a : Reg) (off : BitVec 24) (x : Bool) (b : Reg) : (enSlpass op p a off x b).op = op := by rfl
theorem deSlread_enSlread (k : Pre → Reg → Reg → BitVec 24 → SlSel → Reg → Instr) (op : BitVec 9) (p : Pre) (d : Reg) (a : Reg) (off : BitVec 24) (sel : SlSel) (b : Reg) :
    deSlread k (enSlread op p d a off sel b) = some (k p d a off sel b) := by
  simp (disch := decide) only [deSlread, Fields.pd, Fields.pre, enSlread, enDAB, enDA, enAmem, enP, sl_append_low, sl_append_high, sl_whole, bit_append_low, bit_append_high, bit_bit1, Nat.sub_self, Nat.reduceSub, Nat.reduceAdd, Option.map_some, Option.bind_some, SlSel_of_code]
theorem enSlread_op (op : BitVec 9) (p : Pre) (d : Reg) (a : Reg) (off : BitVec 24) (sel : SlSel) (b : Reg) : (enSlread op p d a off sel b).op = op := by rfl
theorem deSpawn_enSpawn (k : Pre → Reg → BitVec 24 → Instr) (op : BitVec 9) (p : Pre) (b : Reg) (off : BitVec 24) :
    deSpawn k (enSpawn op p b off) = some (k p b off) := by
  simp (disch := decide) only [deSpawn, Fields.pre, enSpawn, enP, sl_append_low, sl_append_high, sl_whole, bit_append_low, bit_append_high, bit_bit1, Nat.sub_self, Nat.reduceSub, Nat.reduceAdd]
theorem enSpawn_op (op : BitVec 9) (p : Pre) (b : Reg) (off : BitVec 24) : (enSpawn op p b off).op = op := by rfl
theorem deSpawnQ_enSpawnQ (k : Pre → Reg → Reg → BitVec 24 → BitVec 4 → Instr) (op : BitVec 9) (p : Pre) (d : Reg) (a : Reg) (off : BitVec 24) (q : BitVec 4) :
    deSpawnQ k (enSpawnQ op p d a off q) = some (k p d a off q) := by
  simp (disch := decide) only [deSpawnQ, Fields.pre, enSpawnQ, enP, sl_append_low, sl_append_high, sl_whole, bit_append_low, bit_append_high, bit_bit1, Nat.sub_self, Nat.reduceSub, Nat.reduceAdd]
theorem enSpawnQ_op (op : BitVec 9) (p : Pre) (d : Reg) (a : Reg) (off : BitVec 24) (q : BitVec 4) : (enSpawnQ op p d a off q).op = op := by rfl
theorem deSreg_enSreg (k : Pre → Reg → Bool → BitVec 24 → Instr) (op : BitVec 9) (p : Pre) (d : Reg) (w64 : Bool) (idx : BitVec 24) :
    deSreg k (enSreg op p d w64 idx) = some (k p d w64 idx) := by
  simp (disch := decide) only [deSreg, Fields.pre, enSreg, enP, sl_append_low, sl_append_high, sl_whole, bit_append_low, bit_append_high, bit_bit1, Nat.sub_self, Nat.reduceSub, Nat.reduceAdd]
theorem enSreg_op (op : BitVec 9) (p : Pre) (d : Reg) (w64 : Bool) (idx : BitVec 24) : (enSreg op p d w64 idx).op = op := by rfl
theorem deSset_enSset (k : Pre → BitVec 24 → Reg → Instr) (op : BitVec 9) (p : Pre) (idx : BitVec 24) (a : Reg) :
    deSset k (enSset op p idx a) = some (k p idx a) := by
  simp (disch := decide) only [deSset, Fields.pre, enSset, enP, sl_append_low, sl_append_high, sl_whole, bit_append_low, bit_append_high, bit_bit1, Nat.sub_self, Nat.reduceSub, Nat.reduceAdd]
theorem enSset_op (op : BitVec 9) (p : Pre) (idx : BitVec 24) (a : Reg) : (enSset op p idx a).op = op := by rfl
theorem deSt_enSt (k : Pre → Reg → BitVec 24 → Reg → Hint → Instr) (op : BitVec 9) (p : Pre) (a : Reg) (off : BitVec 24) (b : Reg) (h : Hint) :
    deSt k (enSt op p a off b h) = some (k p a off b h) := by
  simp (disch := decide) only [deSt, Fields.hint?, Fields.hint, Fields.pre, enSt, enAH, enAmem, enP, sl_append_low, sl_append_high, sl_whole, bit_append_low, bit_append_high, bit_bit1, Nat.sub_self, Nat.reduceSub, Nat.reduceAdd, Option.map_some, Option.bind_some, Hint_of_code]
theorem enSt_op (op : BitVec 9) (p : Pre) (a : Reg) (off : BitVec 24) (b : Reg) (h : Hint) : (enSt op p a off b h).op = op := by rfl
theorem deStl_enStl (k : Pre → Bool → Reg → BitVec 24 → Reg → Hint → Instr) (op : BitVec 9) (p : Pre) (idx : Bool) (a : Reg) (off : BitVec 24) (b : Reg) (h : Hint) :
    deStl k (enStl op p idx a off b h) = some (k p idx a off b h) := by
  simp (disch := decide) only [deStl, Fields.hint?, Fields.hint, Fields.pre, enStl, enSt, enAH, enAmem, enP, sl_append_low, sl_append_high, sl_whole, bit_append_low, bit_append_high, bit_bit1, Nat.sub_self, Nat.reduceSub, Nat.reduceAdd, Option.map_some, Option.bind_some, Hint_of_code]
theorem enStl_op (op : BitVec 9) (p : Pre) (idx : Bool) (a : Reg) (off : BitVec 24) (b : Reg) (h : Hint) : (enStl op p idx a off b h).op = op := by rfl
theorem deStr_enStr (k : Pre → Reg → BitVec 24 → Reg → Sem → Scope → Instr) (op : BitVec 9) (p : Pre) (a : Reg) (off : BitVec 24) (b : Reg) (sem : Sem) (sc : Scope) :
    deStr k (enStr op p a off b sem sc) = some (k p a off b sem sc) := by
  simp (disch := decide) only [deStr, Fields.sc?, Fields.pre, Fields.sem, enStr, enAmem, enP, semScope, sl_append_low, sl_append_high, sl_whole, bit_append_low, bit_append_high, bit_bit1, Nat.sub_self, Nat.reduceSub, Nat.reduceAdd, Option.map_some, Option.bind_some, Scope_of_code, Sem_of_code]
theorem enStr_op (op : BitVec 9) (p : Pre) (a : Reg) (off : BitVec 24) (b : Reg) (sem : Sem) (sc : Scope) : (enStr op p a off b sem sc).op = op := by rfl
theorem deSvc_enSvc (k : Pre → Reg → BitVec 16 → Instr) (op : BitVec 9) (p : Pre) (a : Reg) (n : BitVec 16) :
    deSvc k (enSvc op p a n) = some (k p a n) := by
  simp (disch := decide) only [deSvc, Fields.pre, enSvc, enP, sl_append_low, sl_append_high, sl_whole, bit_append_low, bit_append_high, bit_bit1, Nat.sub_self, Nat.reduceSub, Nat.reduceAdd]
theorem enSvc_op (op : BitVec 9) (p : Pre) (a : Reg) (n : BitVec 16) : (enSvc op p a n).op = op := by rfl
theorem deTat_enTat (k : Pre → BitVec 6 → Bool → Reg → Reg → Instr) (op : BitVec 9) (p : Pre) (h : BitVec 6) (at_ : Bool) (b : Reg) (c : Reg) :
    deTat k (enTat op p h at_ b c) = some (k p h at_ b c) := by
  simp (disch := decide) only [deTat, Fields.pre, enTat, enTq', enP, sl_append_low, sl_append_high, sl_whole, bit_append_low, bit_append_high, bit_bit1, Nat.sub_self, Nat.reduceSub, Nat.reduceAdd]
theorem enTat_op (op : BitVec 9) (p : Pre) (h : BitVec 6) (at_ : Bool) (b : Reg) (c : Reg) : (enTat op p h at_ b c).op = op := by rfl
theorem deTbind_enTbind (k : Pre → Reg → BitVec 6 → Reg → BitVec 24 → Bool → Instr) (op : BitVec 9) (p : Pre) (d : Reg) (h : BitVec 6) (a : Reg) (off : BitVec 24) (x : Bool) :
    deTbind k (enTbind op p d h a off x) = some (k p d h a off x) := by
  simp (disch := decide) only [deTbind, Fields.pre, Fields.x4, enTbind, enDA, enAmem, enP, sl_append_low, sl_append_high, sl_whole, bit_append_low, bit_append_high, bit_bit1, Nat.sub_self, Nat.reduceSub, Nat.reduceAdd]
theorem enTbind_op (op : BitVec 9) (p : Pre) (d : Reg) (h : BitVec 6) (a : Reg) (off : BitVec 24) (x : Bool) : (enTbind op p d h a off x).op = op := by rfl
theorem deTfree_enTfree (k : Pre → BitVec 6 → Bool → Instr) (op : BitVec 9) (p : Pre) (h : BitVec 6) (unbind : Bool) :
    deTfree k (enTfree op p h unbind) = some (k p h unbind) := by
  simp (disch := decide) only [deTfree, Fields.pre, enTfree, enP, sl_append_low, sl_append_high, sl_whole, bit_append_low, bit_append_high, bit_bit1, Nat.sub_self, Nat.reduceSub, Nat.reduceAdd]
theorem enTfree_op (op : BitVec 9) (p : Pre) (h : BitVec 6) (unbind : Bool) : (enTfree op p h unbind).op = op := by rfl
theorem deTq_enTq (k : Pre → BitVec 6 → Bool → Reg → Reg → MxFmt → Instr) (op : BitVec 9) (p : Pre) (h : BitVec 6) (at_ : Bool) (b : Reg) (c : Reg) (fmt : MxFmt) :
    deTq k (enTq op p h at_ b c fmt) = some (k p h at_ b c fmt) := by
  simp (disch := decide) only [deTq, Fields.pd1, Fields.pre, enTq, enTq', enP, sl_append_low, sl_append_high, sl_whole, bit_append_low, bit_append_high, bit_bit1, Nat.sub_self, Nat.reduceSub, Nat.reduceAdd, Option.map_some, Option.bind_some, MxFmt_of_code]
theorem enTq_op (op : BitVec 9) (p : Pre) (h : BitVec 6) (at_ : Bool) (b : Reg) (c : Reg) (fmt : MxFmt) : (enTq op p h at_ b c fmt).op = op := by rfl
theorem deTrap_enTrap (k : Pre → BitVec 8 → Instr) (op : BitVec 9) (p : Pre) (code : BitVec 8) :
    deTrap k (enTrap op p code) = some (k p code) := by
  simp (disch := decide) only [deTrap, Fields.pre, enTrap, enP, sl_append_low, sl_append_high, sl_whole, bit_append_low, bit_append_high, bit_bit1, Nat.sub_self, Nat.reduceSub, Nat.reduceAdd]
theorem enTrap_op (op : BitVec 9) (p : Pre) (code : BitVec 8) : (enTrap op p code).op = op := by rfl
theorem deTscore_enTscore (k : Pre → Bool → Reg → Instr) (op : BitVec 9) (p : Pre) (add : Bool) (a : Reg) :
    deTscore k (enTscore op p add a) = some (k p add a) := by
  simp (disch := decide) only [deTscore, Fields.pre, enTscore, enP, sl_append_low, sl_append_high, sl_whole, bit_append_low, bit_append_high, bit_bit1, Nat.sub_self, Nat.reduceSub, Nat.reduceAdd]
theorem enTscore_op (op : BitVec 9) (p : Pre) (add : Bool) (a : Reg) : (enTscore op p add a).op = op := by rfl
theorem deVote_enVote (k : Pre → VoteMode → Reg → BitVec 3 → BitVec 3 → Bool → BitVec 2 → Instr) (op : BitVec 9) (p : Pre) (m : VoteMode) (d : Reg) (pd : BitVec 3) (pa : BitVec 3) (na : Bool) (cw : BitVec 2) :
    deVote k (enVote op p m d pd pa na cw) = some (k p m d pd pa na cw) := by
  simp (disch := decide) only [deVote, Fields.pre, Fields.pd1, Fields.cw, enVote, enP, sl_append_low, sl_append_high, sl_whole, bit_append_low, bit_append_high, bit_bit1, Nat.sub_self, Nat.reduceSub, Nat.reduceAdd, VoteMode_of_code]
theorem enVote_op (op : BitVec 9) (p : Pre) (m : VoteMode) (d : Reg) (pd : BitVec 3) (pa : BitVec 3) (na : Bool) (cw : BitVec 2) : (enVote op p m d pd pa na cw).op = op := by rfl
theorem deWaitC_enWaitC (k : Pre → EngClass → BitVec 6 → Instr) (op : BitVec 9) (p : Pre) (cls : EngClass) (n : BitVec 6) :
    deWaitC k (enWaitC op p cls n) = some (k p cls n) := by
  simp (disch := decide) only [deWaitC, Fields.pre, enWaitC, enP, sl_append_low, sl_append_high, sl_whole, bit_append_low, bit_append_high, bit_bit1, Nat.sub_self, Nat.reduceSub, Nat.reduceAdd, Option.map_some, Option.bind_some, EngClass_of_code]
theorem enWaitC_op (op : BitVec 9) (p : Pre) (cls : EngClass) (n : BitVec 6) : (enWaitC op p cls n).op = op := by rfl
theorem deYield_enYield (k : Pre → Scope → Instr) (op : BitVec 9) (p : Pre) (sc : Scope) :
    deYield k (enYield op p sc) = some (k p sc) := by
  simp (disch := decide) only [deYield, Fields.sc?, Fields.pre, enYield, enP, sl_append_low, sl_append_high, sl_whole, bit_append_low, bit_append_high, bit_bit1, Nat.sub_self, Nat.reduceSub, Nat.reduceAdd, Option.map_some, Option.bind_some, Scope_of_code]
theorem enYield_op (op : BitVec 9) (p : Pre) (sc : Scope) : (enYield op p sc).op = op := by rfl

/-! ### Packing a word and taking it apart -/


theorem bit1_bit0 (b : Bool) : (bit1 b)[0] = b := by cases b <;> rfl

theorem pack_unpack (w : BitVec 128) : (Fields.unpack w).pack = w := by
  apply BitVec.eq_of_getLsbD_eq
  intro i hi
  simp only [Fields.pack, Fields.dword0, Fields.dword1, Fields.unpack, BitVec.getLsbD_append, BitVec.getLsbD_extractLsb']
  interval_cases i <;> simp [bit1_bit0]

theorem unpack_pack (f : Fields) : Fields.unpack f.pack = f := by
  obtain ⟨op, d, a, b, c, e, ⟨n0, g0, n1, g1, oc⟩, mod0, imm, rm, mod1, hint, stall, yld, ext⟩ := f
  simp only [Fields.pack, Fields.dword0, Fields.dword1, Fields.unpack, Fields.mk.injEq, Guard.mk.injEq]
  refine ⟨?_, ?_, ?_, ?_, ?_, ?_, ⟨?_, ?_, ?_, ?_, ?_⟩, ?_, ?_, ?_, ?_, ?_, ?_, ?_, ?_⟩
  all_goals first
    | (apply BitVec.eq_of_getLsbD_eq
       intro i hi
       simp only [BitVec.getLsbD_append, BitVec.getLsbD_extractLsb', hi]
       interval_cases i <;> simp)
    | (simp only [BitVec.getLsbD_append]
       simp [bit1_bit0])

theorem append_inj {n m : Nat} {x x' : BitVec n} {y y' : BitVec m} (h : x ++ y = x' ++ y') : x = x' ∧ y = y' := by
  have lo := congrArg (BitVec.extractLsb' 0 m) h
  have hi := congrArg (BitVec.extractLsb' m n) h
  rw [BitVec.extractLsb'_append_eq_right, BitVec.extractLsb'_append_eq_right] at lo
  rw [BitVec.extractLsb'_append_eq_left, BitVec.extractLsb'_append_eq_left] at hi
  exact ⟨hi, lo⟩

theorem deUdf_enUdf (hi : BitVec 55) (lo : BitVec 64) : deUdf (enUdf hi lo) = some (.udf hi lo) := by
  have h : (enUdf hi lo).pack = lo ++ (0x012#9 ++ hi) := pack_unpack _
  obtain ⟨h1, h0⟩ := append_inj (n := 64) (m := 64) h
  simp only [deUdf, h0, h1]
  congr 2
  apply BitVec.eq_of_getLsbD_eq
  intro i hi
  rw [BitVec.getLsbD_setWidth, BitVec.getLsbD_append]
  simp [hi]
end Sys2Proof.Laws
end

