-- ==== Sys2Proof/Laws/Memory.lean ====
section
/-! SUPPORT. Tables and memory: a read after a write, and the canonical form. -/

namespace Sys2Proof.Machine

section SparseLaws
variable {w : Nat}

theorem Sparse.wfFrom_cons (lo k : Nat) (v : BitVec w) (m : Sparse w) :
    Sparse.wfFrom lo ((k, v) :: m) = true ↔ lo ≤ k ∧ v ≠ 0 ∧ Sparse.wfFrom (k + 1) m = true := by
  simp [Sparse.wfFrom, and_assoc]

theorem Sparse.wfFrom_mono {m : Sparse w} {lo lo' : Nat} (h : lo' ≤ lo) (hm : m.wfFrom lo = true) : m.wfFrom lo' = true := by
  cases m with
  | nil => rfl
  | cons x m => obtain ⟨k, v⟩ := x; rw [Sparse.wfFrom_cons] at *; exact ⟨h.trans hm.1, hm.2⟩

theorem Sparse.get_below {m : Sparse w} {lo k : Nat} (hm : m.wfFrom lo = true) (h : k < lo) : m.get k = 0 := by
  induction m generalizing lo with
  | nil => rfl
  | cons x m ih =>
    obtain ⟨j, v⟩ := x
    rw [Sparse.wfFrom_cons] at hm
    simp only [Sparse.get]
    rw [if_neg (by omega)]
    exact ih hm.2.2 (by omega)

theorem Sparse.set_wfFrom {m : Sparse w} {lo k : Nat} (v : BitVec w) (hm : m.wfFrom lo = true) (h : lo ≤ k) :
    (m.set k v).wfFrom lo = true := by
  induction m generalizing lo with
  | nil => simp only [Sparse.set]; split <;> simp_all [Sparse.wfFrom]
  | cons x m ih =>
    obtain ⟨j, x⟩ := x
    rw [Sparse.wfFrom_cons] at hm
    simp only [Sparse.set]
    split
    · split
      · rw [Sparse.wfFrom_cons]; exact hm
      · rw [Sparse.wfFrom_cons, Sparse.wfFrom_cons]; exact ⟨h, ‹_›, by omega, hm.2⟩
    · split
      · subst k
        split
        · exact Sparse.wfFrom_mono (by omega) hm.2.2
        · rw [Sparse.wfFrom_cons]; exact ⟨h, ‹_›, hm.2.2⟩
      · rw [Sparse.wfFrom_cons]; exact ⟨hm.1, hm.2.1, ih hm.2.2 (by omega)⟩

/-- A read after a write: the value at the place written, the old value everywhere else. -/
theorem Sparse.get_set_from {m : Sparse w} {lo : Nat} (k j : Nat) (v : BitVec w) (hm : m.wfFrom lo = true) :
    (m.set k v).get j = if j = k then v else m.get j := by
  induction m generalizing lo with
  | nil =>
    simp only [Sparse.set]
    split
    · subst v; simp [Sparse.get]
    · simp only [Sparse.get]
      by_cases hj : k = j
      · rw [if_pos hj, if_pos hj.symm]
      · rw [if_neg hj, if_neg (Ne.symm hj)]
  | cons x m ih =>
    obtain ⟨i, x⟩ := x
    rw [Sparse.wfFrom_cons] at hm
    have hb : ∀ q, q < i + 1 → Sparse.get m q = 0 := fun q hq => Sparse.get_below hm.2.2 hq
    simp only [Sparse.set]
    split
    · split
      · subst v
        by_cases hj : j = k
        · subst hj; simp only [Sparse.get, if_pos]; rw [if_neg (by omega), hb j (by omega)]
        · simp [hj]
      · simp only [Sparse.get]; by_cases hj : j = k
        · subst hj; simp
        · rw [if_neg (by omega), if_neg hj]
    · split
      · subst k
        split
        · subst v
          by_cases hj : j = i
          · subst hj; simp [hb j (by omega)]
          · simp only [Sparse.get]; rw [if_neg (by omega : ¬ i = j), if_neg hj]
        · simp only [Sparse.get]; by_cases hj : j = i
          · subst hj; simp
          · rw [if_neg (by omega), if_neg hj, if_neg (by omega)]
      · simp only [Sparse.get]
        by_cases hj : i = j
        · subst hj; simp only [if_pos]; rw [if_neg (by omega)]
        · rw [if_neg hj, if_neg hj, ih hm.2.2]

theorem Sparse.set_wf {m : Sparse w} (k : Nat) (v : BitVec w) (hm : m.wf = true) : (m.set k v).wf = true :=
  Sparse.set_wfFrom v hm (Nat.zero_le k)

theorem Sparse.get_set {m : Sparse w} (k j : Nat) (v : BitVec w) (hm : m.wf = true) :
    (m.set k v).get j = if j = k then v else m.get j :=
  Sparse.get_set_from k j v hm

theorem Sparse.setList_wf {m : Sparse w} (k : Nat) (vs : List (BitVec w)) (hm : m.wf = true) : (m.setList k vs).wf = true := by
  induction vs generalizing m k with
  | nil => exact hm
  | cons v vs ih => exact ih (k + 1) (Sparse.set_wf k v hm)

theorem Sparse.get_setList {m : Sparse w} (k j : Nat) (vs : List (BitVec w)) (hm : m.wf = true) :
    (m.setList k vs).get j = if k ≤ j ∧ j < k + vs.length then vs.getD (j - k) 0 else m.get j := by
  induction vs generalizing m k with
  | nil =>
    simp only [Sparse.setList, List.length_nil, Nat.add_zero]
    rw [if_neg (by omega)]
  | cons v vs ih =>
    rw [Sparse.setList, ih (k + 1) (Sparse.set_wf k v hm), Sparse.get_set k j v hm]
    simp only [List.length_cons]
    by_cases h1 : k + 1 ≤ j ∧ j < k + 1 + vs.length
    · rw [if_pos h1, if_pos (by omega)]
      obtain ⟨n, hn⟩ : ∃ n, j - k = n + 1 := ⟨j - k - 1, by omega⟩
      rw [hn, show j - (k + 1) = n by omega]; rfl
    · rw [if_neg h1]
      by_cases h2 : j = k
      · subst h2; rw [if_pos rfl, if_pos (by omega)]; simp
      · rw [if_neg h2, if_neg (by omega)]

/-- Dropping entries keeps the canonical form. -/
theorem Sparse.filter_wfFrom {m : Sparse w} {lo : Nat} (p : Nat × BitVec w → Bool) (hm : m.wfFrom lo = true) :
    Sparse.wfFrom lo (List.filter p m) = true := by
  induction m generalizing lo with
  | nil => rfl
  | cons x m ih =>
    obtain ⟨k, v⟩ := x
    rw [Sparse.wfFrom_cons] at hm
    rw [List.filter_cons]
    split
    · rw [Sparse.wfFrom_cons]; exact ⟨hm.1, hm.2.1, ih hm.2.2⟩
    · exact Sparse.wfFrom_mono (by omega) (ih hm.2.2)

theorem Sparse.filter_wf {m : Sparse w} (p : Nat × BitVec w → Bool) (hm : m.wf = true) : Sparse.wf (List.filter p m) = true :=
  Sparse.filter_wfFrom p hm

end SparseLaws

/-! ### Memory -/

theorem memWrite_wf (s : State) (k : Nat) (bs : List Byte) (h : Memory.wf s.mem = true) : Memory.wf (memWrite s k bs).mem = true :=
  Sparse.setList_wf k bs h

theorem memByte_memWrite (s : State) (k j : Nat) (bs : List Byte) (h : Memory.wf s.mem = true) :
    memByte (memWrite s k bs) j = if k ≤ j ∧ j < k + bs.length then bs.getD (j - k) 0 else memByte s j :=
  Sparse.get_setList k j bs h

theorem memByte_memWrite_outside (s : State) (k j : Nat) (bs : List Byte) (h : Memory.wf s.mem = true)
    (hj : j < k ∨ k + bs.length ≤ j) : memByte (memWrite s k bs) j = memByte s j := by
  rw [memByte_memWrite s k j bs h, if_neg (by omega)]

theorem memRead_length (s : State) (k n : Nat) : (memRead s k n).length = n := by
  induction n generalizing k with
  | zero => rfl
  | succ n ih => simp [memRead, ih]

theorem memRead_getD (s : State) (k n i : Nat) (h : i < n) : (memRead s k n).getD i 0 = memByte s (k + i) := by
  induction n generalizing k i with
  | zero => omega
  | succ n ih =>
    cases i with
    | zero => rfl
    | succ i => rw [memRead, List.getD_cons_succ, ih (k + 1) i (by omega)]; congr 1; omega

theorem memRead_memWrite (s : State) (k : Nat) (bs : List Byte) (h : Memory.wf s.mem = true) :
    memRead (memWrite s k bs) k bs.length = bs := by
  apply List.ext_getElem (memRead_length _ _ _)
  intro i h1 h2
  have := memRead_getD (memWrite s k bs) k bs.length i h2
  rw [memByte_memWrite s k _ bs h, if_pos (by omega), show k + i - k = i by omega] at this
  rwa [List.getD_eq_getElem _ _ h1, List.getD_eq_getElem _ _ h2] at this

theorem memRead_congr {s t : State} (h : t.mem = s.mem) (k n : Nat) : memRead t k n = memRead s k n := by
  induction n generalizing k with
  | zero => rfl
  | succ n ih => simp only [memRead, memByte, h, ih]

theorem setBarWord_wf (s : State) (vf off : Nat) (v : DWord) (h : s.bar.wf = true) : (setBarWord s vf off v).bar.wf = true :=
  Sparse.set_wf _ v h

theorem barWord_setBarWord (s : State) (vf off vf' off' : Nat) (v : DWord) (h : s.bar.wf = true) :
    barWord (setBarWord s vf off v) vf' off' = if barKey vf' off' = barKey vf off then v else barWord s vf' off' :=
  Sparse.get_set _ _ v h

theorem reset_memory_wf : Memory.wf State.reset.mem = true := by decide

end Sys2Proof.Machine
end

