-- ==== Sys2Proof/Laws/State.lean ====
section
/-! SUPPORT. What each shared update of the state leaves as it was: one lemma for each field. -/

namespace Sys2Proof.Machine

section UpdThread
variable (s : State) (u : Nat) (f : Thread → Thread)
@[simp] theorem updThread_free : (updThread s u f).free = s.free := rfl
@[simp] theorem updThread_nextId : (updThread s u f).nextId = s.nextId := rfl
@[simp] theorem updThread_hole : (updThread s u f).hole = s.hole := rfl
@[simp] theorem updThread_cur : (updThread s u f).cur = s.cur := rfl
@[simp] theorem updThread_inputs : (updThread s u f).inputs = s.inputs := rfl
@[simp] theorem updThread_outbox : (updThread s u f).outbox = s.outbox := rfl
@[simp] theorem updThread_clock : (updThread s u f).clock = s.clock := rfl
@[simp] theorem updThread_mem : (updThread s u f).mem = s.mem := rfl
@[simp] theorem updThread_l1 : (updThread s u f).l1 = s.l1 := rfl
@[simp] theorem updThread_l2 : (updThread s u f).l2 = s.l2 := rfl
@[simp] theorem updThread_icache : (updThread s u f).icache = s.icache := rfl
@[simp] theorem updThread_tlb : (updThread s u f).tlb = s.tlb := rfl
@[simp] theorem updThread_walks : (updThread s u f).walks = s.walks := rfl
@[simp] theorem updThread_pending : (updThread s u f).pending = s.pending := rfl
@[simp] theorem updThread_faultSeq : (updThread s u f).faultSeq = s.faultSeq := rfl
@[simp] theorem updThread_heldFaults : (updThread s u f).heldFaults = s.heldFaults := rfl
@[simp] theorem updThread_responses : (updThread s u f).responses = s.responses := rfl
@[simp] theorem updThread_shoots : (updThread s u f).shoots = s.shoots := rfl
@[simp] theorem updThread_synonyms : (updThread s u f).synonyms = s.synonyms := rfl
@[simp] theorem updThread_bar : (updThread s u f).bar = s.bar := rfl
@[simp] theorem updThread_msixMask : (updThread s u f).msixMask = s.msixMask := rfl
@[simp] theorem updThread_msixPend : (updThread s u f).msixPend = s.msixPend := rfl
@[simp] theorem updThread_errqs : (updThread s u f).errqs = s.errqs := rfl
@[simp] theorem updThread_pmcs : (updThread s u f).pmcs = s.pmcs := rfl
@[simp] theorem updThread_launches : (updThread s u f).launches = s.launches := rfl
@[simp] theorem updThread_blocks : (updThread s u f).blocks = s.blocks := rfl
@[simp] theorem updThread_slots : (updThread s u f).slots = s.slots := rfl
@[simp] theorem updThread_issuedNow : (updThread s u f).issuedNow = s.issuedNow := rfl
@[simp] theorem updThread_swapsNow : (updThread s u f).swapsNow = s.swapsNow := rfl
@[simp] theorem updThread_replays : (updThread s u f).replays = s.replays := rfl
@[simp] theorem updThread_ops : (updThread s u f).ops = s.ops := rfl
@[simp] theorem updThread_posts : (updThread s u f).posts = s.posts := rfl
@[simp] theorem updThread_fields : (updThread s u f).fields = s.fields := rfl
@[simp] theorem updThread_collSeq : (updThread s u f).collSeq = s.collSeq := rfl
@[simp] theorem updThread_wctx : (updThread s u f).wctx = s.wctx := rfl
@[simp] theorem updThread_scopes : (updThread s u f).scopes = s.scopes := rfl
@[simp] theorem updThread_homes : (updThread s u f).homes = s.homes := rfl
@[simp] theorem updThread_deficits : (updThread s u f).deficits = s.deficits := rfl
@[simp] theorem updThread_visiting : (updThread s u f).visiting = s.visiting := rfl
@[simp] theorem updThread_suspending : (updThread s u f).suspending = s.suspending := rfl
@[simp] theorem updThread_reach : (updThread s u f).reach = s.reach := rfl
@[simp] theorem updThread_service : (updThread s u f).service = s.service := rfl
@[simp] theorem updThread_boot : (updThread s u f).boot = s.boot := rfl
@[simp] theorem updThread_starts : (updThread s u f).starts = s.starts := rfl
@[simp] theorem updThread_fwSlots : (updThread s u f).fwSlots = s.fwSlots := rfl
@[simp] theorem updThread_fwRunning : (updThread s u f).fwRunning = s.fwRunning := rfl
@[simp] theorem updThread_changes : (updThread s u f).changes = s.changes := rfl
@[simp] theorem updThread_alarms : (updThread s u f).alarms = s.alarms := rfl
@[simp] theorem updThread_ports : (updThread s u f).ports = s.ports := rfl
@[simp] theorem updThread_links : (updThread s u f).links = s.links := rfl
@[simp] theorem updThread_posted : (updThread s u f).posted = s.posted := rfl
@[simp] theorem updThread_atomicOps : (updThread s u f).atomicOps = s.atomicOps := rfl
@[simp] theorem updThread_peersDown : (updThread s u f).peersDown = s.peersDown := rfl
@[simp] theorem updThread_hint1 : (updThread s u f).hint1 = s.hint1 := rfl
@[simp] theorem updThread_hint2 : (updThread s u f).hint2 = s.hint2 := rfl
@[simp] theorem updThread_fills : (updThread s u f).fills = s.fills := rfl
@[simp] theorem updThread_carried : (updThread s u f).carried = s.carried := rfl
@[simp] theorem updThread_flight : (updThread s u f).flight = s.flight := rfl
@[simp] theorem updThread_lens : (updThread s u f).lens = s.lens := rfl
@[simp] theorem updThread_lensId : (updThread s u f).lensId = s.lensId := rfl
@[simp] theorem updThread_ending : (updThread s u f).ending = s.ending := rfl
@[simp] theorem updThread_ages : (updThread s u f).ages = s.ages := rfl
@[simp] theorem updThread_resetting : (updThread s u f).resetting = s.resetting := rfl
@[simp] theorem updThread_heldReach : (updThread s u f).heldReach = s.heldReach := rfl
@[simp] theorem updThread_hostReqs : (updThread s u f).hostReqs = s.hostReqs := rfl
@[simp] theorem updThread_numVfs : (updThread s u f).numVfs = s.numVfs := rfl
@[simp] theorem updThread_noAtomics : (updThread s u f).noAtomics = s.noAtomics := rfl
@[simp] theorem updThread_peerClosed : (updThread s u f).peerClosed = s.peerClosed := rfl
@[simp] theorem updThread_bad : (updThread s u f).bad = s.bad := rfl
@[simp] theorem updThread_badReads : (updThread s u f).badReads = s.badReads := rfl
end UpdThread

section UpdBlock
variable (s : State) (u : Nat) (f : Block → Block)
@[simp] theorem updBlock_free : (updBlock s u f).free = s.free := rfl
@[simp] theorem updBlock_nextId : (updBlock s u f).nextId = s.nextId := rfl
@[simp] theorem updBlock_hole : (updBlock s u f).hole = s.hole := rfl
@[simp] theorem updBlock_cur : (updBlock s u f).cur = s.cur := rfl
@[simp] theorem updBlock_inputs : (updBlock s u f).inputs = s.inputs := rfl
@[simp] theorem updBlock_outbox : (updBlock s u f).outbox = s.outbox := rfl
@[simp] theorem updBlock_clock : (updBlock s u f).clock = s.clock := rfl
@[simp] theorem updBlock_mem : (updBlock s u f).mem = s.mem := rfl
@[simp] theorem updBlock_l1 : (updBlock s u f).l1 = s.l1 := rfl
@[simp] theorem updBlock_l2 : (updBlock s u f).l2 = s.l2 := rfl
@[simp] theorem updBlock_icache : (updBlock s u f).icache = s.icache := rfl
@[simp] theorem updBlock_tlb : (updBlock s u f).tlb = s.tlb := rfl
@[simp] theorem updBlock_walks : (updBlock s u f).walks = s.walks := rfl
@[simp] theorem updBlock_pending : (updBlock s u f).pending = s.pending := rfl
@[simp] theorem updBlock_faultSeq : (updBlock s u f).faultSeq = s.faultSeq := rfl
@[simp] theorem updBlock_heldFaults : (updBlock s u f).heldFaults = s.heldFaults := rfl
@[simp] theorem updBlock_responses : (updBlock s u f).responses = s.responses := rfl
@[simp] theorem updBlock_shoots : (updBlock s u f).shoots = s.shoots := rfl
@[simp] theorem updBlock_synonyms : (updBlock s u f).synonyms = s.synonyms := rfl
@[simp] theorem updBlock_bar : (updBlock s u f).bar = s.bar := rfl
@[simp] theorem updBlock_msixMask : (updBlock s u f).msixMask = s.msixMask := rfl
@[simp] theorem updBlock_msixPend : (updBlock s u f).msixPend = s.msixPend := rfl
@[simp] theorem updBlock_errqs : (updBlock s u f).errqs = s.errqs := rfl
@[simp] theorem updBlock_pmcs : (updBlock s u f).pmcs = s.pmcs := rfl
@[simp] theorem updBlock_launches : (updBlock s u f).launches = s.launches := rfl
@[simp] theorem updBlock_threads : (updBlock s u f).threads = s.threads := rfl
@[simp] theorem updBlock_slots : (updBlock s u f).slots = s.slots := rfl
@[simp] theorem updBlock_issuedNow : (updBlock s u f).issuedNow = s.issuedNow := rfl
@[simp] theorem updBlock_swapsNow : (updBlock s u f).swapsNow = s.swapsNow := rfl
@[simp] theorem updBlock_replays : (updBlock s u f).replays = s.replays := rfl
@[simp] theorem updBlock_ops : (updBlock s u f).ops = s.ops := rfl
@[simp] theorem updBlock_posts : (updBlock s u f).posts = s.posts := rfl
@[simp] theorem updBlock_fields : (updBlock s u f).fields = s.fields := rfl
@[simp] theorem updBlock_collSeq : (updBlock s u f).collSeq = s.collSeq := rfl
@[simp] theorem updBlock_wctx : (updBlock s u f).wctx = s.wctx := rfl
@[simp] theorem updBlock_scopes : (updBlock s u f).scopes = s.scopes := rfl
@[simp] theorem updBlock_homes : (updBlock s u f).homes = s.homes := rfl
@[simp] theorem updBlock_deficits : (updBlock s u f).deficits = s.deficits := rfl
@[simp] theorem updBlock_visiting : (updBlock s u f).visiting = s.visiting := rfl
@[simp] theorem updBlock_suspending : (updBlock s u f).suspending = s.suspending := rfl
@[simp] theorem updBlock_reach : (updBlock s u f).reach = s.reach := rfl
@[simp] theorem updBlock_service : (updBlock s u f).service = s.service := rfl
@[simp] theorem updBlock_boot : (updBlock s u f).boot = s.boot := rfl
@[simp] theorem updBlock_starts : (updBlock s u f).starts = s.starts := rfl
@[simp] theorem updBlock_fwSlots : (updBlock s u f).fwSlots = s.fwSlots := rfl
@[simp] theorem updBlock_fwRunning : (updBlock s u f).fwRunning = s.fwRunning := rfl
@[simp] theorem updBlock_changes : (updBlock s u f).changes = s.changes := rfl
@[simp] theorem updBlock_alarms : (updBlock s u f).alarms = s.alarms := rfl
@[simp] theorem updBlock_ports : (updBlock s u f).ports = s.ports := rfl
@[simp] theorem updBlock_links : (updBlock s u f).links = s.links := rfl
@[simp] theorem updBlock_posted : (updBlock s u f).posted = s.posted := rfl
@[simp] theorem updBlock_atomicOps : (updBlock s u f).atomicOps = s.atomicOps := rfl
@[simp] theorem updBlock_peersDown : (updBlock s u f).peersDown = s.peersDown := rfl
@[simp] theorem updBlock_hint1 : (updBlock s u f).hint1 = s.hint1 := rfl
@[simp] theorem updBlock_hint2 : (updBlock s u f).hint2 = s.hint2 := rfl
@[simp] theorem updBlock_fills : (updBlock s u f).fills = s.fills := rfl
@[simp] theorem updBlock_carried : (updBlock s u f).carried = s.carried := rfl
@[simp] theorem updBlock_flight : (updBlock s u f).flight = s.flight := rfl
@[simp] theorem updBlock_lens : (updBlock s u f).lens = s.lens := rfl
@[simp] theorem updBlock_lensId : (updBlock s u f).lensId = s.lensId := rfl
@[simp] theorem updBlock_ending : (updBlock s u f).ending = s.ending := rfl
@[simp] theorem updBlock_ages : (updBlock s u f).ages = s.ages := rfl
@[simp] theorem updBlock_resetting : (updBlock s u f).resetting = s.resetting := rfl
@[simp] theorem updBlock_heldReach : (updBlock s u f).heldReach = s.heldReach := rfl
@[simp] theorem updBlock_hostReqs : (updBlock s u f).hostReqs = s.hostReqs := rfl
@[simp] theorem updBlock_numVfs : (updBlock s u f).numVfs = s.numVfs := rfl
@[simp] theorem updBlock_noAtomics : (updBlock s u f).noAtomics = s.noAtomics := rfl
@[simp] theorem updBlock_peerClosed : (updBlock s u f).peerClosed = s.peerClosed := rfl
@[simp] theorem updBlock_bad : (updBlock s u f).bad = s.bad := rfl
@[simp] theorem updBlock_badReads : (updBlock s u f).badReads = s.badReads := rfl
end UpdBlock

section UpdLaunch
variable (s : State) (u : Nat) (f : Launch → Launch)
@[simp] theorem updLaunch_free : (updLaunch s u f).free = s.free := rfl
@[simp] theorem updLaunch_nextId : (updLaunch s u f).nextId = s.nextId := rfl
@[simp] theorem updLaunch_hole : (updLaunch s u f).hole = s.hole := rfl
@[simp] theorem updLaunch_cur : (updLaunch s u f).cur = s.cur := rfl
@[simp] theorem updLaunch_inputs : (updLaunch s u f).inputs = s.inputs := rfl
@[simp] theorem updLaunch_outbox : (updLaunch s u f).outbox = s.outbox := rfl
@[simp] theorem updLaunch_clock : (updLaunch s u f).clock = s.clock := rfl
@[simp] theorem updLaunch_mem : (updLaunch s u f).mem = s.mem := rfl
@[simp] theorem updLaunch_l1 : (updLaunch s u f).l1 = s.l1 := rfl
@[simp] theorem updLaunch_l2 : (updLaunch s u f).l2 = s.l2 := rfl
@[simp] theorem updLaunch_icache : (updLaunch s u f).icache = s.icache := rfl
@[simp] theorem updLaunch_tlb : (updLaunch s u f).tlb = s.tlb := rfl
@[simp] theorem updLaunch_walks : (updLaunch s u f).walks = s.walks := rfl
@[simp] theorem updLaunch_pending : (updLaunch s u f).pending = s.pending := rfl
@[simp] theorem updLaunch_faultSeq : (updLaunch s u f).faultSeq = s.faultSeq := rfl
@[simp] theorem updLaunch_heldFaults : (updLaunch s u f).heldFaults = s.heldFaults := rfl
@[simp] theorem updLaunch_responses : (updLaunch s u f).responses = s.responses := rfl
@[simp] theorem updLaunch_shoots : (updLaunch s u f).shoots = s.shoots := rfl
@[simp] theorem updLaunch_synonyms : (updLaunch s u f).synonyms = s.synonyms := rfl
@[simp] theorem updLaunch_bar : (updLaunch s u f).bar = s.bar := rfl
@[simp] theorem updLaunch_msixMask : (updLaunch s u f).msixMask = s.msixMask := rfl
@[simp] theorem updLaunch_msixPend : (updLaunch s u f).msixPend = s.msixPend := rfl
@[simp] theorem updLaunch_errqs : (updLaunch s u f).errqs = s.errqs := rfl
@[simp] theorem updLaunch_pmcs : (updLaunch s u f).pmcs = s.pmcs := rfl
@[simp] theorem updLaunch_blocks : (updLaunch s u f).blocks = s.blocks := rfl
@[simp] theorem updLaunch_threads : (updLaunch s u f).threads = s.threads := rfl
@[simp] theorem updLaunch_slots : (updLaunch s u f).slots = s.slots := rfl
@[simp] theorem updLaunch_issuedNow : (updLaunch s u f).issuedNow = s.issuedNow := rfl
@[simp] theorem updLaunch_swapsNow : (updLaunch s u f).swapsNow = s.swapsNow := rfl
@[simp] theorem updLaunch_replays : (updLaunch s u f).replays = s.replays := rfl
@[simp] theorem updLaunch_ops : (updLaunch s u f).ops = s.ops := rfl
@[simp] theorem updLaunch_posts : (updLaunch s u f).posts = s.posts := rfl
@[simp] theorem updLaunch_fields : (updLaunch s u f).fields = s.fields := rfl
@[simp] theorem updLaunch_collSeq : (updLaunch s u f).collSeq = s.collSeq := rfl
@[simp] theorem updLaunch_wctx : (updLaunch s u f).wctx = s.wctx := rfl
@[simp] theorem updLaunch_scopes : (updLaunch s u f).scopes = s.scopes := rfl
@[simp] theorem updLaunch_homes : (updLaunch s u f).homes = s.homes := rfl
@[simp] theorem updLaunch_deficits : (updLaunch s u f).deficits = s.deficits := rfl
@[simp] theorem updLaunch_visiting : (updLaunch s u f).visiting = s.visiting := rfl
@[simp] theorem updLaunch_suspending : (updLaunch s u f).suspending = s.suspending := rfl
@[simp] theorem updLaunch_reach : (updLaunch s u f).reach = s.reach := rfl
@[simp] theorem updLaunch_service : (updLaunch s u f).service = s.service := rfl
@[simp] theorem updLaunch_boot : (updLaunch s u f).boot = s.boot := rfl
@[simp] theorem updLaunch_starts : (updLaunch s u f).starts = s.starts := rfl
@[simp] theorem updLaunch_fwSlots : (updLaunch s u f).fwSlots = s.fwSlots := rfl
@[simp] theorem updLaunch_fwRunning : (updLaunch s u f).fwRunning = s.fwRunning := rfl
@[simp] theorem updLaunch_changes : (updLaunch s u f).changes = s.changes := rfl
@[simp] theorem updLaunch_alarms : (updLaunch s u f).alarms = s.alarms := rfl
@[simp] theorem updLaunch_ports : (updLaunch s u f).ports = s.ports := rfl
@[simp] theorem updLaunch_links : (updLaunch s u f).links = s.links := rfl
@[simp] theorem updLaunch_posted : (updLaunch s u f).posted = s.posted := rfl
@[simp] theorem updLaunch_atomicOps : (updLaunch s u f).atomicOps = s.atomicOps := rfl
@[simp] theorem updLaunch_peersDown : (updLaunch s u f).peersDown = s.peersDown := rfl
@[simp] theorem updLaunch_hint1 : (updLaunch s u f).hint1 = s.hint1 := rfl
@[simp] theorem updLaunch_hint2 : (updLaunch s u f).hint2 = s.hint2 := rfl
@[simp] theorem updLaunch_fills : (updLaunch s u f).fills = s.fills := rfl
@[simp] theorem updLaunch_carried : (updLaunch s u f).carried = s.carried := rfl
@[simp] theorem updLaunch_flight : (updLaunch s u f).flight = s.flight := rfl
@[simp] theorem updLaunch_lens : (updLaunch s u f).lens = s.lens := rfl
@[simp] theorem updLaunch_lensId : (updLaunch s u f).lensId = s.lensId := rfl
@[simp] theorem updLaunch_ending : (updLaunch s u f).ending = s.ending := rfl
@[simp] theorem updLaunch_ages : (updLaunch s u f).ages = s.ages := rfl
@[simp] theorem updLaunch_resetting : (updLaunch s u f).resetting = s.resetting := rfl
@[simp] theorem updLaunch_heldReach : (updLaunch s u f).heldReach = s.heldReach := rfl
@[simp] theorem updLaunch_hostReqs : (updLaunch s u f).hostReqs = s.hostReqs := rfl
@[simp] theorem updLaunch_numVfs : (updLaunch s u f).numVfs = s.numVfs := rfl
@[simp] theorem updLaunch_noAtomics : (updLaunch s u f).noAtomics = s.noAtomics := rfl
@[simp] theorem updLaunch_peerClosed : (updLaunch s u f).peerClosed = s.peerClosed := rfl
@[simp] theorem updLaunch_bad : (updLaunch s u f).bad = s.bad := rfl
@[simp] theorem updLaunch_badReads : (updLaunch s u f).badReads = s.badReads := rfl
end UpdLaunch

section UpdReplay
variable (s : State) (u : Nat) (f : Replay → Replay)
@[simp] theorem updReplay_free : (updReplay s u f).free = s.free := rfl
@[simp] theorem updReplay_nextId : (updReplay s u f).nextId = s.nextId := rfl
@[simp] theorem updReplay_hole : (updReplay s u f).hole = s.hole := rfl
@[simp] theorem updReplay_cur : (updReplay s u f).cur = s.cur := rfl
@[simp] theorem updReplay_inputs : (updReplay s u f).inputs = s.inputs := rfl
@[simp] theorem updReplay_outbox : (updReplay s u f).outbox = s.outbox := rfl
@[simp] theorem updReplay_clock : (updReplay s u f).clock = s.clock := rfl
@[simp] theorem updReplay_mem : (updReplay s u f).mem = s.mem := rfl
@[simp] theorem updReplay_l1 : (updReplay s u f).l1 = s.l1 := rfl
@[simp] theorem updReplay_l2 : (updReplay s u f).l2 = s.l2 := rfl
@[simp] theorem updReplay_icache : (updReplay s u f).icache = s.icache := rfl
@[simp] theorem updReplay_tlb : (updReplay s u f).tlb = s.tlb := rfl
@[simp] theorem updReplay_walks : (updReplay s u f).walks = s.walks := rfl
@[simp] theorem updReplay_pending : (updReplay s u f).pending = s.pending := rfl
@[simp] theorem updReplay_faultSeq : (updReplay s u f).faultSeq = s.faultSeq := rfl
@[simp] theorem updReplay_heldFaults : (updReplay s u f).heldFaults = s.heldFaults := rfl
@[simp] theorem updReplay_responses : (updReplay s u f).responses = s.responses := rfl
@[simp] theorem updReplay_shoots : (updReplay s u f).shoots = s.shoots := rfl
@[simp] theorem updReplay_synonyms : (updReplay s u f).synonyms = s.synonyms := rfl
@[simp] theorem updReplay_bar : (updReplay s u f).bar = s.bar := rfl
@[simp] theorem updReplay_msixMask : (updReplay s u f).msixMask = s.msixMask := rfl
@[simp] theorem updReplay_msixPend : (updReplay s u f).msixPend = s.msixPend := rfl
@[simp] theorem updReplay_errqs : (updReplay s u f).errqs = s.errqs := rfl
@[simp] theorem updReplay_pmcs : (updReplay s u f).pmcs = s.pmcs := rfl
@[simp] theorem updReplay_launches : (updReplay s u f).launches = s.launches := rfl
@[simp] theorem updReplay_blocks : (updReplay s u f).blocks = s.blocks := rfl
@[simp] theorem updReplay_threads : (updReplay s u f).threads = s.threads := rfl
@[simp] theorem updReplay_slots : (updReplay s u f).slots = s.slots := rfl
@[simp] theorem updReplay_issuedNow : (updReplay s u f).issuedNow = s.issuedNow := rfl
@[simp] theorem updReplay_swapsNow : (updReplay s u f).swapsNow = s.swapsNow := rfl
@[simp] theorem updReplay_ops : (updReplay s u f).ops = s.ops := rfl
@[simp] theorem updReplay_posts : (updReplay s u f).posts = s.posts := rfl
@[simp] theorem updReplay_fields : (updReplay s u f).fields = s.fields := rfl
@[simp] theorem updReplay_collSeq : (updReplay s u f).collSeq = s.collSeq := rfl
@[simp] theorem updReplay_wctx : (updReplay s u f).wctx = s.wctx := rfl
@[simp] theorem updReplay_scopes : (updReplay s u f).scopes = s.scopes := rfl
@[simp] theorem updReplay_homes : (updReplay s u f).homes = s.homes := rfl
@[simp] theorem updReplay_deficits : (updReplay s u f).deficits = s.deficits := rfl
@[simp] theorem updReplay_visiting : (updReplay s u f).visiting = s.visiting := rfl
@[simp] theorem updReplay_suspending : (updReplay s u f).suspending = s.suspending := rfl
@[simp] theorem updReplay_reach : (updReplay s u f).reach = s.reach := rfl
@[simp] theorem updReplay_service : (updReplay s u f).service = s.service := rfl
@[simp] theorem updReplay_boot : (updReplay s u f).boot = s.boot := rfl
@[simp] theorem updReplay_starts : (updReplay s u f).starts = s.starts := rfl
@[simp] theorem updReplay_fwSlots : (updReplay s u f).fwSlots = s.fwSlots := rfl
@[simp] theorem updReplay_fwRunning : (updReplay s u f).fwRunning = s.fwRunning := rfl
@[simp] theorem updReplay_changes : (updReplay s u f).changes = s.changes := rfl
@[simp] theorem updReplay_alarms : (updReplay s u f).alarms = s.alarms := rfl
@[simp] theorem updReplay_ports : (updReplay s u f).ports = s.ports := rfl
@[simp] theorem updReplay_links : (updReplay s u f).links = s.links := rfl
@[simp] theorem updReplay_posted : (updReplay s u f).posted = s.posted := rfl
@[simp] theorem updReplay_atomicOps : (updReplay s u f).atomicOps = s.atomicOps := rfl
@[simp] theorem updReplay_peersDown : (updReplay s u f).peersDown = s.peersDown := rfl
@[simp] theorem updReplay_hint1 : (updReplay s u f).hint1 = s.hint1 := rfl
@[simp] theorem updReplay_hint2 : (updReplay s u f).hint2 = s.hint2 := rfl
@[simp] theorem updReplay_fills : (updReplay s u f).fills = s.fills := rfl
@[simp] theorem updReplay_carried : (updReplay s u f).carried = s.carried := rfl
@[simp] theorem updReplay_flight : (updReplay s u f).flight = s.flight := rfl
@[simp] theorem updReplay_lens : (updReplay s u f).lens = s.lens := rfl
@[simp] theorem updReplay_lensId : (updReplay s u f).lensId = s.lensId := rfl
@[simp] theorem updReplay_ending : (updReplay s u f).ending = s.ending := rfl
@[simp] theorem updReplay_ages : (updReplay s u f).ages = s.ages := rfl
@[simp] theorem updReplay_resetting : (updReplay s u f).resetting = s.resetting := rfl
@[simp] theorem updReplay_heldReach : (updReplay s u f).heldReach = s.heldReach := rfl
@[simp] theorem updReplay_hostReqs : (updReplay s u f).hostReqs = s.hostReqs := rfl
@[simp] theorem updReplay_numVfs : (updReplay s u f).numVfs = s.numVfs := rfl
@[simp] theorem updReplay_noAtomics : (updReplay s u f).noAtomics = s.noAtomics := rfl
@[simp] theorem updReplay_peerClosed : (updReplay s u f).peerClosed = s.peerClosed := rfl
@[simp] theorem updReplay_bad : (updReplay s u f).bad = s.bad := rfl
@[simp] theorem updReplay_badReads : (updReplay s u f).badReads = s.badReads := rfl
end UpdReplay

section UpdOp
variable (s : State) (u : Nat) (f : EOp → EOp)
@[simp] theorem updOp_free : (updOp s u f).free = s.free := rfl
@[simp] theorem updOp_nextId : (updOp s u f).nextId = s.nextId := rfl
@[simp] theorem updOp_hole : (updOp s u f).hole = s.hole := rfl
@[simp] theorem updOp_cur : (updOp s u f).cur = s.cur := rfl
@[simp] theorem updOp_inputs : (updOp s u f).inputs = s.inputs := rfl
@[simp] theorem updOp_outbox : (updOp s u f).outbox = s.outbox := rfl
@[simp] theorem updOp_clock : (updOp s u f).clock = s.clock := rfl
@[simp] theorem updOp_mem : (updOp s u f).mem = s.mem := rfl
@[simp] theorem updOp_l1 : (updOp s u f).l1 = s.l1 := rfl
@[simp] theorem updOp_l2 : (updOp s u f).l2 = s.l2 := rfl
@[simp] theorem updOp_icache : (updOp s u f).icache = s.icache := rfl
@[simp] theorem updOp_tlb : (updOp s u f).tlb = s.tlb := rfl
@[simp] theorem updOp_walks : (updOp s u f).walks = s.walks := rfl
@[simp] theorem updOp_pending : (updOp s u f).pending = s.pending := rfl
@[simp] theorem updOp_faultSeq : (updOp s u f).faultSeq = s.faultSeq := rfl
@[simp] theorem updOp_heldFaults : (updOp s u f).heldFaults = s.heldFaults := rfl
@[simp] theorem updOp_responses : (updOp s u f).responses = s.responses := rfl
@[simp] theorem updOp_shoots : (updOp s u f).shoots = s.shoots := rfl
@[simp] theorem updOp_synonyms : (updOp s u f).synonyms = s.synonyms := rfl
@[simp] theorem updOp_bar : (updOp s u f).bar = s.bar := rfl
@[simp] theorem updOp_msixMask : (updOp s u f).msixMask = s.msixMask := rfl
@[simp] theorem updOp_msixPend : (updOp s u f).msixPend = s.msixPend := rfl
@[simp] theorem updOp_errqs : (updOp s u f).errqs = s.errqs := rfl
@[simp] theorem updOp_pmcs : (updOp s u f).pmcs = s.pmcs := rfl
@[simp] theorem updOp_launches : (updOp s u f).launches = s.launches := rfl
@[simp] theorem updOp_blocks : (updOp s u f).blocks = s.blocks := rfl
@[simp] theorem updOp_threads : (updOp s u f).threads = s.threads := rfl
@[simp] theorem updOp_slots : (updOp s u f).slots = s.slots := rfl
@[simp] theorem updOp_issuedNow : (updOp s u f).issuedNow = s.issuedNow := rfl
@[simp] theorem updOp_swapsNow : (updOp s u f).swapsNow = s.swapsNow := rfl
@[simp] theorem updOp_replays : (updOp s u f).replays = s.replays := rfl
@[simp] theorem updOp_posts : (updOp s u f).posts = s.posts := rfl
@[simp] theorem updOp_fields : (updOp s u f).fields = s.fields := rfl
@[simp] theorem updOp_collSeq : (updOp s u f).collSeq = s.collSeq := rfl
@[simp] theorem updOp_wctx : (updOp s u f).wctx = s.wctx := rfl
@[simp] theorem updOp_scopes : (updOp s u f).scopes = s.scopes := rfl
@[simp] theorem updOp_homes : (updOp s u f).homes = s.homes := rfl
@[simp] theorem updOp_deficits : (updOp s u f).deficits = s.deficits := rfl
@[simp] theorem updOp_visiting : (updOp s u f).visiting = s.visiting := rfl
@[simp] theorem updOp_suspending : (updOp s u f).suspending = s.suspending := rfl
@[simp] theorem updOp_reach : (updOp s u f).reach = s.reach := rfl
@[simp] theorem updOp_service : (updOp s u f).service = s.service := rfl
@[simp] theorem updOp_boot : (updOp s u f).boot = s.boot := rfl
@[simp] theorem updOp_starts : (updOp s u f).starts = s.starts := rfl
@[simp] theorem updOp_fwSlots : (updOp s u f).fwSlots = s.fwSlots := rfl
@[simp] theorem updOp_fwRunning : (updOp s u f).fwRunning = s.fwRunning := rfl
@[simp] theorem updOp_changes : (updOp s u f).changes = s.changes := rfl
@[simp] theorem updOp_alarms : (updOp s u f).alarms = s.alarms := rfl
@[simp] theorem updOp_ports : (updOp s u f).ports = s.ports := rfl
@[simp] theorem updOp_links : (updOp s u f).links = s.links := rfl
@[simp] theorem updOp_posted : (updOp s u f).posted = s.posted := rfl
@[simp] theorem updOp_atomicOps : (updOp s u f).atomicOps = s.atomicOps := rfl
@[simp] theorem updOp_peersDown : (updOp s u f).peersDown = s.peersDown := rfl
@[simp] theorem updOp_hint1 : (updOp s u f).hint1 = s.hint1 := rfl
@[simp] theorem updOp_hint2 : (updOp s u f).hint2 = s.hint2 := rfl
@[simp] theorem updOp_fills : (updOp s u f).fills = s.fills := rfl
@[simp] theorem updOp_carried : (updOp s u f).carried = s.carried := rfl
@[simp] theorem updOp_flight : (updOp s u f).flight = s.flight := rfl
@[simp] theorem updOp_lens : (updOp s u f).lens = s.lens := rfl
@[simp] theorem updOp_lensId : (updOp s u f).lensId = s.lensId := rfl
@[simp] theorem updOp_ending : (updOp s u f).ending = s.ending := rfl
@[simp] theorem updOp_ages : (updOp s u f).ages = s.ages := rfl
@[simp] theorem updOp_resetting : (updOp s u f).resetting = s.resetting := rfl
@[simp] theorem updOp_heldReach : (updOp s u f).heldReach = s.heldReach := rfl
@[simp] theorem updOp_hostReqs : (updOp s u f).hostReqs = s.hostReqs := rfl
@[simp] theorem updOp_numVfs : (updOp s u f).numVfs = s.numVfs := rfl
@[simp] theorem updOp_noAtomics : (updOp s u f).noAtomics = s.noAtomics := rfl
@[simp] theorem updOp_peerClosed : (updOp s u f).peerClosed = s.peerClosed := rfl
@[simp] theorem updOp_bad : (updOp s u f).bad = s.bad := rfl
@[simp] theorem updOp_badReads : (updOp s u f).badReads = s.badReads := rfl
end UpdOp

section UpdScope
variable (s : State) (u : Nat) (f : Tourn → Tourn)
@[simp] theorem updScope_free : (updScope s u f).free = s.free := rfl
@[simp] theorem updScope_nextId : (updScope s u f).nextId = s.nextId := rfl
@[simp] theorem updScope_hole : (updScope s u f).hole = s.hole := rfl
@[simp] theorem updScope_cur : (updScope s u f).cur = s.cur := rfl
@[simp] theorem updScope_inputs : (updScope s u f).inputs = s.inputs := rfl
@[simp] theorem updScope_outbox : (updScope s u f).outbox = s.outbox := rfl
@[simp] theorem updScope_clock : (updScope s u f).clock = s.clock := rfl
@[simp] theorem updScope_mem : (updScope s u f).mem = s.mem := rfl
@[simp] theorem updScope_l1 : (updScope s u f).l1 = s.l1 := rfl
@[simp] theorem updScope_l2 : (updScope s u f).l2 = s.l2 := rfl
@[simp] theorem updScope_icache : (updScope s u f).icache = s.icache := rfl
@[simp] theorem updScope_tlb : (updScope s u f).tlb = s.tlb := rfl
@[simp] theorem updScope_walks : (updScope s u f).walks = s.walks := rfl
@[simp] theorem updScope_pending : (updScope s u f).pending = s.pending := rfl
@[simp] theorem updScope_faultSeq : (updScope s u f).faultSeq = s.faultSeq := rfl
@[simp] theorem updScope_heldFaults : (updScope s u f).heldFaults = s.heldFaults := rfl
@[simp] theorem updScope_responses : (updScope s u f).responses = s.responses := rfl
@[simp] theorem updScope_shoots : (updScope s u f).shoots = s.shoots := rfl
@[simp] theorem updScope_synonyms : (updScope s u f).synonyms = s.synonyms := rfl
@[simp] theorem updScope_bar : (updScope s u f).bar = s.bar := rfl
@[simp] theorem updScope_msixMask : (updScope s u f).msixMask = s.msixMask := rfl
@[simp] theorem updScope_msixPend : (updScope s u f).msixPend = s.msixPend := rfl
@[simp] theorem updScope_errqs : (updScope s u f).errqs = s.errqs := rfl
@[simp] theorem updScope_pmcs : (updScope s u f).pmcs = s.pmcs := rfl
@[simp] theorem updScope_launches : (updScope s u f).launches = s.launches := rfl
@[simp] theorem updScope_blocks : (updScope s u f).blocks = s.blocks := rfl
@[simp] theorem updScope_threads : (updScope s u f).threads = s.threads := rfl
@[simp] theorem updScope_slots : (updScope s u f).slots = s.slots := rfl
@[simp] theorem updScope_issuedNow : (updScope s u f).issuedNow = s.issuedNow := rfl
@[simp] theorem updScope_swapsNow : (updScope s u f).swapsNow = s.swapsNow := rfl
@[simp] theorem updScope_replays : (updScope s u f).replays = s.replays := rfl
@[simp] theorem updScope_ops : (updScope s u f).ops = s.ops := rfl
@[simp] theorem updScope_posts : (updScope s u f).posts = s.posts := rfl
@[simp] theorem updScope_fields : (updScope s u f).fields = s.fields := rfl
@[simp] theorem updScope_collSeq : (updScope s u f).collSeq = s.collSeq := rfl
@[simp] theorem updScope_wctx : (updScope s u f).wctx = s.wctx := rfl
@[simp] theorem updScope_homes : (updScope s u f).homes = s.homes := rfl
@[simp] theorem updScope_deficits : (updScope s u f).deficits = s.deficits := rfl
@[simp] theorem updScope_visiting : (updScope s u f).visiting = s.visiting := rfl
@[simp] theorem updScope_suspending : (updScope s u f).suspending = s.suspending := rfl
@[simp] theorem updScope_reach : (updScope s u f).reach = s.reach := rfl
@[simp] theorem updScope_service : (updScope s u f).service = s.service := rfl
@[simp] theorem updScope_boot : (updScope s u f).boot = s.boot := rfl
@[simp] theorem updScope_starts : (updScope s u f).starts = s.starts := rfl
@[simp] theorem updScope_fwSlots : (updScope s u f).fwSlots = s.fwSlots := rfl
@[simp] theorem updScope_fwRunning : (updScope s u f).fwRunning = s.fwRunning := rfl
@[simp] theorem updScope_changes : (updScope s u f).changes = s.changes := rfl
@[simp] theorem updScope_alarms : (updScope s u f).alarms = s.alarms := rfl
@[simp] theorem updScope_ports : (updScope s u f).ports = s.ports := rfl
@[simp] theorem updScope_links : (updScope s u f).links = s.links := rfl
@[simp] theorem updScope_posted : (updScope s u f).posted = s.posted := rfl
@[simp] theorem updScope_atomicOps : (updScope s u f).atomicOps = s.atomicOps := rfl
@[simp] theorem updScope_peersDown : (updScope s u f).peersDown = s.peersDown := rfl
@[simp] theorem updScope_hint1 : (updScope s u f).hint1 = s.hint1 := rfl
@[simp] theorem updScope_hint2 : (updScope s u f).hint2 = s.hint2 := rfl
@[simp] theorem updScope_fills : (updScope s u f).fills = s.fills := rfl
@[simp] theorem updScope_carried : (updScope s u f).carried = s.carried := rfl
@[simp] theorem updScope_flight : (updScope s u f).flight = s.flight := rfl
@[simp] theorem updScope_lens : (updScope s u f).lens = s.lens := rfl
@[simp] theorem updScope_lensId : (updScope s u f).lensId = s.lensId := rfl
@[simp] theorem updScope_ending : (updScope s u f).ending = s.ending := rfl
@[simp] theorem updScope_ages : (updScope s u f).ages = s.ages := rfl
@[simp] theorem updScope_resetting : (updScope s u f).resetting = s.resetting := rfl
@[simp] theorem updScope_heldReach : (updScope s u f).heldReach = s.heldReach := rfl
@[simp] theorem updScope_hostReqs : (updScope s u f).hostReqs = s.hostReqs := rfl
@[simp] theorem updScope_numVfs : (updScope s u f).numVfs = s.numVfs := rfl
@[simp] theorem updScope_noAtomics : (updScope s u f).noAtomics = s.noAtomics := rfl
@[simp] theorem updScope_peerClosed : (updScope s u f).peerClosed = s.peerClosed := rfl
@[simp] theorem updScope_bad : (updScope s u f).bad = s.bad := rfl
@[simp] theorem updScope_badReads : (updScope s u f).badReads = s.badReads := rfl
end UpdScope

section MemWrite
variable (s : State) (k : Nat) (bs : List Byte)
@[simp] theorem memWrite_free : (memWrite s k bs).free = s.free := rfl
@[simp] theorem memWrite_nextId : (memWrite s k bs).nextId = s.nextId := rfl
@[simp] theorem memWrite_hole : (memWrite s k bs).hole = s.hole := rfl
@[simp] theorem memWrite_cur : (memWrite s k bs).cur = s.cur := rfl
@[simp] theorem memWrite_inputs : (memWrite s k bs).inputs = s.inputs := rfl
@[simp] theorem memWrite_outbox : (memWrite s k bs).outbox = s.outbox := rfl
@[simp] theorem memWrite_clock : (memWrite s k bs).clock = s.clock := rfl
@[simp] theorem memWrite_l1 : (memWrite s k bs).l1 = s.l1 := rfl
@[simp] theorem memWrite_l2 : (memWrite s k bs).l2 = s.l2 := rfl
@[simp] theorem memWrite_icache : (memWrite s k bs).icache = s.icache := rfl
@[simp] theorem memWrite_tlb : (memWrite s k bs).tlb = s.tlb := rfl
@[simp] theorem memWrite_walks : (memWrite s k bs).walks = s.walks := rfl
@[simp] theorem memWrite_pending : (memWrite s k bs).pending = s.pending := rfl
@[simp] theorem memWrite_faultSeq : (memWrite s k bs).faultSeq = s.faultSeq := rfl
@[simp] theorem memWrite_heldFaults : (memWrite s k bs).heldFaults = s.heldFaults := rfl
@[simp] theorem memWrite_responses : (memWrite s k bs).responses = s.responses := rfl
@[simp] theorem memWrite_shoots : (memWrite s k bs).shoots = s.shoots := rfl
@[simp] theorem memWrite_synonyms : (memWrite s k bs).synonyms = s.synonyms := rfl
@[simp] theorem memWrite_bar : (memWrite s k bs).bar = s.bar := rfl
@[simp] theorem memWrite_msixMask : (memWrite s k bs).msixMask = s.msixMask := rfl
@[simp] theorem memWrite_msixPend : (memWrite s k bs).msixPend = s.msixPend := rfl
@[simp] theorem memWrite_errqs : (memWrite s k bs).errqs = s.errqs := rfl
@[simp] theorem memWrite_pmcs : (memWrite s k bs).pmcs = s.pmcs := rfl
@[simp] theorem memWrite_launches : (memWrite s k bs).launches = s.launches := rfl
@[simp] theorem memWrite_blocks : (memWrite s k bs).blocks = s.blocks := rfl
@[simp] theorem memWrite_threads : (memWrite s k bs).threads = s.threads := rfl
@[simp] theorem memWrite_slots : (memWrite s k bs).slots = s.slots := rfl
@[simp] theorem memWrite_issuedNow : (memWrite s k bs).issuedNow = s.issuedNow := rfl
@[simp] theorem memWrite_swapsNow : (memWrite s k bs).swapsNow = s.swapsNow := rfl
@[simp] theorem memWrite_replays : (memWrite s k bs).replays = s.replays := rfl
@[simp] theorem memWrite_ops : (memWrite s k bs).ops = s.ops := rfl
@[simp] theorem memWrite_posts : (memWrite s k bs).posts = s.posts := rfl
@[simp] theorem memWrite_fields : (memWrite s k bs).fields = s.fields := rfl
@[simp] theorem memWrite_collSeq : (memWrite s k bs).collSeq = s.collSeq := rfl
@[simp] theorem memWrite_wctx : (memWrite s k bs).wctx = s.wctx := rfl
@[simp] theorem memWrite_scopes : (memWrite s k bs).scopes = s.scopes := rfl
@[simp] theorem memWrite_homes : (memWrite s k bs).homes = s.homes := rfl
@[simp] theorem memWrite_deficits : (memWrite s k bs).deficits = s.deficits := rfl
@[simp] theorem memWrite_visiting : (memWrite s k bs).visiting = s.visiting := rfl
@[simp] theorem memWrite_suspending : (memWrite s k bs).suspending = s.suspending := rfl
@[simp] theorem memWrite_reach : (memWrite s k bs).reach = s.reach := rfl
@[simp] theorem memWrite_service : (memWrite s k bs).service = s.service := rfl
@[simp] theorem memWrite_boot : (memWrite s k bs).boot = s.boot := rfl
@[simp] theorem memWrite_starts : (memWrite s k bs).starts = s.starts := rfl
@[simp] theorem memWrite_fwSlots : (memWrite s k bs).fwSlots = s.fwSlots := rfl
@[simp] theorem memWrite_fwRunning : (memWrite s k bs).fwRunning = s.fwRunning := rfl
@[simp] theorem memWrite_changes : (memWrite s k bs).changes = s.changes := rfl
@[simp] theorem memWrite_alarms : (memWrite s k bs).alarms = s.alarms := rfl
@[simp] theorem memWrite_ports : (memWrite s k bs).ports = s.ports := rfl
@[simp] theorem memWrite_links : (memWrite s k bs).links = s.links := rfl
@[simp] theorem memWrite_posted : (memWrite s k bs).posted = s.posted := rfl
@[simp] theorem memWrite_atomicOps : (memWrite s k bs).atomicOps = s.atomicOps := rfl
@[simp] theorem memWrite_peersDown : (memWrite s k bs).peersDown = s.peersDown := rfl
@[simp] theorem memWrite_hint1 : (memWrite s k bs).hint1 = s.hint1 := rfl
@[simp] theorem memWrite_hint2 : (memWrite s k bs).hint2 = s.hint2 := rfl
@[simp] theorem memWrite_fills : (memWrite s k bs).fills = s.fills := rfl
@[simp] theorem memWrite_carried : (memWrite s k bs).carried = s.carried := rfl
@[simp] theorem memWrite_flight : (memWrite s k bs).flight = s.flight := rfl
@[simp] theorem memWrite_lens : (memWrite s k bs).lens = s.lens := rfl
@[simp] theorem memWrite_lensId : (memWrite s k bs).lensId = s.lensId := rfl
@[simp] theorem memWrite_ending : (memWrite s k bs).ending = s.ending := rfl
@[simp] theorem memWrite_ages : (memWrite s k bs).ages = s.ages := rfl
@[simp] theorem memWrite_resetting : (memWrite s k bs).resetting = s.resetting := rfl
@[simp] theorem memWrite_heldReach : (memWrite s k bs).heldReach = s.heldReach := rfl
@[simp] theorem memWrite_hostReqs : (memWrite s k bs).hostReqs = s.hostReqs := rfl
@[simp] theorem memWrite_numVfs : (memWrite s k bs).numVfs = s.numVfs := rfl
@[simp] theorem memWrite_noAtomics : (memWrite s k bs).noAtomics = s.noAtomics := rfl
@[simp] theorem memWrite_peerClosed : (memWrite s k bs).peerClosed = s.peerClosed := rfl
@[simp] theorem memWrite_bad : (memWrite s k bs).bad = s.bad := rfl
@[simp] theorem memWrite_badReads : (memWrite s k bs).badReads = s.badReads := rfl
end MemWrite

section CountEvent
variable (s : State) (core lid ev n : Nat)
@[simp] theorem countEvent_free : (countEvent s core lid ev n).free = s.free := by unfold countEvent; split <;> rfl
@[simp] theorem countEvent_nextId : (countEvent s core lid ev n).nextId = s.nextId := by unfold countEvent; split <;> rfl
@[simp] theorem countEvent_hole : (countEvent s core lid ev n).hole = s.hole := by unfold countEvent; split <;> rfl
@[simp] theorem countEvent_cur : (countEvent s core lid ev n).cur = s.cur := by unfold countEvent; split <;> rfl
@[simp] theorem countEvent_inputs : (countEvent s core lid ev n).inputs = s.inputs := by unfold countEvent; split <;> rfl
@[simp] theorem countEvent_outbox : (countEvent s core lid ev n).outbox = s.outbox := by unfold countEvent; split <;> rfl
@[simp] theorem countEvent_clock : (countEvent s core lid ev n).clock = s.clock := by unfold countEvent; split <;> rfl
@[simp] theorem countEvent_mem : (countEvent s core lid ev n).mem = s.mem := by unfold countEvent; split <;> rfl
@[simp] theorem countEvent_l1 : (countEvent s core lid ev n).l1 = s.l1 := by unfold countEvent; split <;> rfl
@[simp] theorem countEvent_l2 : (countEvent s core lid ev n).l2 = s.l2 := by unfold countEvent; split <;> rfl
@[simp] theorem countEvent_icache : (countEvent s core lid ev n).icache = s.icache := by unfold countEvent; split <;> rfl
@[simp] theorem countEvent_tlb : (countEvent s core lid ev n).tlb = s.tlb := by unfold countEvent; split <;> rfl
@[simp] theorem countEvent_walks : (countEvent s core lid ev n).walks = s.walks := by unfold countEvent; split <;> rfl
@[simp] theorem countEvent_pending : (countEvent s core lid ev n).pending = s.pending := by unfold countEvent; split <;> rfl
@[simp] theorem countEvent_faultSeq : (countEvent s core lid ev n).faultSeq = s.faultSeq := by unfold countEvent; split <;> rfl
@[simp] theorem countEvent_heldFaults : (countEvent s core lid ev n).heldFaults = s.heldFaults := by unfold countEvent; split <;> rfl
@[simp] theorem countEvent_responses : (countEvent s core lid ev n).responses = s.responses := by unfold countEvent; split <;> rfl
@[simp] theorem countEvent_shoots : (countEvent s core lid ev n).shoots = s.shoots := by unfold countEvent; split <;> rfl
@[simp] theorem countEvent_synonyms : (countEvent s core lid ev n).synonyms = s.synonyms := by unfold countEvent; split <;> rfl
@[simp] theorem countEvent_bar : (countEvent s core lid ev n).bar = s.bar := by unfold countEvent; split <;> rfl
@[simp] theorem countEvent_msixMask : (countEvent s core lid ev n).msixMask = s.msixMask := by unfold countEvent; split <;> rfl
@[simp] theorem countEvent_msixPend : (countEvent s core lid ev n).msixPend = s.msixPend := by unfold countEvent; split <;> rfl
@[simp] theorem countEvent_errqs : (countEvent s core lid ev n).errqs = s.errqs := by unfold countEvent; split <;> rfl
@[simp] theorem countEvent_launches : (countEvent s core lid ev n).launches = s.launches := by unfold countEvent; split <;> rfl
@[simp] theorem countEvent_blocks : (countEvent s core lid ev n).blocks = s.blocks := by unfold countEvent; split <;> rfl
@[simp] theorem countEvent_threads : (countEvent s core lid ev n).threads = s.threads := by unfold countEvent; split <;> rfl
@[simp] theorem countEvent_slots : (countEvent s core lid ev n).slots = s.slots := by unfold countEvent; split <;> rfl
@[simp] theorem countEvent_issuedNow : (countEvent s core lid ev n).issuedNow = s.issuedNow := by unfold countEvent; split <;> rfl
@[simp] theorem countEvent_swapsNow : (countEvent s core lid ev n).swapsNow = s.swapsNow := by unfold countEvent; split <;> rfl
@[simp] theorem countEvent_replays : (countEvent s core lid ev n).replays = s.replays := by unfold countEvent; split <;> rfl
@[simp] theorem countEvent_ops : (countEvent s core lid ev n).ops = s.ops := by unfold countEvent; split <;> rfl
@[simp] theorem countEvent_posts : (countEvent s core lid ev n).posts = s.posts := by unfold countEvent; split <;> rfl
@[simp] theorem countEvent_fields : (countEvent s core lid ev n).fields = s.fields := by unfold countEvent; split <;> rfl
@[simp] theorem countEvent_collSeq : (countEvent s core lid ev n).collSeq = s.collSeq := by unfold countEvent; split <;> rfl
@[simp] theorem countEvent_wctx : (countEvent s core lid ev n).wctx = s.wctx := by unfold countEvent; split <;> rfl
@[simp] theorem countEvent_scopes : (countEvent s core lid ev n).scopes = s.scopes := by unfold countEvent; split <;> rfl
@[simp] theorem countEvent_homes : (countEvent s core lid ev n).homes = s.homes := by unfold countEvent; split <;> rfl
@[simp] theorem countEvent_deficits : (countEvent s core lid ev n).deficits = s.deficits := by unfold countEvent; split <;> rfl
@[simp] theorem countEvent_visiting : (countEvent s core lid ev n).visiting = s.visiting := by unfold countEvent; split <;> rfl
@[simp] theorem countEvent_suspending : (countEvent s core lid ev n).suspending = s.suspending := by unfold countEvent; split <;> rfl
@[simp] theorem countEvent_reach : (countEvent s core lid ev n).reach = s.reach := by unfold countEvent; split <;> rfl
@[simp] theorem countEvent_service : (countEvent s core lid ev n).service = s.service := by unfold countEvent; split <;> rfl
@[simp] theorem countEvent_boot : (countEvent s core lid ev n).boot = s.boot := by unfold countEvent; split <;> rfl
@[simp] theorem countEvent_starts : (countEvent s core lid ev n).starts = s.starts := by unfold countEvent; split <;> rfl
@[simp] theorem countEvent_fwSlots : (countEvent s core lid ev n).fwSlots = s.fwSlots := by unfold countEvent; split <;> rfl
@[simp] theorem countEvent_fwRunning : (countEvent s core lid ev n).fwRunning = s.fwRunning := by unfold countEvent; split <;> rfl
@[simp] theorem countEvent_changes : (countEvent s core lid ev n).changes = s.changes := by unfold countEvent; split <;> rfl
@[simp] theorem countEvent_alarms : (countEvent s core lid ev n).alarms = s.alarms := by unfold countEvent; split <;> rfl
@[simp] theorem countEvent_ports : (countEvent s core lid ev n).ports = s.ports := by unfold countEvent; split <;> rfl
@[simp] theorem countEvent_links : (countEvent s core lid ev n).links = s.links := by unfold countEvent; split <;> rfl
@[simp] theorem countEvent_posted : (countEvent s core lid ev n).posted = s.posted := by unfold countEvent; split <;> rfl
@[simp] theorem countEvent_atomicOps : (countEvent s core lid ev n).atomicOps = s.atomicOps := by unfold countEvent; split <;> rfl
@[simp] theorem countEvent_peersDown : (countEvent s core lid ev n).peersDown = s.peersDown := by unfold countEvent; split <;> rfl
@[simp] theorem countEvent_hint1 : (countEvent s core lid ev n).hint1 = s.hint1 := by unfold countEvent; split <;> rfl
@[simp] theorem countEvent_hint2 : (countEvent s core lid ev n).hint2 = s.hint2 := by unfold countEvent; split <;> rfl
@[simp] theorem countEvent_fills : (countEvent s core lid ev n).fills = s.fills := by unfold countEvent; split <;> rfl
@[simp] theorem countEvent_carried : (countEvent s core lid ev n).carried = s.carried := by unfold countEvent; split <;> rfl
@[simp] theorem countEvent_flight : (countEvent s core lid ev n).flight = s.flight := by unfold countEvent; split <;> rfl
@[simp] theorem countEvent_lens : (countEvent s core lid ev n).lens = s.lens := by unfold countEvent; split <;> rfl
@[simp] theorem countEvent_lensId : (countEvent s core lid ev n).lensId = s.lensId := by unfold countEvent; split <;> rfl
@[simp] theorem countEvent_ending : (countEvent s core lid ev n).ending = s.ending := by unfold countEvent; split <;> rfl
@[simp] theorem countEvent_ages : (countEvent s core lid ev n).ages = s.ages := by unfold countEvent; split <;> rfl
@[simp] theorem countEvent_resetting : (countEvent s core lid ev n).resetting = s.resetting := by unfold countEvent; split <;> rfl
@[simp] theorem countEvent_heldReach : (countEvent s core lid ev n).heldReach = s.heldReach := by unfold countEvent; split <;> rfl
@[simp] theorem countEvent_hostReqs : (countEvent s core lid ev n).hostReqs = s.hostReqs := by unfold countEvent; split <;> rfl
@[simp] theorem countEvent_numVfs : (countEvent s core lid ev n).numVfs = s.numVfs := by unfold countEvent; split <;> rfl
@[simp] theorem countEvent_noAtomics : (countEvent s core lid ev n).noAtomics = s.noAtomics := by unfold countEvent; split <;> rfl
@[simp] theorem countEvent_peerClosed : (countEvent s core lid ev n).peerClosed = s.peerClosed := by unfold countEvent; split <;> rfl
@[simp] theorem countEvent_bad : (countEvent s core lid ev n).bad = s.bad := by unfold countEvent; split <;> rfl
@[simp] theorem countEvent_badReads : (countEvent s core lid ev n).badReads = s.badReads := by unfold countEvent; split <;> rfl
end CountEvent

end Sys2Proof.Machine
end

