-- ==== Sys2Proof/Laws/Thread.lean ====
section
/-! SUPPORT. Looking a thread up after an update, and after a list of updates. -/

namespace Sys2Proof.Machine

theorem thread?_uid {s : State} {u : Nat} {t : Thread} (h : s.thread? u = some t) : t.uid = u := by
  have := List.find?_some h
  simpa using this

theorem thread?_congr {s t : State} (h : t.threads = s.threads) (u : Nat) : t.thread? u = s.thread? u := by
  simp only [State.thread?, h]

theorem block?_congr {s t : State} (h : t.blocks = s.blocks) (u : Nat) : t.block? u = s.block? u := by
  simp only [State.block?, h]

theorem launch?_congr {s t : State} (h : t.launches = s.launches) (u : Nat) : t.launch? u = s.launch? u := by
  simp only [State.launch?, h]

/-- An update of a thread that keeps its name, seen from any thread. -/
theorem thread?_updThread (s : State) (u v : Nat) (f : Thread → Thread) (hf : ∀ t, (f t).uid = t.uid) :
    (updThread s u f).thread? v = (s.thread? v).map fun t => if t.uid == u then f t else t := by
  simp only [State.thread?, updThread]
  induction s.threads with
  | nil => rfl
  | cons t ts ih =>
    simp only [List.map_cons, List.find?_cons]
    have : (if t.uid == u then f t else t).uid = t.uid := by split <;> simp [hf]
    rw [this]
    cases t.uid == v with
    | true => rfl
    | false => exact ih

theorem thread?_updThread_same {s : State} {u : Nat} {t : Thread} (f : Thread → Thread) (hf : ∀ t, (f t).uid = t.uid)
    (h : s.thread? u = some t) : (updThread s u f).thread? u = some (f t) := by
  rw [thread?_updThread s u u f hf, h]
  simp [thread?_uid h]

theorem thread?_updThread_other {s : State} {u v : Nat} (f : Thread → Thread) (hf : ∀ t, (f t).uid = t.uid) (hv : v ≠ u) :
    (updThread s u f).thread? v = s.thread? v := by
  rw [thread?_updThread s u v f hf]
  cases h : s.thread? v with
  | none => rfl
  | some t => simp [thread?_uid h, hv]

/-- Steps that each touch their own thread alone, for different threads of `L`: threads outside the list are as they
were, and those inside are related by `P`. `I` is what the steps rely on and keep. -/
theorem foldl_lanes {g : State → Nat → State} {I : State → Prop} {P : Thread → Thread → Prop} {L : List Nat}
    (hI : ∀ s u, u ∈ L → I s → I (g s u))
    (hother : ∀ s u v, u ∈ L → I s → v ≠ u → (g s u).thread? v = s.thread? v)
    (hsame : ∀ s u t, u ∈ L → I s → s.thread? u = some t → ∃ y, (g s u).thread? u = some y ∧ P t y) :
    ∀ (us : List Nat) (s : State), (∀ u ∈ us, u ∈ L) → us.Nodup → I s →
      I (us.foldl g s) ∧ (∀ v, v ∉ us → (us.foldl g s).thread? v = s.thread? v) ∧
      (∀ u ∈ us, ∀ t, s.thread? u = some t → ∃ y, (us.foldl g s).thread? u = some y ∧ P t y) := by
  intro us
  induction us with
  | nil => intro s _ _ h; exact ⟨h, fun _ _ => rfl, fun u hu => by cases hu⟩
  | cons u us ih =>
    intro s hL hn h
    have hu := hL u (List.mem_cons_self ..)
    rw [List.nodup_cons] at hn
    obtain ⟨h1, h2, h3⟩ := ih (g s u) (fun v hv => hL v (List.mem_cons_of_mem _ hv)) hn.2 (hI s u hu h)
    refine ⟨h1, fun v hv => ?_, fun v hv t ht => ?_⟩
    · simp only [List.mem_cons, not_or] at hv
      rw [List.foldl_cons, h2 v hv.2, hother s u v hu h hv.1]
    · rw [List.foldl_cons]
      rcases List.mem_cons.mp hv with rfl | hv
      · obtain ⟨y, hy, hP⟩ := hsame s v t hu h ht
        exact ⟨y, by rw [h2 v hn.1]; exact hy, hP⟩
      · have hne : v ≠ u := fun e => hn.1 (e ▸ hv)
        exact h3 v hv t (by rw [hother s u v hu h hne]; exact ht)

/-- A list of updates of one shape, one for each thread of the list. -/
theorem foldl_updThread (f : Nat → Thread → Thread) (hf : ∀ u t, (f u t).uid = t.uid) (us : List Nat) (s : State) (hn : us.Nodup) (v : Nat) :
    (us.foldl (fun s u => updThread s u (f u)) s).thread? v = (s.thread? v).map fun t => if v ∈ us then f v t else t := by
  induction us generalizing s with
  | nil => simp
  | cons u us ih =>
    rw [List.nodup_cons] at hn
    rw [List.foldl_cons, ih _ hn.2, thread?_updThread s u v _ (hf u), Option.map_map]
    cases h : s.thread? v with
    | none => rfl
    | some t =>
      simp only [Option.map_some, Function.comp, thread?_uid h, beq_iff_eq, List.mem_cons]
      by_cases e : v = u
      · subst e; simp [hn.1]
      · simp [e]

end Sys2Proof.Machine
end

