-- ==== Sys2Proof/Laws/Issue.lean ====
section
/-! SUPPORT. What the shared issue of a word does when nothing stops the course: one lemma for each stage, and
`issue_passes`, which a proof about an instruction cites in place of the stages. -/

namespace Sys2Proof.Machine

open Sys2Proof.Safety

/-! ### `rest` -/

@[simp] theorem rest_updThread (s : State) (u : Nat) (f : Thread → Thread) : rest (updThread s u f) = rest s := rfl
@[simp] theorem rest_countEvent (s : State) (core lid ev n : Nat) : rest (countEvent s core lid ev n) = rest s := by
  unfold countEvent; split <;> rfl
theorem rest_foldl {α : Type} {g : State → α → State} (h : ∀ s a, rest (g s a) = rest s) (as : List α) (s : State) :
    rest (as.foldl g s) = rest s := by
  induction as generalizing s with
  | nil => rfl
  | cons a as ih => rw [List.foldl_cons, ih, h]

theorem rest_hole {s t : State} (h : rest t = rest s) : t.hole = s.hole := by have := congrArg State.hole h; exact this
theorem rest_clock {s t : State} (h : rest t = rest s) : t.clock = s.clock := by have := congrArg State.clock h; exact this
theorem rest_mem {s t : State} (h : rest t = rest s) : t.mem = s.mem := by have := congrArg State.mem h; exact this
theorem rest_l1 {s t : State} (h : rest t = rest s) : t.l1 = s.l1 := by have := congrArg State.l1 h; exact this
theorem rest_l2 {s t : State} (h : rest t = rest s) : t.l2 = s.l2 := by have := congrArg State.l2 h; exact this
theorem rest_icache {s t : State} (h : rest t = rest s) : t.icache = s.icache := by have := congrArg State.icache h; exact this
theorem rest_synonyms {s t : State} (h : rest t = rest s) : t.synonyms = s.synonyms := by have := congrArg State.synonyms h; exact this
theorem rest_launches {s t : State} (h : rest t = rest s) : t.launches = s.launches := by have := congrArg State.launches h; exact this
theorem rest_scopes {s t : State} (h : rest t = rest s) : t.scopes = s.scopes := by have := congrArg State.scopes h; exact this
theorem rest_free {s t : State} (h : rest t = rest s) : t.free = s.free := by have := congrArg State.free h; exact this
theorem rest_launch? {s t : State} (h : rest t = rest s) (l : Nat) : t.launch? l = s.launch? l :=
  launch?_congr (rest_launches h) l
theorem rest_entrantOf {s t : State} (h : rest t = rest s) (l : Nat) : entrantOf t l = entrantOf s l := by
  simp only [entrantOf, State.launch?, State.scope?, rest_launches h, rest_scopes h]

theorem rest_block {s t : State} (h : rest t = rest s) {bid : Nat} {b : Block} (hb : s.block? bid = some b) :
    ∃ c, t.block? bid = some c ∧ { c with splits := [] } = { b with splits := [] } := by
  have hm : t.blocks.map (fun b => { b with splits := [] }) = s.blocks.map fun b => { b with splits := [] } :=
    by have := congrArg State.blocks h; exact this
  simp only [State.block?] at hb ⊢
  generalize s.blocks = bs at hm hb
  generalize t.blocks = cs at hm ⊢
  induction bs generalizing cs with
  | nil => simp at hb
  | cons x bs ih =>
    cases cs with
    | nil => simp at hm
    | cons y cs =>
      simp only [List.map_cons, List.cons.injEq] at hm
      have hid : y.bid = x.bid := by have := congrArg Block.bid hm.1; exact this
      simp only [List.find?_cons, hid] at hb ⊢
      cases hx : x.bid == bid with
      | true => rw [hx] at hb; cases hb; exact ⟨y, rfl, hm.1⟩
      | false => rw [hx] at hb; exact ih hb cs hm.2

/-! ### The course -/

theorem landAll_eq (s : State) (us : List Nat) :
    landAll s us = us.foldl (fun x u => updThread x u fun t => landDue t s.clock) s := by
  unfold landAll
  suffices h : ∀ (x : State), x.clock = s.clock →
      us.foldl (fun s u => updThread s u fun t => landDue t s.clock) x = us.foldl (fun x u => updThread x u fun t => landDue t s.clock) x from
    h s rfl
  induction us with
  | nil => intro x _; rfl
  | cons u us ih => intro x hx; simp only [List.foldl_cons, hx]; exact ih _ hx

theorem landOne_uid (t : Thread) (p : Pend) : (landOne t p).uid = t.uid := by
  have h1 : ∀ (ws : List (Nat × Word)) (t : Thread), (ws.foldl (fun t w => setReg t w.1 w.2) t).uid = t.uid := by
    intro ws; induction ws with
    | nil => intro t; rfl
    | cons w ws ih => intro t; rw [List.foldl_cons, ih]; rfl
  have h2 : ∀ (ws : List (Nat × Bool)) (t : Thread), (ws.foldl (fun t w => setPred t w.1 w.2) t).uid = t.uid := by
    intro ws; induction ws with
    | nil => intro t; rfl
    | cons w ws ih => intro t; rw [List.foldl_cons, ih]; unfold setPred; split <;> rfl
  simp only [landOne, h2, h1]

theorem landDue_uid (t : Thread) (clk : Nat) : (landDue t clk).uid = t.uid := by
  have h : ∀ (ps : List Pend) (t : Thread), (ps.foldl landOne t).uid = t.uid := by
    intro ps; induction ps with
    | nil => intro t; rfl
    | cons p ps ih => intro t; rw [List.foldl_cons, ih, landOne_uid]
  simp only [landDue, h]

@[simp] theorem rest_landAll (s : State) (us : List Nat) : rest (landAll s us) = rest s := by
  rw [landAll_eq]; exact rest_foldl (g := fun x u => updThread x u fun t => landDue t s.clock) (fun _ _ => rfl) us s

theorem landAll_other (s : State) {us : List Nat} (hn : us.Nodup) {v : Nat} (hv : v ∉ us) :
    (landAll s us).thread? v = s.thread? v := by
  rw [landAll_eq, foldl_updThread (fun _ t => landDue t s.clock) (fun _ t => landDue_uid t s.clock) us s hn v]
  cases s.thread? v <;> simp [hv]

theorem filterMap_thread_uid (s : State) (us : List Nat) : ∀ t ∈ us.filterMap s.thread?, s.thread? t.uid = some t ∧ t.uid ∈ us := by
  intro t ht
  obtain ⟨u, hu, h⟩ := List.mem_filterMap.mp ht
  rw [thread?_uid h]; exact ⟨h, hu⟩

theorem filterMap_thread_nodup (s : State) {us : List Nat} (hn : us.Nodup) : ((us.filterMap s.thread?).map Thread.uid).Nodup := by
  induction us with
  | nil => simp
  | cons u us ih =>
    rw [List.nodup_cons] at hn
    rw [List.filterMap_cons]
    split
    · exact ih hn.2
    · rename_i t h
      rw [List.map_cons, List.nodup_cons]
      refine ⟨fun hm => hn.1 ?_, ih hn.2⟩
      obtain ⟨x, hx, e⟩ := List.mem_map.mp hm
      have := (filterMap_thread_uid s us x hx).2
      rw [e, thread?_uid h] at this; exact this

theorem byLane_perm (ts : List Thread) : (byLane ts).Perm ts := List.mergeSort_perm _ _

theorem course_thread {s : State} {us : List Nat} {t : Thread} (h : t ∈ course s us) :
    (landAll s us).thread? t.uid = some t ∧ t.uid ∈ us :=
  filterMap_thread_uid _ _ t ((byLane_perm _).mem_iff.mp h)

theorem course_nodup (s : State) {us : List Nat} (hn : us.Nodup) : ((course s us).map Thread.uid).Nodup :=
  (((byLane_perm _).map Thread.uid).nodup_iff).mpr (filterMap_thread_nodup _ hn)

theorem course_uids_sub {s : State} {us : List Nat} {v : Nat} (h : v ∈ (course s us).map Thread.uid) : v ∈ us := by
  obtain ⟨t, ht, rfl⟩ := List.mem_map.mp h
  exact (course_thread ht).2

/-- A thread of the course list that stands in no thread record does not exist; those outside have no thread. -/
theorem course_none {s : State} {us : List Nat} {v : Nat} (hv : v ∈ us) (h : v ∉ (course s us).map Thread.uid) :
    (landAll s us).thread? v = none := by
  cases e : (landAll s us).thread? v with
  | none => rfl
  | some t =>
    refine absurd (List.mem_map.mpr ⟨t, ?_, thread?_uid e⟩) h
    exact (byLane_perm _).mem_iff.mpr (List.mem_filterMap.mpr ⟨v, hv, e⟩)

/-! ### Code that is held in the instruction cache -/

theorem held_fetch {s : State} {core vf : Nat} {a w : DWord} (h : Held s core vf a w) : fetchDword s core vf a = (.ok w, s) := by
  simp only [fetchDword, fetchLine, h.canonical, h.outside, h.inCache, h.inL2, h.same, h.word, Bool.not_true, Bool.false_eq_true,
    if_true, if_false]

theorem held_congr {s t : State} {core vf : Nat} {a w : DWord} (h : Held s core vf a w) (hi : t.icache = s.icache)
    (hl : t.l2 = s.l2) (hs : t.synonyms = s.synonyms) : Held t core vf a w := by
  have hr : remap t vf a = remap s vf a := by simp only [remap, hs]
  constructor
  · exact h.canonical
  · exact h.outside
  · rw [hi, hr]; exact h.inCache
  · rw [hl, hr]; exact h.inL2
  · rw [hi, hl, hr]; exact h.same
  · rw [hi, hr]; exact h.word

theorem enterable_congr {s t : State} {b : Block} {l : Launch} {H w : DWord} (h : Enterable s b l H w)
    (hi : t.icache = s.icache) (hl : t.l2 = s.l2) (hs : t.synonyms = s.synonyms) (he : entrantOf t l.lid = entrantOf s l.lid) :
    Enterable t b l H w :=
  ⟨held_congr h.held hi hl hs, h.sound, h.plain, he.trans h.free⟩

theorem enterable_of_rest {s t : State} {b : Block} {l : Launch} {H w : DWord} (h : Enterable s b l H w) (hr : rest t = rest s) :
    Enterable t b l H w :=
  enterable_congr h (rest_icache hr) (rest_l2 hr) (rest_synonyms hr) (rest_entrantOf hr _)

theorem headerAt_enterable {s : State} {b : Block} {l : Launch} {H w : DWord} (h : Enterable s b l H w) :
    headerAt s b.core l.vf l.rcd.budget H = (.ok w, s) := by
  simp only [Machine.headerAt, held_fetch h.held, h.sound]

/-! ### Entering a header -/

@[simp] theorem rest_updBlock_splits (s : State) (bid : Nat) (g : List Split → List Split) :
    rest (updBlock s bid fun b => { b with splits := g b.splits }) = rest s := by
  simp only [rest, updBlock, List.map_map]
  congr 1
  apply List.map_congr_left
  intro b _
  simp only [Function.comp]
  split <;> rfl

@[simp] theorem rest_noteReconv (s : State) (bid : Nat) (us : List Nat) (H : DWord) : rest (noteReconv s bid us H) = rest s :=
  rest_updBlock_splits s bid _
theorem noteReconv_threads (s : State) (bid : Nat) (us : List Nat) (H : DWord) : (noteReconv s bid us H).threads = s.threads := rfl

theorem rest_writeSave (s : State) (u : Nat) (pc : DWord) (live : Nat) : rest (writeSave s u pc live) = rest s := by
  unfold writeSave; split <;> simp

theorem writeSave_cur (s : State) (u : Nat) (pc : DWord) (live : Nat) : (writeSave s u pc live).cur = s.cur := by
  unfold writeSave; split <;> simp

theorem writeSave_other (s : State) (u v : Nat) (pc : DWord) (live : Nat) (h : v ≠ u) :
    (writeSave s u pc live).thread? v = s.thread? v := by
  unfold writeSave
  split
  · rfl
  · rw [thread?_congr (countEvent_threads ..)]; exact thread?_updThread_other _ (fun _ => rfl) h

/-- A thread as a word may leave it, with its place apart: nothing of it has changed. -/
structure Kept (t y : Thread) : Prop where
  same : laneRest y = laneRest t
  pend : bare y.pend = bare t.pend
  fflags : y.fflags = t.fflags
  readyAt : y.readyAt = t.readyAt
  lastIssue : y.lastIssue = t.lastIssue
  raised : y.raised = t.raised

theorem Kept.trans {t x y : Thread} (h : Kept t x) (k : Kept x y) : Kept t y :=
  ⟨k.same.trans h.same, k.pend.trans h.pend, k.fflags.trans h.fflags, k.readyAt.trans h.readyAt, k.lastIssue.trans h.lastIssue,
    k.raised.trans h.raised⟩

theorem bare_ckpt (ps : List Pend) : bare (ps.map fun p => if p.known then p else { p with ckpt := true }) = bare ps := by
  simp only [bare, List.map_map]
  apply List.map_congr_left
  intro p _
  simp only [Function.comp]
  split <;> rfl

theorem writeSave_same {s : State} {u : Nat} {t : Thread} (pc : DWord) (live : Nat) (h : s.thread? u = some t) :
    ∃ y, (writeSave s u pc live).thread? u = some y ∧ Kept t y ∧ y.hdr = t.hdr ∧ y.hword = t.hword ∧ y.idx = t.idx ∧ y.lid = t.lid := by
  unfold writeSave
  rw [h]
  simp only
  rw [thread?_congr (countEvent_threads ..)]
  refine ⟨_, thread?_updThread_same _ (fun _ => rfl) h, ⟨rfl, ?_, rfl, rfl, rfl, rfl⟩, rfl, rfl, rfl, rfl⟩
  exact bare_ckpt t.pend

theorem byTid_perm (s : State) (us : List Nat) : (byTid s us).Perm ((us.filterMap s.thread?).map Thread.uid) :=
  (List.mergeSort_perm _ _).map Thread.uid

theorem mem_byTid {s : State} {us : List Nat} {u : Nat} : u ∈ byTid s us ↔ u ∈ us ∧ (s.thread? u).isSome := by
  rw [(byTid_perm s us).mem_iff, List.mem_map]
  constructor
  · rintro ⟨t, ht, rfl⟩
    obtain ⟨h1, h2⟩ := filterMap_thread_uid s us t ht
    exact ⟨h2, by rw [h1]; rfl⟩
  · rintro ⟨h1, h2⟩
    obtain ⟨t, ht⟩ := Option.isSome_iff_exists.mp h2
    exact ⟨t, List.mem_filterMap.mpr ⟨u, h1, ht⟩, thread?_uid ht⟩

theorem byTid_nodup (s : State) {us : List Nat} (hn : us.Nodup) : (byTid s us).Nodup :=
  (byTid_perm s us).nodup_iff.mpr (filterMap_thread_nodup s hn)

/-- A thread that has entered header `w` at `H`. -/
def Entered (H w : DWord) (t y : Thread) : Prop := Kept t y ∧ y.hdr = H ∧ y.hword = w ∧ y.idx = 0

/-- A thread as it stands at header `w` of address `H`. -/
def atHeader (H w : DWord) (t : Thread) : Thread := { t with hdr := H, hword := w, idx := 0, entering := false, gate := none }

/-- Outside a tournament a thread enters a header that is no merge header at once. -/
theorem enterOne_free {s : State} (bid core lid : Nat) {H w : DWord} (hm : (Header.of w).merge = false)
    (he : entrantOf s lid = none) (u : Nat) :
    enterOne s bid core lid u ⟨H, w, none⟩ =
      (if (Header.of w).region = true then
        writeSave (updThread (countEvent s core lid 3 1) u (atHeader H w)) u H (Header.of w).live
       else updThread (countEvent s core lid 3 1) u (atHeader H w)) := by
  simp only [enterOne, he, passGate, standOne, hm, Bool.false_eq_true, if_false]
  rfl

theorem enterOne_rest {s : State} (bid core lid : Nat) {H w : DWord} (hm : (Header.of w).merge = false)
    (he : entrantOf s lid = none) (u : Nat) :
    rest (enterOne s bid core lid u ⟨H, w, none⟩) = rest s ∧ (enterOne s bid core lid u ⟨H, w, none⟩).cur = s.cur := by
  rw [enterOne_free bid core lid hm he]
  split
  · rw [rest_writeSave, writeSave_cur]; simp
  · simp

theorem enterOne_other {s : State} (bid core lid : Nat) {H w : DWord} (hm : (Header.of w).merge = false)
    (he : entrantOf s lid = none) {u v : Nat} (hv : v ≠ u) :
    (enterOne s bid core lid u ⟨H, w, none⟩).thread? v = s.thread? v := by
  rw [enterOne_free bid core lid hm he]
  split
  · rw [writeSave_other _ _ _ _ _ hv, thread?_updThread_other (atHeader H w) (fun _ => rfl) hv, thread?_congr (countEvent_threads ..)]
  · rw [thread?_updThread_other (atHeader H w) (fun _ => rfl) hv, thread?_congr (countEvent_threads ..)]

theorem enterOne_same {s : State} (bid core lid : Nat) {H w : DWord} (hm : (Header.of w).merge = false)
    (he : entrantOf s lid = none) {u : Nat} {t : Thread} (ht : s.thread? u = some t) :
    ∃ y, (enterOne s bid core lid u ⟨H, w, none⟩).thread? u = some y ∧ Entered H w t y := by
  have hz : (updThread (countEvent s core lid 3 1) u (atHeader H w)).thread? u = some (atHeader H w t) :=
    thread?_updThread_same (atHeader H w) (fun _ => rfl) (by rw [thread?_congr (countEvent_threads ..)]; exact ht)
  rw [enterOne_free bid core lid hm he]
  split
  · obtain ⟨y, hy, k, e1, e2, e3, _⟩ := writeSave_same H (Header.of w).live hz
    exact ⟨y, hy, ⟨k.same, k.pend, k.fflags, k.readyAt, k.lastIssue, k.raised⟩, e1, e2, e3⟩
  · exact ⟨_, hz, ⟨rfl, rfl, rfl, rfl, rfl, rfl⟩, rfl, rfl, rfl⟩

theorem standAt_free {s : State} (bid core lid : Nat) {us : List Nat} {H w : DWord} (hn : us.Nodup)
    (hm : (Header.of w).merge = false) (he : entrantOf s lid = none) :
    rest (standAt s bid core lid us H w) = rest s ∧ (standAt s bid core lid us H w).cur = s.cur ∧
    (∀ v, v ∉ us → (standAt s bid core lid us H w).thread? v = s.thread? v) ∧
    (∀ u ∈ us, ∀ t, s.thread? u = some t → ∃ y, (standAt s bid core lid us H w).thread? u = some y ∧ Entered H w t y) := by
  unfold standAt
  have free : ∀ {x : State}, rest x = rest s → entrantOf x lid = none := fun hx => by rw [rest_entrantOf hx]; exact he
  obtain ⟨h1, h2, h3⟩ := foldl_lanes
    (g := fun s u => enterOne s bid core lid u ⟨H, w, none⟩)
    (I := fun x => rest x = rest s ∧ x.cur = s.cur) (P := Entered H w) (L := us)
    (fun x u _ hI => ⟨(enterOne_rest bid core lid hm (free hI.1) u).1.trans hI.1, (enterOne_rest bid core lid hm (free hI.1) u).2.trans hI.2⟩)
    (fun x u v _ hI hv => enterOne_other bid core lid hm (free hI.1) hv)
    (fun x u t _ hI ht => enterOne_same bid core lid hm (free hI.1) ht)
    (byTid s us) (noteReconv s bid us H) (fun u hu => (mem_byTid.mp hu).1) (byTid_nodup _ hn) ⟨rest_noteReconv .., rfl⟩
  refine ⟨h1.1, h1.2, fun v hv => h2 v fun hb => hv (mem_byTid.mp hb).1, fun u hu t ht => h3 u (mem_byTid.mpr ⟨hu, ?_⟩) t ht⟩
  show (s.thread? u).isSome
  rw [ht]; rfl

@[simp] theorem rest_linkAll (s : State) (us : List Nat) (links : List (Nat × DWord)) : rest (linkAll s us links) = rest s :=
  rest_foldl (fun s x => by split <;> rfl) links s

/-- A thread that links to `k` when it is one of `as`. -/
def linkedTo (as : List Nat) (k : DWord) (t : Thread) : Thread := if t.uid ∈ as then { t with link := k } else t

/-- The lanes of `as` that go link to `k`. -/
theorem linkAll_thread? (s : State) (us : List Nat) {as : List Nat} (k : DWord) (hn : as.Nodup) (v : Nat) :
    (linkAll s us (as.map fun u => (u, k))).thread? v = (s.thread? v).map fun t => if v ∈ us then linkedTo as k t else t := by
  have : linkAll s us (as.map fun u => (u, k)) = (as.filter fun u => us.contains u).foldl (fun s u => updThread s u fun t => { t with link := k }) s := by
    unfold linkAll
    rw [List.foldl_map]
    clear hn
    induction as generalizing s with
    | nil => rfl
    | cons a as ih =>
      simp only [List.foldl_cons, List.filter_cons]
      split
      · rw [ih]; rfl
      · exact ih _
  rw [this, foldl_updThread (fun _ t => { t with link := k }) (fun _ _ => rfl) _ s (hn.filter _) v]
  cases h : s.thread? v with
  | none => rfl
  | some t =>
    simp only [Option.map_some, linkedTo, thread?_uid h, List.mem_filter, List.contains_iff_mem]
    by_cases h1 : v ∈ us <;> by_cases h2 : v ∈ as <;> simp [h1, h2]

theorem linkAll_cur (s : State) (us : List Nat) (links : List (Nat × DWord)) : (linkAll s us links).cur = s.cur := by
  unfold linkAll
  induction links generalizing s with
  | nil => rfl
  | cons x xs ih => rw [List.foldl_cons, ih]; split <;> rfl

theorem groupBy_const (T : DWord) (dst : Nat → DWord) (u : Nat) (us : List Nat) (h : ∀ v ∈ u :: us, dst v = T) :
    groupBy dst (u :: us) = [(T, u :: us)] := by
  induction us generalizing u with
  | nil => simp [groupBy, h u (List.mem_cons_self ..)]
  | cons v us ih =>
    rw [groupBy, ih v fun x hx => h x (List.mem_cons_of_mem _ hx)]
    simp [h u (List.mem_cons_self ..)]

theorem targetAt_enterable {s : State} {b : Block} {l : Launch} {T Hn w : DWord} {next : Option DWord} (he : Enterable s b l T w)
    (hn : T = Hn → ∀ x, next = some x → x = w) : targetAt s b l T Hn next = (.ok w, s) := by
  unfold targetAt
  split
  · split
    · rw [hn ‹_› _ rfl]
    · exact headerAt_enterable he
  · exact headerAt_enterable he

/-- A course that leaves a block together enters the header it goes to. -/
theorem transfer_together {s : State} (b : Block) (l : Launch) (H hword pc : DWord) {us : List Nat} {dst : Nat → DWord}
    {Hn T w : DWord} {next : Option DWord} (links : List (Nat × DWord)) (h : ∀ v ∈ us, dst v = T) (hu : us ≠ [])
    (ht : targetAt s b l T Hn next = (.ok w, s)) :
    transfer s b l H hword pc us dst Hn next links = standAt (linkAll s us links) b.bid b.core l.lid us T w := by
  cases us with
  | nil => exact absurd rfl hu
  | cons u us => simp only [transfer, groupBy_const T dst u us h, ht]

/-! ### The advance of the course -/

/-- A thread that its word leaves: when it may issue again (R62), and its signals. -/
def issuedAt (p : Pre) (clk : Nat) (t : Thread) : Thread :=
  { t with readyAt := clk + max p.stall.toNat 1, lastIssue := clk, raised := false }

/-- The counters that the issue raises (R190). -/
def counted (c : Ctx) (s : State) : State := countIssue c { s with cur := .none }

/-- The state once counters, stall clocks and stamps are written, before the course moves. -/
def stamped (p : Pre) (c : Ctx) (s : State) : State :=
  let s := c.uids.foldl (fun s u => updThread s u fun t =>
    { t with readyAt := s.clock + max p.stall.toNat 1, lastIssue := s.clock, raised := false }) (counted c s)
  { s with slots := s.slots.map fun x => if x.uids.any c.uids.contains then { x with stamp := s.clock, issued := true } else x }

@[simp] theorem rest_cur (s : State) (x : Cur) : rest { s with cur := x } = rest s := rfl
@[simp] theorem rest_slots (s : State) (x : List Slot) : rest { s with slots := x } = rest s := rfl

theorem rest_counted (c : Ctx) (s : State) : rest (counted c s) = rest s := by unfold counted countIssue; split <;> simp
theorem counted_threads (c : Ctx) (s : State) : (counted c s).threads = s.threads := by unfold counted countIssue; split <;> simp
theorem counted_cur (c : Ctx) (s : State) : (counted c s).cur = .none := by unfold counted countIssue; split <;> simp

theorem stamped_fold (p : Pre) (us : List Nat) (s : State) :
    us.foldl (fun s u => updThread s u fun t =>
      { t with readyAt := s.clock + max p.stall.toNat 1, lastIssue := s.clock, raised := false }) s =
    us.foldl (fun x u => updThread x u (issuedAt p s.clock)) s := by
  suffices h : ∀ x : State, x.clock = s.clock →
      us.foldl (fun s u => updThread s u fun t =>
        { t with readyAt := s.clock + max p.stall.toNat 1, lastIssue := s.clock, raised := false }) x =
      us.foldl (fun x u => updThread x u (issuedAt p s.clock)) x from h s rfl
  induction us with
  | nil => intro x _; rfl
  | cons u us ih =>
    intro x hx
    simp only [List.foldl_cons]
    rw [← ih _ (show (updThread x u (issuedAt p s.clock)).clock = s.clock from hx), hx]
    rfl

theorem stamped_eq (p : Pre) (c : Ctx) (s : State) :
    ∃ sl, stamped p c s = { c.uids.foldl (fun x u => updThread x u (issuedAt p s.clock)) (counted c s) with slots := sl } := by
  unfold stamped
  rw [stamped_fold, rest_clock (rest_counted c s)]
  exact ⟨_, rfl⟩

theorem rest_stamped (p : Pre) (c : Ctx) (s : State) : rest (stamped p c s) = rest s := by
  obtain ⟨sl, h⟩ := stamped_eq p c s
  rw [h, rest_slots]
  refine (rest_foldl ?_ _ _).trans (rest_counted c s)
  intro _ _; rfl

theorem foldl_updThread_cur (f : Nat → Thread → Thread) (us : List Nat) (s : State) :
    (us.foldl (fun s u => updThread s u (f u)) s).cur = s.cur := by
  induction us generalizing s with
  | nil => rfl
  | cons u us ih => rw [List.foldl_cons, ih]; rfl

theorem stamped_cur (p : Pre) (c : Ctx) (s : State) : (stamped p c s).cur = .none := by
  obtain ⟨sl, h⟩ := stamped_eq p c s
  rw [h]
  exact (foldl_updThread_cur (fun _ => issuedAt p s.clock) c.uids _).trans (counted_cur c s)

theorem stamped_thread? (p : Pre) (c : Ctx) (s : State) (hn : c.uids.Nodup) (v : Nat) :
    (stamped p c s).thread? v = (s.thread? v).map fun t => if v ∈ c.uids then issuedAt p s.clock t else t := by
  obtain ⟨sl, h⟩ := stamped_eq p c s
  rw [h]
  refine (foldl_updThread (fun _ => issuedAt p s.clock) (fun _ _ => rfl) c.uids _ hn v).trans ?_
  rw [thread?_congr (counted_threads c s)]

theorem transfer_none (s : State) (b : Block) (l : Launch) (H hword pc : DWord) (dst : Nat → DWord) (Hn : DWord) (next : Option DWord)
    (links : List (Nat × DWord)) : transfer s b l H hword pc [] dst Hn next links = s := rfl

/-- The move of a stamped course, in which no round closes. -/
def moveOn (c : Ctx) (fx : Fx) (s : State) : State :=
  let live := c.uids.filter (isLive s)
  if !c.isLast then live.foldl (fun s u => updThread s u fun t => { t with idx := t.idx + 1 }) s
  else
    let dst (u : Nat) : DWord := ((fx.targets.find? fun x => x.1 == u).map (·.2)).getD c.Hn
    let hw := ((live.filterMap s.thread?).head?.map Thread.hword).getD 0
    transfer ((live.filter (waitsNow s)).foldl (stayAtEnd c) s) c.b c.l c.H hw c.pc (live.filter fun u => !waitsNow s u) dst c.Hn
      c.next fx.links

theorem advance_moveOn (p : Pre) (c : Ctx) (fx : Fx) (ht : fx.traps = []) (hf : fx.faults = [])
    (hr : roundShut (moveOn c fx (stamped p c fx.s)) c.l.lid = false ∨
      (c.uids.filter (isLive (stamped p c fx.s))).filter (waitsNow (moveOn c fx (stamped p c fx.s))) = []) :
    advance p c fx = moveOn c fx (stamped p c fx.s) := by
  have : advance p c fx = if roundShut (moveOn c fx (stamped p c fx.s)) c.l.lid = true then
      parkWaiting (moveOn c fx (stamped p c fx.s)) ((c.uids.filter (isLive (stamped p c fx.s))).filter
        (waitsNow (moveOn c fx (stamped p c fx.s)))) else moveOn c fx (stamped p c fx.s) := by
    unfold advance
    rw [ht, hf]
    rfl
  rw [this]
  split
  · rename_i hshut
    rcases hr with hr | hr
    · rw [hr] at hshut; cases hshut
    · rw [hr]; rfl
  · rfl

theorem roundShut_free {s : State} {lid : Nat} (h : entrantOf s lid = none) : roundShut s lid = false := by
  simp only [roundShut, h]; rfl

/-- A thread that waits at the end of its block stays there. -/
theorem stayAtEnd_rest (c : Ctx) (s : State) (u : Nat) : rest (stayAtEnd c s u) = rest s ∧ (stayAtEnd c s u).cur = s.cur := by
  unfold stayAtEnd
  split
  · exact ⟨by simp [rest_writeSave], by simp [writeSave_cur]⟩
  · exact ⟨by simp, by simp⟩
theorem stayAtEnd_other (c : Ctx) (s : State) {u v : Nat} (hv : v ≠ u) : (stayAtEnd c s u).thread? v = s.thread? v := by
  unfold stayAtEnd
  rw [thread?_updThread_other (fun t => { t with idx := t.idx + 1 }) (fun _ => rfl) hv]
  split
  · exact writeSave_other _ _ _ _ _ hv
  · rfl
theorem stayAtEnd_same (c : Ctx) {s : State} {u : Nat} {t : Thread} (h : s.thread? u = some t) :
    ∃ y, (stayAtEnd c s u).thread? u = some y ∧ Kept t y ∧ y.hdr = t.hdr ∧ y.hword = t.hword ∧ y.idx = t.idx + 1 := by
  unfold stayAtEnd
  split
  · obtain ⟨y, hy, k, e1, e2, e3, _⟩ := writeSave_same c.Hn (Header.of (c.next.getD 0)).live h
    exact ⟨_, thread?_updThread_same (fun t => { t with idx := t.idx + 1 }) (fun _ => rfl) hy,
      ⟨k.same, k.pend, k.fflags, k.readyAt, k.lastIssue, k.raised⟩, e1, e2, congrArg (· + 1) e3⟩
  · exact ⟨_, thread?_updThread_same (fun t => { t with idx := t.idx + 1 }) (fun _ => rfl) h, ⟨rfl, rfl, rfl, rfl, rfl, rfl⟩, rfl, rfl, rfl⟩

/-- What the advance finds of the course `ts` once the effect stands: the threads where they were. -/
structure Standing (c : Ctx) (ts : List Thread) (t0 : Thread) (s : State) : Prop where
  uids : c.uids = ts.map Thread.uid
  nodup : c.uids.Nodup
  first : ts.head? = some t0
  next : c.Hn = following t0
  isLast : c.isLast = (t0.idx + 1 == (Header.of t0.hword).length)
  free : endsBlock t0 → entrantOf s c.l.lid = none
  awake : roundShut s c.l.lid = false ∨ ∀ t ∈ ts, ∀ x, s.thread? t.uid = some x → x.wait = .none
  threads : ∀ t ∈ ts, ∃ x, s.thread? t.uid = some x ∧ x.life = .inSlot ∧ x.hdr = t0.hdr ∧ x.hword = t0.hword ∧ x.idx = t0.idx

theorem standing_stamped {c : Ctx} {ts : List Thread} {t0 : Thread} {s : State} (h : Standing c ts t0 s) (p : Pre) {t : Thread}
    (ht : t ∈ ts) {x : Thread} (hx : s.thread? t.uid = some x) : (stamped p c s).thread? t.uid = some (issuedAt p s.clock x) := by
  have hu : t.uid ∈ c.uids := by rw [h.uids]; exact List.mem_map.mpr ⟨t, ht, rfl⟩
  rw [stamped_thread? p c s h.nodup, hx]; simp [hu]

theorem standing_live {c : Ctx} {ts : List Thread} {t0 : Thread} {s : State} (h : Standing c ts t0 s) (p : Pre) :
    c.uids.filter (isLive (stamped p c s)) = c.uids := by
  rw [List.filter_eq_self]
  intro u hu
  rw [h.uids] at hu
  obtain ⟨t, ht, rfl⟩ := List.mem_map.mp hu
  obtain ⟨x, h1, h2, _⟩ := h.threads t ht
  simp only [isLive, standing_stamped h p ht h1, Option.map_some, Option.getD_some]
  simpa [issuedAt] using h2

/-- A course within its block goes to its next word. -/
theorem advance_within {p : Pre} {c : Ctx} {fx : Fx} {ts : List Thread} {t0 : Thread}
    (ht : fx.traps = []) (hf : fx.faults = []) (h : Standing c ts t0 fx.s) (w : DWord) (hlast : ¬ endsBlock t0) :
    rest (advance p c fx) = rest fx.s ∧ (advance p c fx).cur = .none ∧
    (∀ v, v ∉ c.uids → (advance p c fx).thread? v = fx.s.thread? v) ∧
    (∀ t ∈ ts, ∀ x, fx.s.thread? t.uid = some x → ∃ y, (advance p c fx).thread? t.uid = some y ∧
      laneRest y = laneRest x ∧ bare y.pend = bare x.pend ∧ y.fflags = x.fflags ∧ Passed fx.s p t0 w y) := by
  have hl : (t0.idx + 1 == (Header.of t0.hword).length) = false := by simpa [endsBlock] using hlast
  have hm : moveOn c fx (stamped p c fx.s) =
      c.uids.foldl (fun s u => updThread s u fun t => { t with idx := t.idx + 1 }) (stamped p c fx.s) := by
    unfold moveOn
    simp only [standing_live h p, h.isLast, hl, Bool.not_false, if_true]
  have hr : rest (moveOn c fx (stamped p c fx.s)) = rest fx.s := by
    rw [hm]
    refine (rest_foldl ?_ _ _).trans (rest_stamped ..)
    intro _ _; rfl
  have hth := foldl_updThread (fun _ t => { t with idx := t.idx + 1 }) (fun _ _ => rfl) c.uids (stamped p c fx.s) h.nodup
  have hshut : roundShut (moveOn c fx (stamped p c fx.s)) c.l.lid = roundShut fx.s c.l.lid := by
    simp only [roundShut, rest_entrantOf hr]
  rw [advance_moveOn p c fx ht hf (by
    rcases h.awake with ha | ha
    · exact .inl (hshut.trans ha)
    · refine .inr ?_
      rw [standing_live h p, List.filter_eq_nil_iff, hm]
      intro u hu
      have hu' := hu
      rw [h.uids] at hu'
      obtain ⟨t, htm, rfl⟩ := List.mem_map.mp hu'
      obtain ⟨x, hx, _⟩ := h.threads t htm
      have hw := ha t htm x hx
      simp only [waitsNow, hth, standing_stamped h p htm hx, Option.map_some, hu, if_true, Option.getD_some, issuedAt, hw]
      decide)]
  refine ⟨hr, ?_, ?_⟩
  · rw [hm]
    exact (foldl_updThread_cur (fun _ t => { t with idx := t.idx + 1 }) _ _).trans (stamped_cur ..)
  rw [hm]
  refine ⟨fun v hv => ?_, fun t htm x hx => ?_⟩
  · rw [hth v, stamped_thread? p c _ h.nodup, Option.map_map]
    cases fx.s.thread? v <;> simp [hv]
  · have hu : t.uid ∈ c.uids := by rw [h.uids]; exact List.mem_map.mpr ⟨t, htm, rfl⟩
    rw [hth t.uid, standing_stamped h p htm hx]
    simp only [Option.map_some, hu, if_true]
    obtain ⟨x', hx', _, h1, h2, h3⟩ := h.threads t htm
    rw [hx] at hx'; cases hx'
    refine ⟨_, rfl, rfl, rfl, rfl, rfl, rfl, rfl, ?_⟩
    have hs : spotAfter t0 w = (t0.hdr, t0.hword, t0.idx + 1) := if_neg hlast
    rw [hs, ite_self, ← h1, ← h2, ← h3]
    rfl

/-- A course at the end of its block: the lanes that wait stay, the others enter the header at `T` together. -/
theorem advance_enters {p : Pre} {c : Ctx} {fx : Fx} {ts : List Thread} {t0 : Thread} {T w : DWord} {as : List Nat} {k : DWord}
    (ht : fx.traps = []) (hf : fx.faults = []) (h : Standing c ts t0 fx.s) (hlast : endsBlock t0)
    (hm : (Header.of w).merge = false)
    (hT : (T = c.Hn ∧ c.next = some w) ∨ (Enterable fx.s c.b c.l T w ∧ c.next = none))
    (hdst : ∀ v ∈ c.uids, ((fx.targets.find? fun x => x.1 == v).map (·.2)).getD c.Hn = T)
    (ha : as.Nodup) (hlk : fx.links = as.map fun u => (u, k)) :
    rest (advance p c fx) = rest fx.s ∧ (advance p c fx).cur = .none ∧
    (∀ v, v ∉ c.uids → (advance p c fx).thread? v = fx.s.thread? v) ∧
    (∀ t ∈ ts, ∀ x, fx.s.thread? t.uid = some x → ∃ y, (advance p c fx).thread? t.uid = some y ∧
      (x.wait = .none → Entered T w (linkedTo as k (issuedAt p fx.s.clock x)) y) ∧
      (x.wait ≠ .none → Kept (issuedAt p fx.s.clock x) y ∧ y.hdr = x.hdr ∧ y.hword = x.hword ∧ y.idx = x.idx + 1)) := by
  have hl : (t0.idx + 1 == (Header.of t0.hword).length) = true := by simpa [endsBlock] using hlast
  -- the state in which the lanes that wait have been passed
  obtain ⟨⟨s1r, s1c⟩, s1o, s1t⟩ := foldl_lanes (g := stayAtEnd c) (L := c.uids)
    (I := fun x => rest x = rest fx.s ∧ x.cur = .none)
    (P := fun t y => Kept t y ∧ y.hdr = t.hdr ∧ y.hword = t.hword ∧ y.idx = t.idx + 1)
    (fun x u _ hI => ⟨(stayAtEnd_rest c x u).1.trans hI.1, (stayAtEnd_rest c x u).2.trans hI.2⟩)
    (fun x u v _ _ hv => stayAtEnd_other c x hv) (fun x u t _ _ hx => stayAtEnd_same c hx)
    (c.uids.filter (waitsNow (stamped p c fx.s))) (stamped p c fx.s) (fun u hu => (List.mem_filter.mp hu).1) (h.nodup.filter _)
    ⟨rest_stamped p c fx.s, stamped_cur p c fx.s⟩
  generalize hS : (c.uids.filter (waitsNow (stamped p c fx.s))).foldl (stayAtEnd c) (stamped p c fx.s) = S at s1r s1c s1o s1t
  -- the move
  let goes := c.uids.filter fun u => !waitsNow (stamped p c fx.s) u
  have hgn : goes.Nodup := h.nodup.filter _
  have hfree : entrantOf (linkAll S goes fx.links) c.l.lid = none := by
    rw [rest_entrantOf ((rest_linkAll ..).trans s1r)]; exact h.free hlast
  have hta : targetAt S c.b c.l T c.Hn c.next = (.ok w, S) := by
    rcases hT with ⟨rfl, e⟩ | ⟨he, e⟩
    · simp only [targetAt, e, if_true]
    · exact targetAt_enterable (enterable_of_rest he s1r) (fun _ x hx => by rw [e] at hx; cases hx)
  have hmove : rest (moveOn c fx (stamped p c fx.s)) = rest fx.s ∧ (moveOn c fx (stamped p c fx.s)).cur = .none ∧
      (∀ v, v ∉ goes → (moveOn c fx (stamped p c fx.s)).thread? v = S.thread? v) ∧
      (∀ u ∈ goes, ∀ t, S.thread? u = some t → ∃ y, (moveOn c fx (stamped p c fx.s)).thread? u = some y ∧ Entered T w (linkedTo as k t) y) := by
    unfold moveOn
    simp only [standing_live h p, h.isLast, hl, Bool.not_true, Bool.false_eq_true, if_false]
    rw [hS]
    by_cases hg : goes = []
    · have he : (c.uids.filter fun u => !waitsNow (stamped p c fx.s) u) = [] := hg
      simp only [he, transfer_none]
      exact ⟨s1r, s1c, fun _ _ => trivial, fun u hu => by rw [hg] at hu; cases hu⟩
    · have := transfer_together c.b c.l c.H (((c.uids.filterMap (stamped p c fx.s).thread?).head?.map Thread.hword).getD 0) c.pc
        (us := goes) fx.links (fun v hv => hdst v (List.mem_filter.mp hv).1) hg hta
      show rest (transfer S c.b c.l c.H _ c.pc goes _ c.Hn c.next fx.links) = _ ∧ _
      rw [this]
      obtain ⟨h1, h2, h3, h4⟩ := standAt_free (s := linkAll S goes fx.links) c.b.bid c.b.core c.l.lid (us := goes) (H := T) (w := w)
        hgn hm hfree
      refine ⟨h1.trans ((rest_linkAll ..).trans s1r), h2.trans ((linkAll_cur ..).trans s1c), fun v hv => ?_, fun u hu t hst => ?_⟩
      · rw [h3 v hv, hlk, linkAll_thread? S goes k ha]
        cases S.thread? v <;> simp [hv]
      · exact h4 u hu _ (by rw [hlk, linkAll_thread? S goes k ha, hst]; simp [hu])
  obtain ⟨m1, m2, m3, m4⟩ := hmove
  rw [advance_moveOn p c fx ht hf (.inl (roundShut_free (by rw [rest_entrantOf m1]; exact h.free hlast)))]
  refine ⟨m1, m2, fun v hv => ?_, fun t htm x hx => ?_⟩
  · rw [m3 v fun hm => hv (List.mem_filter.mp hm).1, s1o v fun hm => hv (List.mem_filter.mp hm).1, stamped_thread? p c _ h.nodup]
    cases fx.s.thread? v <;> simp [hv]
  · have hu : t.uid ∈ c.uids := by rw [h.uids]; exact List.mem_map.mpr ⟨t, htm, rfl⟩
    have hst := standing_stamped h p htm hx
    have hw : waitsNow (stamped p c fx.s) t.uid = (x.wait != .none) := by
      simp only [waitsNow, hst, Option.map_some, Option.getD_some]; rfl
    by_cases hwait : x.wait = .none
    · have hwf : waitsNow (stamped p c fx.s) t.uid = false := by rw [hw, hwait]; rfl
      have hgo : t.uid ∈ goes := List.mem_filter.mpr ⟨hu, by simp [hwf]⟩
      have hns : t.uid ∉ c.uids.filter (waitsNow (stamped p c fx.s)) := fun hm => by
        have := (List.mem_filter.mp hm).2; rw [hwf] at this; cases this
      obtain ⟨y, hy, he⟩ := m4 t.uid hgo _ ((s1o t.uid hns).trans hst)
      exact ⟨y, hy, fun _ => he, fun e => absurd hwait e⟩
    · have hwt : waitsNow (stamped p c fx.s) t.uid = true := by rw [hw]; simpa using hwait
      have hng : t.uid ∉ goes := fun hm => by
        have := (List.mem_filter.mp hm).2; rw [hwt] at this; cases this
      obtain ⟨y, hy, he⟩ := s1t t.uid (List.mem_filter.mpr ⟨hu, hwt⟩) _ hst
      exact ⟨y, (m3 t.uid hng).trans hy, fun e => absurd e hwait, fun _ => he⟩

/-- Either way: a word that neither traps nor branches leaves its course at the next word or at the header that follows. -/
theorem advance_passes {p : Pre} {c : Ctx} {fx : Fx} {ts : List Thread} {t0 : Thread} {w : DWord}
    (ht : fx.traps = []) (hf : fx.faults = []) (htg : fx.targets = []) (hlk : fx.links = []) (h : Standing c ts t0 fx.s)
    (hm : endsBlock t0 → (Header.of w).merge = false) (he : endsBlock t0 → c.next = some w) :
    rest (advance p c fx) = rest fx.s ∧ (advance p c fx).cur = .none ∧
    (∀ v, v ∉ c.uids → (advance p c fx).thread? v = fx.s.thread? v) ∧
    (∀ t ∈ ts, ∀ x, fx.s.thread? t.uid = some x → ∃ y, (advance p c fx).thread? t.uid = some y ∧
      laneRest y = laneRest x ∧ bare y.pend = bare x.pend ∧ y.fflags = x.fflags ∧ Passed fx.s p t0 w y) := by
  by_cases hlast : endsBlock t0
  · obtain ⟨h1, h2, h3, h4⟩ := advance_enters (p := p) (as := []) (k := 0) ht hf h hlast (hm hlast) (.inl ⟨rfl, he hlast⟩)
      (fun v _ => by rw [htg]; rfl) List.nodup_nil (by rw [hlk]; rfl)
    refine ⟨h1, h2, h3, fun t htm x hx => ?_⟩
    obtain ⟨y, hy, e1, e2⟩ := h4 t htm x hx
    obtain ⟨x', hx', _, k1, k2, k3⟩ := h.threads t htm
    rw [hx] at hx'; cases hx'
    have wait {z : Thread} (k : Kept z y) : y.wait = z.wait := by have := congrArg Thread.wait k.same; exact this
    by_cases hw : x.wait = .none
    · obtain ⟨k, e7, e8, e9⟩ := e1 hw
      have hl : linkedTo [] 0 (issuedAt p fx.s.clock x) = issuedAt p fx.s.clock x := by simp [linkedTo]
      rw [hl] at k
      have hs : spotAfter t0 w = (following t0, w, 0) := if_pos hlast
      refine ⟨y, hy, k.same, k.pend, k.fflags, k.readyAt, k.lastIssue, k.raised, ?_⟩
      rw [if_pos ((wait k).trans hw), hs, e7, e8, e9, h.next]
    · obtain ⟨k, e7, e8, e9⟩ := e2 hw
      refine ⟨y, hy, k.same, k.pend, k.fflags, k.readyAt, k.lastIssue, k.raised, ?_⟩
      rw [if_neg (by rw [wait k]; exact hw), e7, e8, e9, k1, k2, k3]
  · exact advance_within ht hf h w hlast

/-! ### The issue -/

/-- What the body of a word finds: its context, and the state with the course's threads landed. -/
structure Begun (f : Fields) (p : Pre) (s : State) (us : List Nat) (t0 : Thread) (b : Block) (l : Launch) (nx : Option DWord)
    (c : Ctx) (s1 : State) : Prop where
  f : c.f = f
  uids : c.uids = (course s us).map Thread.uid
  act : c.act = (active s us p).map Thread.uid
  core : c.core = b.core
  vf : c.vf = l.vf
  block : c.b = b
  launch : c.l = l
  H : c.H = t0.hdr
  pc : c.pc = t0.hdr + 8 + BitVec.ofNat 64 (16 * t0.idx)
  Hn : c.Hn = following t0
  next : c.next = nx
  isLast : c.isLast = (t0.idx + 1 == (Header.of t0.hword).length)
  same : rest s1 = rest s
  blocks : s1.blocks = s.blocks
  nextId : s1.nextId = s.nextId
  pmcs : s1.pmcs = s.pmcs
  others : ∀ v, v ∉ us → s1.thread? v = s.thread? v
  threads : ∀ t ∈ course s us, ∃ h, s1.thread? t.uid = some { t with hash := h }

theorem foldl_updThread_keeps {α : Type} (F : State → α) (hF : ∀ s u f, F (updThread s u f) = F s) (f : Nat → Thread → Thread)
    (us : List Nat) (s : State) : F (us.foldl (fun s u => updThread s u (f u)) s) = F s := by
  induction us generalizing s with
  | nil => rfl
  | cons u us ih => rw [List.foldl_cons, ih, hF]

theorem landAll_keeps {α : Type} (F : State → α) (hF : ∀ s u f, F (updThread s u f) = F s) (us : List Nat) (s : State) :
    F (landAll s us) = F s := by
  rw [landAll_eq]; exact foldl_updThread_keeps F hF (fun _ t => landDue t s.clock) us s

/-- The hash of a course at the first word of its block (R323). -/
def hashed (t0 : Thread) (uids : List Nat) (s : State) : State :=
  if t0.idx = 0 then uids.foldl (fun s u => updThread s u fun t => { t with hash := hashStep t.hash t.hdr }) s else s

theorem hashed_keeps {α : Type} (F : State → α) (hF : ∀ s u f, F (updThread s u f) = F s) (t0 : Thread) (us : List Nat) (s : State) :
    F (hashed t0 us s) = F s := by
  unfold hashed; split
  · exact foldl_updThread_keeps F hF (fun _ t => { t with hash := hashStep t.hash t.hdr }) us s
  · rfl

theorem hashed_thread? (t0 : Thread) {us : List Nat} (hn : us.Nodup) (s : State) (v : Nat) :
    (v ∉ us → (hashed t0 us s).thread? v = s.thread? v) ∧
    (∀ t, s.thread? v = some t → ∃ h, (hashed t0 us s).thread? v = some { t with hash := h }) := by
  unfold hashed; split
  · have h := foldl_updThread (fun _ t => { t with hash := hashStep t.hash t.hdr }) (fun _ _ => rfl) us s hn v
    refine ⟨fun hv => ?_, fun t ht => ?_⟩
    · rw [h]; cases s.thread? v <;> simp [hv]
    · rw [h, ht]
      simp only [Option.map_some]
      split
      · exact ⟨_, rfl⟩
      · exact ⟨t.hash, rfl⟩
  · exact ⟨fun _ => rfl, fun t ht => ⟨t.hash, ht⟩⟩

/-- A slot of the course offers its turn (R62). -/
def offered (p : Pre) (uids : List Nat) (s : State) : State :=
  if p.yld then { s with slots := s.slots.map fun x => if x.uids.any uids.contains then { x with offer := true } else x } else s

/-- Does the word's decode check the header that follows the block (R53, R61)? -/
def needsNext (f : Fields) (p : Pre) (s : State) (us : List Nat) (t0 : Thread) : Bool :=
  (t0.idx + 1 == (Header.of t0.hword).length) &&
    (f.placedLast || ((course s us).map Thread.uid).any fun u => !(f.leaves && ((active s us p).map Thread.uid).contains u))

theorem follow_goes {f : Fields} (p : Pre) {s : State} (us : List Nat) {t0 : Thread} {b : Block} {l : Launch} {w : DWord} (hg : GoesOn f s t0 b l w) :
    ∃ nx, followAt (landAll s us) b.core l.vf (following t0) (needsNext f p s us t0) = (.ok nx, landAll s us) ∧
      encodingTrap f.placedLast l.rcd.budget true (.ok nx) = 0 ∧ (needsNext f p s us t0 = true → nx = some w) := by
  cases hn : needsNext f p s us t0 with
  | false => exact ⟨none, rfl, rfl, by simp⟩
  | true =>
    have hend : endsBlock t0 := by
      have : (t0.idx + 1 == (Header.of t0.hword).length) = true := by
        unfold needsNext at hn; rw [Bool.and_eq_true] at hn; exact hn.1
      simpa [endsBlock] using this
    rcases hg with ⟨_, he, hr⟩ | ⟨h1, _⟩
    · have hf := held_fetch (held_congr he.held (rest_icache (rest_landAll s us)) (rest_l2 (rest_landAll s us)) (rest_synonyms (rest_landAll s us)))
      refine ⟨some w, by simp only [followAt, if_true, hf], ?_, fun _ => rfl⟩
      cases hp : f.placedLast with
      | false => simp [encodingTrap, he.sound]
      | true => simp [encodingTrap, he.sound, hr hp]
    · exact absurd hend h1

/-- Nothing stops the word: it is its body's effect and the advance of the course. -/
theorem issue_ready {f : Fields} {p : Pre} {s : State} {us : List Nat} {t0 : Thread} {b : Block} {l : Launch} {nx : Option DWord}
    (h : Ready f p s us t0 b l) (body : Ctx → State → Fx) (hb : f.isBranch = true ∨ f.placedLast = true → endsBlock t0)
    (hx : followAt (landAll s us) b.core l.vf (following t0) (needsNext f p s us t0) = (.ok nx, landAll s us))
    (he : encodingTrap f.placedLast l.rcd.budget true (.ok nx) = 0) :
    ∃ c s1, Begun f p s us t0 b l nx c s1 ∧ issue f p body s = done (advance p c (body c s1)) := by
  have hlb : (landAll s us).block? t0.bid = some b := by
    rw [block?_congr (landAll_keeps State.blocks (fun _ _ _ => rfl) us s)]; exact h.block
  have hll : (landAll s us).launch? t0.lid = some l := by
    rw [rest_launch? (rest_landAll ..)]; exact h.launch
  have hland : us.foldl (fun s u => updThread s u fun t => landDue t s.clock) s = landAll s us := rfl
  unfold issue
  rw [h.cur]
  simp only
  rw [hland]
  have hcourse : byLane (us.filterMap (landAll s us).thread?) = course s us := rfl
  rw [hcourse]
  have hfirst := h.first
  unfold needsNext active at hx
  cases e : course s us with
  | nil => rw [e] at hfirst; cases hfirst
  | cons a as =>
    rw [e] at hfirst; cases hfirst
    rw [e] at hx
    simp only [hlb, hll]
    have hstop : ((f.isBranch || f.placedLast) && !(t0.idx + 1 == (Header.of t0.hword).length)) = false := by
      cases h1 : f.isBranch || f.placedLast with
      | false => rfl
      | true =>
        have : endsBlock t0 := hb (by simpa using h1)
        simpa [endsBlock] using this
    have hland' : (l.rcd.chk && !((List.map Thread.uid (List.filter (guardHolds p.g) (t0 :: as))).isEmpty) &&
        (t0 :: as).any (touchesUnlanded f p.g)) = false := by
      cases hc : l.rcd.chk with
      | false => rfl
      | true =>
        have : (t0 :: as).any (touchesUnlanded f p.g) = false := by
          rw [List.any_eq_false]
          intro t ht
          have := h.landed hc t (by rw [e]; exact ht)
          simp [this]
        rw [this]; simp
    rw [if_neg (by rw [hstop]; simp)]
    have hx' : followAt (landAll s us) b.core l.vf (t0.hdr + 8 + BitVec.ofNat 64 (16 * (Header.of t0.hword).length))
        ((t0.idx + 1 == (Header.of t0.hword).length) && (f.placedLast || ((t0 :: as).map Thread.uid).any fun u =>
          !(f.leaves && (((t0 :: as).filter (guardHolds p.g)).map Thread.uid).contains u))) = (.ok nx, landAll s us) := hx
    rw [hx']
    simp only [h.operands, he, bne_self_eq_false, Bool.false_eq_true, if_false]
    rw [if_neg (by rw [hland']; simp)]
    refine ⟨⟨f, (t0 :: as).map Thread.uid, ((t0 :: as).filter (guardHolds p.g)).map Thread.uid, b, l, b.core, l.vf, t0.hdr,
        t0.hdr + 8 + BitVec.ofNat 64 (16 * t0.idx), t0.hdr + 8 + BitVec.ofNat 64 (16 * (Header.of t0.hword).length), nx,
        t0.idx + 1 == (Header.of t0.hword).length⟩,
      offered p ((t0 :: as).map Thread.uid) (hashed t0 ((t0 :: as).map Thread.uid) (landAll s us)), ?_, rfl⟩
    have hnd : ((t0 :: as).map Thread.uid).Nodup := by rw [← e]; exact course_nodup s h.nodup
    have hoff : ∀ {α : Type} (F : State → α) (_ : ∀ s sl, F { s with slots := sl } = F s) (x : State),
        F (offered p ((t0 :: as).map Thread.uid) x) = F x := by
      intro α F hF x; unfold offered; split
      · exact hF _ _
      · rfl
    have hk : ∀ {α : Type} (F : State → α) (_ : ∀ s u f, F (updThread s u f) = F s) (_ : ∀ s sl, F { s with slots := sl } = F s),
        F (offered p ((t0 :: as).map Thread.uid) (hashed t0 ((t0 :: as).map Thread.uid) (landAll s us))) = F s := by
      intro α F h1 h2
      rw [hoff F h2, hashed_keeps F h1, landAll_keeps F h1]
    have hth : ∀ v, (offered p ((t0 :: as).map Thread.uid) (hashed t0 ((t0 :: as).map Thread.uid) (landAll s us))).thread? v =
        (hashed t0 ((t0 :: as).map Thread.uid) (landAll s us)).thread? v :=
      fun v => hoff (fun s => s.thread? v) (fun _ _ => rfl) _
    refine ⟨rfl, by rw [e], by rw [active, e], rfl, rfl, rfl, rfl, rfl, rfl, rfl, rfl, rfl, hk rest (fun _ _ _ => rfl) (fun _ _ => rfl),
      hk State.blocks (fun _ _ _ => rfl) (fun _ _ => rfl), hk State.nextId (fun _ _ _ => rfl) (fun _ _ => rfl),
      hk State.pmcs (fun _ _ _ => rfl) (fun _ _ => rfl), fun v hv => ?_, fun t ht => ?_⟩
    · rw [hth, (hashed_thread? t0 hnd (landAll s us) v).1 (fun hm => hv (course_uids_sub (by rw [e]; exact hm))), landAll_other s h.nodup hv]
    · rw [hth]
      exact (hashed_thread? t0 hnd (landAll s us) t.uid).2 t (course_thread ht).1

/-- An effect that leaves its course where it is, able to go on or to wait. -/
structure Calm (s : State) (us : List Nat) (t0 : Thread) (l : Launch) (fx : Fx) : Prop where
  traps : fx.traps = []
  faults : fx.faults = []
  targets : fx.targets = []
  links : fx.links = []
  clock : fx.s.clock = s.clock
  free : endsBlock t0 → entrantOf fx.s l.lid = none
  awake : roundShut fx.s l.lid = false ∨ ∀ t ∈ course s us, ∀ x, fx.s.thread? t.uid = some x → x.wait = .none
  threads : ∀ t ∈ course s us, ∃ x, fx.s.thread? t.uid = some x ∧ x.life = .inSlot ∧ x.hdr = t0.hdr ∧ x.hword = t0.hword ∧ x.idx = t0.idx
  others : ∀ v, v ∉ us → fx.s.thread? v = s.thread? v

theorem goesOn_ends {f : Fields} {s : State} {t0 : Thread} {b : Block} {l : Launch} {w : DWord} (h : GoesOn f s t0 b l w) :
    (f.isBranch = true ∨ f.placedLast = true → endsBlock t0) ∧ (endsBlock t0 → Enterable s b l (following t0) w) := by
  rcases h with ⟨h1, h2, _⟩ | ⟨h1, h2, h3⟩
  · exact ⟨fun _ => h1, fun _ => h2⟩
  · rw [h2, h3]
    exact ⟨by simp, fun h => absurd h h1⟩

theorem ready_lid {f : Fields} {p : Pre} {s : State} {us : List Nat} {t0 : Thread} {b : Block} {l : Launch}
    (h : Ready f p s us t0 b l) : l.lid = t0.lid := by
  have := List.find?_some h.launch; simpa using this

/-- Some lane of the course goes on from the word to what follows: the word is no branch, EXIT or TRAP, or a lane is inactive. -/
def SomeGoOn (f : Fields) (p : Pre) (s : State) (us : List Nat) : Prop :=
  f.leaves = false ∨ ∃ t ∈ course s us, t.uid ∉ (active s us p).map Thread.uid

theorem needsNext_of {f : Fields} {p : Pre} {s : State} {us : List Nat} {t0 : Thread} (hc : (course s us).head? = some t0)
    (hend : endsBlock t0) (hs : SomeGoOn f p s us) : needsNext f p s us t0 = true := by
  have hl : (t0.idx + 1 == (Header.of t0.hword).length) = true := by simpa [endsBlock] using hend
  have hany : ((course s us).map Thread.uid).any (fun u => !(f.leaves && ((active s us p).map Thread.uid).contains u)) = true := by
    rw [List.any_eq_true]
    rcases hs with hf | ⟨t, ht, hn⟩
    · cases e : course s us with
      | nil => rw [e] at hc; cases hc
      | cons a as => exact ⟨a.uid, by simp, by simp [hf]⟩
    · refine ⟨t.uid, List.mem_map.mpr ⟨t, ht, rfl⟩, ?_⟩
      have : ((active s us p).map Thread.uid).contains t.uid = false := by
        cases h : ((active s us p).map Thread.uid).contains t.uid with
        | false => rfl
        | true => exact absurd (List.contains_iff_mem.mp h) hn
      rw [this]; simp
  unfold needsNext
  rw [hl, hany]; simp

/-- A word whose effect is calm leaves its course at the next word or at the header that follows. -/
theorem issue_passes {f : Fields} {p : Pre} {s : State} {us : List Nat} {t0 : Thread} {b : Block} {l : Launch} {w : DWord}
    (h : Ready f p s us t0 b l) (hg : GoesOn f s t0 b l w) (hs : SomeGoOn f p s us) (body : Ctx → State → Fx)
    (hc : ∀ nx c s1, Begun f p s us t0 b l nx c s1 → Calm s us t0 l (body c s1)) :
    ∃ nx c s1 z, Begun f p s us t0 b l nx c s1 ∧ issue f p body s = done z ∧ rest z = rest (body c s1).s ∧ z.cur = .none ∧
      (∀ v, v ∉ us → z.thread? v = s.thread? v) ∧
      ∀ t ∈ course s us, ∀ x, (body c s1).s.thread? t.uid = some x →
        ∃ y, z.thread? t.uid = some y ∧ laneRest y = laneRest x ∧ bare y.pend = bare x.pend ∧ y.fflags = x.fflags ∧ Passed s p t0 w y := by
  obtain ⟨nx, hx, ht, hnx⟩ := follow_goes p us hg
  obtain ⟨c, s1, hB, he⟩ := issue_ready h body (goesOn_ends hg).1 hx ht
  have hC := hc nx c s1 hB
  have hS : Standing c (course s us) t0 (body c s1).s :=
    ⟨hB.uids, by rw [hB.uids]; exact course_nodup s h.nodup, h.first, hB.Hn, hB.isLast, by rw [hB.launch]; exact hC.free,
      by rw [hB.launch]; exact hC.awake, hC.threads⟩
  obtain ⟨h1, h2, h3, h4⟩ := advance_passes (p := p) (w := w) hC.traps hC.faults hC.targets hC.links hS
    (fun hend => ((goesOn_ends hg).2 hend).plain) (fun hend => by rw [hB.next]; exact hnx (needsNext_of h.first hend hs))
  refine ⟨nx, c, s1, _, hB, he, h1, h2, fun v hv => ?_, fun t ht x hx => ?_⟩
  · rw [h3 v (fun hm => hv (course_uids_sub (by rw [← hB.uids]; exact hm)))]
    exact hC.others v hv
  · obtain ⟨y, hy, e1, e2, e3, e4⟩ := h4 t ht x hx
    exact ⟨y, hy, e1, e2, e3, ⟨e4.ready.trans (by rw [hC.clock]), e4.issued.trans hC.clock, e4.lowered, e4.spot⟩⟩

theorem done_next {s : State} (h : s.hole = none) : done s = .next s := by simp only [done, h]

/-! ### Lane results -/

theorem sendResult_rest (s : State) (u : Nat) (lat : Option Nat) (regs : List (Nat × Word)) (preds : List (Nat × Bool)) (a b c : Bool) :
    rest (sendResult s u lat regs preds a b c) = rest s := by
  unfold sendResult
  simp only
  split
  · rfl
  · cases lat <;> rfl

theorem sendResult_other (s : State) {u v : Nat} (lat : Option Nat) (regs : List (Nat × Word)) (preds : List (Nat × Bool)) (a b c : Bool)
    (h : v ≠ u) : (sendResult s u lat regs preds a b c).thread? v = s.thread? v := by
  unfold sendResult
  simp only
  split
  · rfl
  · cases lat with
    | none => exact thread?_updThread_other (fun t => { t with pend := _ }) (fun _ => rfl) h
    | some n => exact thread?_updThread_other (fun t => { t with pend := t.pend ++ fixedPends _ _ t.pend _ _ }) (fun _ => rfl) h

theorem sendResult_same {s : State} {u : Nat} {t : Thread} (lat : Option Nat) (regs : List (Nat × Word)) (preds : List (Nat × Bool))
    (h : s.thread? u = some t) :
    ∃ id, (sendResult s u lat regs preds).thread? u = some { t with pend := t.pend ++ inFlight id s.clock lat t.pend regs preds } := by
  unfold sendResult
  simp only
  split
  · rename_i he
    refine ⟨0, ?_⟩
    rw [Bool.and_eq_true] at he
    have h1 : regs = [] := List.isEmpty_iff.mp he.1
    have h2 : keptPreds preds = [] := List.isEmpty_iff.mp he.2
    have : inFlight 0 s.clock lat t.pend regs preds = [] := by
      unfold inFlight
      cases lat <;> simp [h1, h2, fixedPends]
    rw [this, List.append_nil]; exact h
  · rename_i he
    cases lat with
    | none =>
      have : ∀ id, inFlight id s.clock none t.pend regs preds = [{ id := id, due := .any, regs := regs, preds := keptPreds preds }] :=
        fun id => if_neg he
      exact ⟨s.nextId, by
        rw [this]
        exact thread?_updThread_same (s := { s with nextId := s.nextId + 1 }) (fun t => { t with pend := t.pend ++ _ }) (fun _ => rfl) h⟩
    | some n =>
      exact ⟨s.nextId, thread?_updThread_same (s := { s with nextId := s.nextId + 1 })
        (fun t => { t with pend := t.pend ++ fixedPends s.nextId (s.clock + n) t.pend regs (keptPreds preds) }) (fun _ => rfl) h⟩

/-- An instruction of lane results alone runs in every lane. -/
theorem alu_completes {f : Fields} {p : Pre} {lane : Launch → Thread → LaneFx} (hl : ∀ l t h, lane l { t with hash := h } = lane l t)
    {s : State} {us : List Nat} {t0 : Thread} {b : Block} {l : Launch} {w : DWord}
    (h : Ready f p s us t0 b l) (hg : GoesOn f s t0 b l w) (hs : SomeGoOn f p s us) :
    ∃ z, alu f p lane s = .next z ∧ Ran s z us ∧
      ∀ t ∈ course s us, ∃ y, z.thread? t.uid = some y ∧ Passed s p t0 w y ∧
        (if guardHolds p.g t then Wrote s.clock f.latency (lane l t).regs (lane l t).preds (lane l t).flags t y
         else Wrote s.clock f.latency [] [] 0 t y) := by
  -- the fold over the active lanes
  have fold : ∀ nx c s1, Begun f p s us t0 b l nx c s1 →
      let s2 := c.act.foldl (fun s u =>
        match s.thread? u with
        | none => s
        | some t =>
          updThread (sendResult s u f.latency (lane c.l t).regs (lane c.l t).preds) u fun t' =>
            { t' with fflags := t'.fflags ||| (lane c.l t).flags }) s1
      rest s2 = rest s ∧ (∀ v, v ∉ us → s2.thread? v = s.thread? v) ∧
      ∀ t ∈ course s us, ∃ x h, s2.thread? t.uid = some x ∧
        (guardHolds p.g t = true → ∃ id, x = { t with hash := h, pend := t.pend ++ inFlight id s.clock f.latency t.pend (lane l t).regs (lane l t).preds, fflags := t.fflags ||| (lane l t).flags }) ∧
        (guardHolds p.g t = false → x = { t with hash := h }) := by
    intro nx c s1 hB
    have hsub : ∀ u ∈ c.act, u ∈ us := by
      intro u hu
      rw [hB.act] at hu
      obtain ⟨t, ht, rfl⟩ := List.mem_map.mp hu
      exact (course_thread (List.mem_filter.mp ht).1).2
    have hnd : c.act.Nodup := by
      rw [hB.act]
      exact ((List.filter_sublist.map Thread.uid)).nodup (course_nodup s h.nodup)
    obtain ⟨h1, h2, h3⟩ := foldl_lanes (L := c.act)
      (g := fun s u =>
        match s.thread? u with
        | none => s
        | some t =>
          updThread (sendResult s u f.latency (lane c.l t).regs (lane c.l t).preds) u fun t' =>
            { t' with fflags := t'.fflags ||| (lane c.l t).flags })
      (I := fun x => rest x = rest s)
      (P := fun t y => ∃ id, y = { t with pend := t.pend ++ inFlight id s.clock f.latency t.pend (lane l t).regs (lane l t).preds, fflags := t.fflags ||| (lane l t).flags })
      (by
        intro x u _ hx
        cases hu : x.thread? u with
        | none => simpa [hu] using hx
        | some t => simp only [rest_updThread, sendResult_rest, hx])
      (by
        intro x u v _ _ hv
        cases hu : x.thread? u with
        | none => rfl
        | some t =>
          simp only
          rw [thread?_updThread_other (fun t' => { t' with fflags := t'.fflags ||| (lane c.l t).flags }) (fun _ => rfl) hv,
            sendResult_other _ _ _ _ _ _ _ hv])
      (by
        intro x u t _ hx hu
        simp only [hu]
        obtain ⟨id, hid⟩ := sendResult_same f.latency (lane c.l t).regs (lane c.l t).preds hu
        refine ⟨_, thread?_updThread_same (fun t' => { t' with fflags := t'.fflags ||| (lane c.l t).flags }) (fun _ => rfl) hid, id, ?_⟩
        rw [hB.launch, rest_clock hx])
      c.act s1 (fun _ h => h) hnd hB.same
    refine ⟨h1, fun v hv => (h2 v fun hm => hv (hsub v hm)).trans (hB.others v hv), fun t ht => ?_⟩
    obtain ⟨hh, hth⟩ := hB.threads t ht
    by_cases hgd : guardHolds p.g t = true
    · have hin : t.uid ∈ c.act := by
        rw [hB.act]; exact List.mem_map.mpr ⟨t, List.mem_filter.mpr ⟨ht, hgd⟩, rfl⟩
      obtain ⟨y, hy, id, rfl⟩ := h3 t.uid hin _ hth
      refine ⟨_, hh, hy, fun _ => ⟨id, ?_⟩, fun hf => by rw [hgd] at hf; cases hf⟩
      rw [hl]
    · have hout : t.uid ∉ c.act := by
        intro hm
        rw [hB.act] at hm
        obtain ⟨q, hq, e⟩ := List.mem_map.mp hm
        obtain ⟨hq1, hq2⟩ := List.mem_filter.mp hq
        have : q = t := by
          have e1 := (course_thread hq1).1
          have e2 := (course_thread ht).1
          rw [e, e2] at e1; exact (Option.some.inj e1).symm
        rw [this] at hq2; exact hgd hq2
      refine ⟨_, hh, (h2 t.uid hout).trans hth, fun hf => absurd hf hgd, fun _ => rfl⟩
  have free : ∀ {x : State}, rest x = rest s → endsBlock t0 → entrantOf x l.lid = none := fun hx hend => by
    rw [rest_entrantOf hx]; exact ((goesOn_ends hg).2 hend).free
  unfold alu
  obtain ⟨nx, c, s1, z, hB, he, hr, hcur, ho, hy⟩ := issue_passes h hg hs
    (fun c s => ({ s := c.act.foldl (fun s u =>
        match s.thread? u with
        | none => s
        | some t =>
          let r := lane c.l t
          let s := sendResult s u f.latency r.regs r.preds
          updThread s u fun t => { t with fflags := t.fflags ||| r.flags }) s } : Fx)) (by
      intro nx c s1 hB
      obtain ⟨h1, h2, h3⟩ := fold nx c s1 hB
      have lanes : ∀ t ∈ course s us, ∃ x, (Fx.s { s := c.act.foldl (fun s u =>
          match s.thread? u with
          | none => s
          | some t =>
            updThread (sendResult s u f.latency (lane c.l t).regs (lane c.l t).preds) u fun t' =>
              { t' with fflags := t'.fflags ||| (lane c.l t).flags }) s1 }).thread? t.uid = some x ∧ x.wait = .none ∧ x.life = .inSlot ∧
          x.hdr = t0.hdr ∧ x.hword = t0.hword ∧ x.idx = t0.idx := by
        intro t ht
        obtain ⟨x, hh, hx, ha, hb⟩ := h3 t ht
        obtain ⟨r1, r2⟩ := h.running t ht
        obtain ⟨g1, g2, g3, g4, g5⟩ := h.together t ht
        refine ⟨x, hx, ?_⟩
        by_cases hgd : guardHolds p.g t = true
        · obtain ⟨id, rfl⟩ := ha hgd
          exact ⟨r2, r1, g3, g4, g5⟩
        · have := hb (by simpa using hgd)
          subst this
          exact ⟨r2, r1, g3, g4, g5⟩
      refine ⟨rfl, rfl, rfl, rfl, rest_clock h1, free h1, .inr fun t ht x hx => ?_, fun t ht => ?_, h2⟩
      · obtain ⟨x', hx', e, _⟩ := lanes t ht
        rw [show _ = some x' from hx'] at hx
        cases hx; exact e
      · obtain ⟨x, hx, _, e⟩ := lanes t ht
        exact ⟨x, hx, e⟩)
  obtain ⟨h1, _, h3⟩ := fold nx c s1 hB
  refine ⟨z, he.trans (done_next ((rest_hole (hr.trans h1)).trans h.noHole)), ⟨hr.trans h1, hcur, ho⟩, fun t ht => ?_⟩
  obtain ⟨x, hh, hx, ha, hb⟩ := h3 t ht
  obtain ⟨y, hy1, e1, e2, e3, e4⟩ := hy t ht x hx
  refine ⟨y, hy1, e4, ?_⟩
  by_cases hgd : guardHolds p.g t = true
  · rw [if_pos hgd]
    obtain ⟨id, rfl⟩ := ha hgd
    exact ⟨e1, ⟨id, e2⟩, e3⟩
  · rw [if_neg hgd]
    have := hb (by simpa using hgd)
    subst this
    refine ⟨e1, ⟨0, ?_⟩, by rw [e3]; simp⟩
    have : inFlight 0 s.clock f.latency t.pend [] [] = [] := by
      unfold inFlight; cases f.latency <;> simp [fixedPends, keptPreds]
    rw [e2, this, List.append_nil]

end Sys2Proof.Machine
end

