-- ==== Sys2Proof/Laws/PerInstr.lean ====
section
/-! SUPPORT. The round trip of the encoding, constructor by constructor: an instruction's encoding is read back by the decoder of its own
stream, and its opcode is no code of the other stream. An event has no word: its encoding is the unassigned opcode. -/

namespace Sys2Proof.Laws.Encoding

set_option maxRecDepth 8000

/-- R9, R85, R237: what holds of one instruction and its word. -/
def Statement (i : Instr) : Prop :=
  i.wf = true →
    encode i = { op := 0x1FF } ∨
    ((encode i).op.toNat < 0x180 ∧ opStream.lookup (encode i).op.toNat = none ∧ decodeWith opThread (encode i) = .ok i) ∨
    (0x180 ≤ (encode i).op.toNat ∧ (encode i).op.toNat ≤ 0x19F ∧ opThread.lookup (encode i).op.toNat = none ∧
      decodeWith opStream (encode i) = .ok i)

theorem decode_ok {table : List (Nat × (Fields → Option Instr))} {i : Instr} {rd : Fields → Option Instr} {op : Nat}
    (ho : (encode i).op.toNat = op) (hl : table.lookup op = some rd) (hd : rd (encode i) = some i) (hw : i.wf = true) :
    decodeWith table (encode i) = .ok i := by
  simp only [decodeWith, ho, hl, hd]
  simp [hw]

theorem of_thread {i : Instr} {rd : Fields → Option Instr} {o : BitVec 9} (ho : (encode i).op = o) (hn : o.toNat < 0x180)
    (hs : opStream.lookup o.toNat = none) (hl : opThread.lookup o.toNat = some rd) (hd : rd (encode i) = some i) : Statement i :=
  fun hw => .inr (.inl ⟨by rw [ho]; exact hn, by rw [ho]; exact hs, decode_ok (congrArg BitVec.toNat ho) hl hd hw⟩)

theorem of_stream {i : Instr} {rd : Fields → Option Instr} {o : BitVec 9} (ho : (encode i).op = o)
    (hn : 0x180 ≤ o.toNat ∧ o.toNat ≤ 0x19F) (hs : opThread.lookup o.toNat = none) (hl : opStream.lookup o.toNat = some rd)
    (hd : rd (encode i) = some i) : Statement i :=
  fun hw => .inr (.inr ⟨by rw [ho]; exact hn.1, by rw [ho]; exact hn.2, by rw [ho]; exact hs,
    decode_ok (congrArg BitVec.toNat ho) hl hd hw⟩)

theorem nop : ∀ p, Statement (.nop p) :=
  fun _ => of_thread (enP_op 0x000 _) (by decide) rfl rfl (deP_enP .nop 0x000 _)
theorem bra : ∀ p off, Statement (.bra p off) :=
  fun _ _ => of_thread (enOff_op 0x001 _ _) (by decide) rfl rfl (deOff_enOff .bra 0x001 _ _)
theorem brx : ∀ p a, Statement (.brx p a) :=
  fun _ _ => of_thread (enA_op 0x002 _ _) (by decide) rfl rfl (deA_enA .brx 0x002 _ _)
theorem call : ∀ p off, Statement (.call p off) :=
  fun _ _ => of_thread (enOff_op 0x003 _ _) (by decide) rfl rfl (deOff_enOff .call 0x003 _ _)
theorem callx : ∀ p a, Statement (.callx p a) :=
  fun _ _ => of_thread (enA_op 0x004 _ _) (by decide) rfl rfl (deA_enA .callx 0x004 _ _)
theorem ret : ∀ p, Statement (.ret p) :=
  fun _ => of_thread (enP_op 0x005 _) (by decide) rfl rfl (deP_enP .ret 0x005 _)
theorem exit : ∀ p, Statement (.exit p) :=
  fun _ => of_thread (enP_op 0x006 _) (by decide) rfl rfl (deP_enP .exit 0x006 _)
theorem spawn : ∀ p b off, Statement (.spawn p b off) :=
  fun _ _ _ => of_thread (enSpawn_op 0x007 _ _ _) (by decide) rfl rfl (deSpawn_enSpawn .spawn 0x007 _ _ _)
theorem spawnq : ∀ p d a off q, Statement (.spawnq p d a off q) :=
  fun _ _ _ _ _ => of_thread (enSpawnQ_op 0x008 _ _ _ _ _) (by decide) rfl rfl (deSpawnQ_enSpawnQ .spawnq 0x008 _ _ _ _ _)
theorem waitc : ∀ p cls n, Statement (.waitc p cls n) :=
  fun _ _ _ => of_thread (enWaitC_op 0x009 _ _ _) (by decide) rfl rfl (deWaitC_enWaitC .waitc 0x009 _ _ _)
theorem barArr : ∀ p d b c, Statement (.barArr p d b c) :=
  fun _ _ _ _ => of_thread (enBarArr_op 0x00A _ _ _ _) (by decide) rfl rfl (deBarArr_enBarArr .barArr 0x00A _ _ _ _)
theorem barWait : ∀ p a b, Statement (.barWait p a b) :=
  fun _ _ _ => of_thread (enBarWait_op 0x00B _ _ _) (by decide) rfl rfl (deBarWait_enBarWait .barWait 0x00B _ _ _)
theorem barSync : ∀ p b c, Statement (.barSync p b c) :=
  fun _ _ _ => of_thread (enBarSync_op 0x00C _ _ _) (by decide) rfl rfl (deBarSync_enBarSync .barSync 0x00C _ _ _)
theorem yield : ∀ p sc, Statement (.yield p sc) :=
  fun _ _ => of_thread (enYield_op 0x00D _ _) (by decide) rfl rfl (deYield_enYield .yield 0x00D _ _)
theorem trap : ∀ p code, Statement (.trap p code) :=
  fun _ _ => of_thread (enTrap_op 0x00E _ _) (by decide) rfl rfl (deTrap_enTrap .trap 0x00E _ _)
theorem bkpt : ∀ p, Statement (.bkpt p) :=
  fun _ => of_thread (enP_op 0x00F _) (by decide) rfl rfl (deP_enP .bkpt 0x00F _)
theorem gsync : ∀ p, Statement (.gsync p) :=
  fun _ => of_thread (enP_op 0x010 _) (by decide) rfl rfl (deP_enP .gsync 0x010 _)
theorem sleep : ∀ p n, Statement (.sleep p n) :=
  fun _ _ => of_thread (enSleep_op 0x011 _ _) (by decide) rfl rfl (deSleep_enSleep .sleep 0x011 _ _)
theorem udf : ∀ hi lo, Statement (.udf hi lo) :=
  fun _ _ => of_thread (enUdf_op _ _) (by decide) rfl rfl (deUdf_enUdf _ _)
theorem brt : ∀ p a b n h, Statement (.brt p a b n h) :=
  fun _ _ _ _ _ => of_thread (enBrt_op 0x013 _ _ _ _ _) (by decide) rfl rfl (deBrt_enBrt .brt 0x013 _ _ _ _ _)
theorem iadd32 : ∀ p d a b, Statement (.iadd32 p d a b) :=
  fun _ _ _ _ => of_thread (enRRI_op 0x020 _ _ _ _) (by decide) rfl rfl (deRRI_enRRI .iadd32 0x020 _ _ _ _)
theorem iadd64 : ∀ p d a b, Statement (.iadd64 p d a b) :=
  fun _ _ _ _ => of_thread (enRRI_op 0x021 _ _ _ _) (by decide) rfl rfl (deRRI_enRRI .iadd64 0x021 _ _ _ _)
theorem isub32 : ∀ p d a b, Statement (.isub32 p d a b) :=
  fun _ _ _ _ => of_thread (enRRI_op 0x022 _ _ _ _) (by decide) rfl rfl (deRRI_enRRI .isub32 0x022 _ _ _ _)
theorem isub64 : ∀ p d a b, Statement (.isub64 p d a b) :=
  fun _ _ _ _ => of_thread (enRRI_op 0x023 _ _ _ _) (by decide) rfl rfl (deRRI_enRRI .isub64 0x023 _ _ _ _)
theorem iaddc : ∀ p d a b pd ps nps, Statement (.iaddc p d a b pd ps nps) :=
  fun _ _ _ _ _ _ _ => of_thread (enAddc_op 0x024 _ _ _ _ _ _ _) (by decide) rfl rfl (deAddc_enAddc .iaddc 0x024 _ _ _ _ _ _ _)
theorem imulLo : ∀ p d a b, Statement (.imulLo p d a b) :=
  fun _ _ _ _ => of_thread (enRRI_op 0x025 _ _ _ _) (by decide) rfl rfl (deRRI_enRRI .imulLo 0x025 _ _ _ _)
theorem imulhS : ∀ p d a b, Statement (.imulhS p d a b) :=
  fun _ _ _ _ => of_thread (enRRI_op 0x026 _ _ _ _) (by decide) rfl rfl (deRRI_enRRI .imulhS 0x026 _ _ _ _)
theorem imulhN : ∀ p d a b, Statement (.imulhN p d a b) :=
  fun _ _ _ _ => of_thread (enRRI_op 0x027 _ _ _ _) (by decide) rfl rfl (deRRI_enRRI .imulhN 0x027 _ _ _ _)
theorem imulwS : ∀ p d a b, Statement (.imulwS p d a b) :=
  fun _ _ _ _ => of_thread (enRRI_op 0x028 _ _ _ _) (by decide) rfl rfl (deRRI_enRRI .imulwS 0x028 _ _ _ _)
theorem imulwN : ∀ p d a b, Statement (.imulwN p d a b) :=
  fun _ _ _ _ => of_thread (enRRI_op 0x029 _ _ _ _) (by decide) rfl rfl (deRRI_enRRI .imulwN 0x029 _ _ _ _)
theorem imadLo : ∀ p d a b c, Statement (.imadLo p d a b c) :=
  fun _ _ _ _ _ => of_thread (enRRIR_op 0x02A _ _ _ _ _) (by decide) rfl rfl (deRRIR_enRRIR .imadLo 0x02A _ _ _ _ _)
theorem imadwS : ∀ p d a b c, Statement (.imadwS p d a b c) :=
  fun _ _ _ _ _ => of_thread (enRRIR_op 0x02B _ _ _ _ _) (by decide) rfl rfl (deRRIR_enRRIR .imadwS 0x02B _ _ _ _ _)
theorem imadwN : ∀ p d a b c, Statement (.imadwN p d a b c) :=
  fun _ _ _ _ _ => of_thread (enRRIR_op 0x02C _ _ _ _ _) (by decide) rfl rfl (deRRIR_enRRIR .imadwN 0x02C _ _ _ _ _)
theorem imad64 : ∀ p d a b c, Statement (.imad64 p d a b c) :=
  fun _ _ _ _ _ => of_thread (enRRIR_op 0x02D _ _ _ _ _) (by decide) rfl rfl (deRRIR_enRRIR .imad64 0x02D _ _ _ _ _)
theorem idivS : ∀ p d a b, Statement (.idivS p d a b) :=
  fun _ _ _ _ => of_thread (enRRI_op 0x02E _ _ _ _) (by decide) rfl rfl (deRRI_enRRI .idivS 0x02E _ _ _ _)
theorem idivN : ∀ p d a b, Statement (.idivN p d a b) :=
  fun _ _ _ _ => of_thread (enRRI_op 0x02F _ _ _ _) (by decide) rfl rfl (deRRI_enRRI .idivN 0x02F _ _ _ _)
theorem iremS : ∀ p d a b, Statement (.iremS p d a b) :=
  fun _ _ _ _ => of_thread (enRRI_op 0x030 _ _ _ _) (by decide) rfl rfl (deRRI_enRRI .iremS 0x030 _ _ _ _)
theorem iremN : ∀ p d a b, Statement (.iremN p d a b) :=
  fun _ _ _ _ => of_thread (enRRI_op 0x031 _ _ _ _) (by decide) rfl rfl (deRRI_enRRI .iremN 0x031 _ _ _ _)
theorem iminS : ∀ p d a b, Statement (.iminS p d a b) :=
  fun _ _ _ _ => of_thread (enRRI_op 0x032 _ _ _ _) (by decide) rfl rfl (deRRI_enRRI .iminS 0x032 _ _ _ _)
theorem iminN : ∀ p d a b, Statement (.iminN p d a b) :=
  fun _ _ _ _ => of_thread (enRRI_op 0x033 _ _ _ _) (by decide) rfl rfl (deRRI_enRRI .iminN 0x033 _ _ _ _)
theorem imaxS : ∀ p d a b, Statement (.imaxS p d a b) :=
  fun _ _ _ _ => of_thread (enRRI_op 0x034 _ _ _ _) (by decide) rfl rfl (deRRI_enRRI .imaxS 0x034 _ _ _ _)
theorem imaxN : ∀ p d a b, Statement (.imaxN p d a b) :=
  fun _ _ _ _ => of_thread (enRRI_op 0x035 _ _ _ _) (by decide) rfl rfl (deRRI_enRRI .imaxN 0x035 _ _ _ _)
theorem iabs : ∀ p d a, Statement (.iabs p d a) :=
  fun _ _ _ => of_thread (enRR_op 0x036 _ _ _) (by decide) rfl rfl (deRR_enRR .iabs 0x036 _ _ _)
theorem ineg : ∀ p d a, Statement (.ineg p d a) :=
  fun _ _ _ => of_thread (enRR_op 0x037 _ _ _) (by decide) rfl rfl (deRR_enRR .ineg 0x037 _ _ _)
theorem andB : ∀ p d a b, Statement (.andB p d a b) :=
  fun _ _ _ _ => of_thread (enRRI_op 0x038 _ _ _ _) (by decide) rfl rfl (deRRI_enRRI .andB 0x038 _ _ _ _)
theorem orB : ∀ p d a b, Statement (.orB p d a b) :=
  fun _ _ _ _ => of_thread (enRRI_op 0x039 _ _ _ _) (by decide) rfl rfl (deRRI_enRRI .orB 0x039 _ _ _ _)
theorem xorB : ∀ p d a b, Statement (.xorB p d a b) :=
  fun _ _ _ _ => of_thread (enRRI_op 0x03A _ _ _ _) (by decide) rfl rfl (deRRI_enRRI .xorB 0x03A _ _ _ _)
theorem notB : ∀ p d a, Statement (.notB p d a) :=
  fun _ _ _ => of_thread (enRR_op 0x03B _ _ _) (by decide) rfl rfl (deRR_enRR .notB 0x03B _ _ _)
theorem lut3 : ∀ p d a b c tbl, Statement (.lut3 p d a b c tbl) :=
  fun _ _ _ _ _ _ => of_thread (enLut_op 0x03C _ _ _ _ _ _) (by decide) rfl rfl (deLut_enLut .lut3 0x03C _ _ _ _ _ _)
theorem shl : ∀ p d a b, Statement (.shl p d a b) :=
  fun _ _ _ _ => of_thread (enRRI_op 0x03D _ _ _ _) (by decide) rfl rfl (deRRI_enRRI .shl 0x03D _ _ _ _)
theorem shr : ∀ p d a b, Statement (.shr p d a b) :=
  fun _ _ _ _ => of_thread (enRRI_op 0x03E _ _ _ _) (by decide) rfl rfl (deRRI_enRRI .shr 0x03E _ _ _ _)
theorem sar : ∀ p d a b, Statement (.sar p d a b) :=
  fun _ _ _ _ => of_thread (enRRI_op 0x03F _ _ _ _) (by decide) rfl rfl (deRRI_enRRI .sar 0x03F _ _ _ _)
theorem rot : ∀ p d a b, Statement (.rot p d a b) :=
  fun _ _ _ _ => of_thread (enRRI_op 0x040 _ _ _ _) (by decide) rfl rfl (deRRI_enRRI .rot 0x040 _ _ _ _)
theorem fshfL : ∀ p d a b c, Statement (.fshfL p d a b c) :=
  fun _ _ _ _ _ => of_thread (enRRRI_op 0x041 _ _ _ _ _) (by decide) rfl rfl (deRRRI_enRRRI .fshfL 0x041 _ _ _ _ _)
theorem fshfR : ∀ p d a b c, Statement (.fshfR p d a b c) :=
  fun _ _ _ _ _ => of_thread (enRRRI_op 0x042 _ _ _ _ _) (by decide) rfl rfl (deRRRI_enRRRI .fshfR 0x042 _ _ _ _ _)
theorem popc : ∀ p d a, Statement (.popc p d a) :=
  fun _ _ _ => of_thread (enRR_op 0x043 _ _ _) (by decide) rfl rfl (deRR_enRR .popc 0x043 _ _ _)
theorem clz : ∀ p d a, Statement (.clz p d a) :=
  fun _ _ _ => of_thread (enRR_op 0x044 _ _ _) (by decide) rfl rfl (deRR_enRR .clz 0x044 _ _ _)
theorem brev : ∀ p d a, Statement (.brev p d a) :=
  fun _ _ _ => of_thread (enRR_op 0x045 _ _ _) (by decide) rfl rfl (deRR_enRR .brev 0x045 _ _ _)
theorem bfeS : ∀ p d a b, Statement (.bfeS p d a b) :=
  fun _ _ _ _ => of_thread (enRRI_op 0x046 _ _ _ _) (by decide) rfl rfl (deRRI_enRRI .bfeS 0x046 _ _ _ _)
theorem bfeN : ∀ p d a b, Statement (.bfeN p d a b) :=
  fun _ _ _ _ => of_thread (enRRI_op 0x047 _ _ _ _) (by decide) rfl rfl (deRRI_enRRI .bfeN 0x047 _ _ _ _)
theorem bfi : ∀ p d a b c, Statement (.bfi p d a b c) :=
  fun _ _ _ _ _ => of_thread (enRRIR_op 0x048 _ _ _ _ _) (by decide) rfl rfl (deRRIR_enRRIR .bfi 0x048 _ _ _ _ _)
theorem icmpS32 : ∀ p cmp pd a b, Statement (.icmpS32 p cmp pd a b) :=
  fun _ _ _ _ _ => of_thread (enIcmp_op 0x049 _ _ _ _ _) (by decide) rfl rfl (deIcmp_enIcmp .icmpS32 0x049 _ _ _ _ _)
theorem icmpN32 : ∀ p cmp pd a b, Statement (.icmpN32 p cmp pd a b) :=
  fun _ _ _ _ _ => of_thread (enIcmp_op 0x04A _ _ _ _ _) (by decide) rfl rfl (deIcmp_enIcmp .icmpN32 0x04A _ _ _ _ _)
theorem icmpS64 : ∀ p cmp pd a b, Statement (.icmpS64 p cmp pd a b) :=
  fun _ _ _ _ _ => of_thread (enIcmp_op 0x04B _ _ _ _ _) (by decide) rfl rfl (deIcmp_enIcmp .icmpS64 0x04B _ _ _ _ _)
theorem icmpN64 : ∀ p cmp pd a b, Statement (.icmpN64 p cmp pd a b) :=
  fun _ _ _ _ _ => of_thread (enIcmp_op 0x04C _ _ _ _ _) (by decide) rfl rfl (deIcmp_enIcmp .icmpN64 0x04C _ _ _ _ _)
theorem ipick : ∀ p d a b ps nps, Statement (.ipick p d a b ps nps) :=
  fun _ _ _ _ _ _ => of_thread (enIpick_op 0x04D _ _ _ _ _ _) (by decide) rfl rfl (deIpick_enIpick .ipick 0x04D _ _ _ _ _ _)
theorem idp4S : ∀ p d a b c, Statement (.idp4S p d a b c) :=
  fun _ _ _ _ _ => of_thread (enRRRR_op 0x04E _ _ _ _ _) (by decide) rfl rfl (deRRRR_enRRRR .idp4S 0x04E _ _ _ _ _)
theorem idp4N : ∀ p d a b c, Statement (.idp4N p d a b c) :=
  fun _ _ _ _ _ => of_thread (enRRRR_op 0x04F _ _ _ _ _) (by decide) rfl rfl (deRRRR_enRRRR .idp4N 0x04F _ _ _ _ _)
theorem padd16 : ∀ p d a b m, Statement (.padd16 p d a b m) :=
  fun _ _ _ _ _ => of_thread (enPadd_op 0x050 _ _ _ _ _) (by decide) rfl rfl (dePadd_enPadd .padd16 0x050 _ _ _ _ _)
theorem padd8 : ∀ p d a b m, Statement (.padd8 p d a b m) :=
  fun _ _ _ _ _ => of_thread (enPadd_op 0x051 _ _ _ _ _) (by decide) rfl rfl (dePadd_enPadd .padd8 0x051 _ _ _ _ _)
theorem psub16 : ∀ p d a b m, Statement (.psub16 p d a b m) :=
  fun _ _ _ _ _ => of_thread (enPadd_op 0x052 _ _ _ _ _) (by decide) rfl rfl (dePadd_enPadd .psub16 0x052 _ _ _ _ _)
theorem psub8 : ∀ p d a b m, Statement (.psub8 p d a b m) :=
  fun _ _ _ _ _ => of_thread (enPadd_op 0x053 _ _ _ _ _) (by decide) rfl rfl (dePadd_enPadd .psub8 0x053 _ _ _ _ _)
theorem pmaxS16 : ∀ p d a b, Statement (.pmaxS16 p d a b) :=
  fun _ _ _ _ => of_thread (enRRI_op 0x054 _ _ _ _) (by decide) rfl rfl (deRRI_enRRI .pmaxS16 0x054 _ _ _ _)
theorem pmaxN16 : ∀ p d a b, Statement (.pmaxN16 p d a b) :=
  fun _ _ _ _ => of_thread (enRRI_op 0x055 _ _ _ _) (by decide) rfl rfl (deRRI_enRRI .pmaxN16 0x055 _ _ _ _)
theorem pminS16 : ∀ p d a b, Statement (.pminS16 p d a b) :=
  fun _ _ _ _ => of_thread (enRRI_op 0x056 _ _ _ _) (by decide) rfl rfl (deRRI_enRRI .pminS16 0x056 _ _ _ _)
theorem pminN16 : ∀ p d a b, Statement (.pminN16 p d a b) :=
  fun _ _ _ _ => of_thread (enRRI_op 0x057 _ _ _ _) (by decide) rfl rfl (deRRI_enRRI .pminN16 0x057 _ _ _ _)
theorem pcmp16 : ∀ p d a b cmp uns, Statement (.pcmp16 p d a b cmp uns) :=
  fun _ _ _ _ _ _ => of_thread (enPcmp_op 0x058 _ _ _ _ _ _) (by decide) rfl rfl (dePcmp_enPcmp .pcmp16 0x058 _ _ _ _ _ _)
theorem pcmp8 : ∀ p d a b cmp uns, Statement (.pcmp8 p d a b cmp uns) :=
  fun _ _ _ _ _ _ => of_thread (enPcmp_op 0x059 _ _ _ _ _ _) (by decide) rfl rfl (dePcmp_enPcmp .pcmp8 0x059 _ _ _ _ _ _)
theorem psel : ∀ p d a b c, Statement (.psel p d a b c) :=
  fun _ _ _ _ _ => of_thread (enRRRR_op 0x05A _ _ _ _ _) (by decide) rfl rfl (deRRRR_enRRRR .psel 0x05A _ _ _ _ _)
theorem pacs : ∀ p d a b c e m pd, Statement (.pacs p d a b c e m pd) :=
  fun _ _ _ _ _ _ _ _ => of_thread (enPacs_op 0x05B _ _ _ _ _ _ _ _) (by decide) rfl rfl (dePacs_enPacs .pacs 0x05B _ _ _ _ _ _ _ _)
theorem perm : ∀ p d a b c, Statement (.perm p d a b c) :=
  fun _ _ _ _ _ => of_thread (enRRRI_op 0x05C _ _ _ _ _) (by decide) rfl rfl (deRRRI_enRRRI .perm 0x05C _ _ _ _ _)
theorem mov : ∀ p d a w64, Statement (.mov p d a w64) :=
  fun _ _ _ _ => of_thread (enMov_op 0x05D _ _ _ _) (by decide) rfl rfl (deMov_enMov .mov 0x05D _ _ _ _)
theorem movi : ∀ p d w64 imm, Statement (.movi p d w64 imm) :=
  fun _ _ _ _ => of_thread (enMovi_op 0x05E _ _ _ _) (by decide) rfl rfl (deMovi_enMovi .movi 0x05E _ _ _ _)
theorem lea : ∀ p d a pcrel imm, Statement (.lea p d a pcrel imm) :=
  fun _ _ _ _ _ => of_thread (enLea_op 0x05F _ _ _ _ _) (by decide) rfl rfl (deLea_enLea .lea 0x05F _ _ _ _ _)
theorem plog : ∀ p pd pa na pb nb op, Statement (.plog p pd pa na pb nb op) :=
  fun _ _ _ _ _ _ _ => of_thread (enPlog_op 0x060 _ _ _ _ _ _ _) (by decide) rfl rfl (dePlog_enPlog .plog 0x060 _ _ _ _ _ _ _)
theorem pget : ∀ p d, Statement (.pget p d) :=
  fun _ _ => of_thread (enD_op 0x061 _ _) (by decide) rfl rfl (deD_enD .pget 0x061 _ _)
theorem pput : ∀ p a mask, Statement (.pput p a mask) :=
  fun _ _ _ => of_thread (enPput_op 0x062 _ _ _) (by decide) rfl rfl (dePput_enPput .pput 0x062 _ _ _)
theorem shl64 : ∀ p d a b, Statement (.shl64 p d a b) :=
  fun _ _ _ _ => of_thread (enRRI_op 0x063 _ _ _ _) (by decide) rfl rfl (deRRI_enRRI .shl64 0x063 _ _ _ _)
theorem shr64 : ∀ p d a b, Statement (.shr64 p d a b) :=
  fun _ _ _ _ => of_thread (enRRI_op 0x064 _ _ _ _) (by decide) rfl rfl (deRRI_enRRI .shr64 0x064 _ _ _ _)
theorem sar64 : ∀ p d a b, Statement (.sar64 p d a b) :=
  fun _ _ _ _ => of_thread (enRRI_op 0x065 _ _ _ _) (by decide) rfl rfl (deRRI_enRRI .sar64 0x065 _ _ _ _)
theorem faddF64 : ∀ p d a b rm, Statement (.faddF64 p d a b rm) :=
  fun _ _ _ _ _ => of_thread (enFRR_op 0x080 _ _ _ _ _) (by decide) rfl rfl (deFRR_enFRR .faddF64 0x080 _ _ _ _ _)
theorem faddF32 : ∀ p d a b rm ftz, Statement (.faddF32 p d a b rm ftz) :=
  fun _ _ _ _ _ _ => of_thread (enFRRz_op 0x081 _ _ _ _ _ _) (by decide) rfl rfl (deFRRz_enFRRz .faddF32 0x081 _ _ _ _ _ _)
theorem faddF16x2 : ∀ p d a b rm ftz, Statement (.faddF16x2 p d a b rm ftz) :=
  fun _ _ _ _ _ _ => of_thread (enFRRz_op 0x082 _ _ _ _ _ _) (by decide) rfl rfl (deFRRz_enFRRz .faddF16x2 0x082 _ _ _ _ _ _)
theorem faddBf16x2 : ∀ p d a b rm, Statement (.faddBf16x2 p d a b rm) :=
  fun _ _ _ _ _ => of_thread (enFRR_op 0x083 _ _ _ _ _) (by decide) rfl rfl (deFRR_enFRR .faddBf16x2 0x083 _ _ _ _ _)
theorem fsubF64 : ∀ p d a b rm, Statement (.fsubF64 p d a b rm) :=
  fun _ _ _ _ _ => of_thread (enFRR_op 0x084 _ _ _ _ _) (by decide) rfl rfl (deFRR_enFRR .fsubF64 0x084 _ _ _ _ _)
theorem fsubF32 : ∀ p d a b rm ftz, Statement (.fsubF32 p d a b rm ftz) :=
  fun _ _ _ _ _ _ => of_thread (enFRRz_op 0x085 _ _ _ _ _ _) (by decide) rfl rfl (deFRRz_enFRRz .fsubF32 0x085 _ _ _ _ _ _)
theorem fsubF16x2 : ∀ p d a b rm ftz, Statement (.fsubF16x2 p d a b rm ftz) :=
  fun _ _ _ _ _ _ => of_thread (enFRRz_op 0x086 _ _ _ _ _ _) (by decide) rfl rfl (deFRRz_enFRRz .fsubF16x2 0x086 _ _ _ _ _ _)
theorem fsubBf16x2 : ∀ p d a b rm, Statement (.fsubBf16x2 p d a b rm) :=
  fun _ _ _ _ _ => of_thread (enFRR_op 0x087 _ _ _ _ _) (by decide) rfl rfl (deFRR_enFRR .fsubBf16x2 0x087 _ _ _ _ _)
theorem fmulF64 : ∀ p d a b rm, Statement (.fmulF64 p d a b rm) :=
  fun _ _ _ _ _ => of_thread (enFRR_op 0x088 _ _ _ _ _) (by decide) rfl rfl (deFRR_enFRR .fmulF64 0x088 _ _ _ _ _)
theorem fmulF32 : ∀ p d a b rm ftz, Statement (.fmulF32 p d a b rm ftz) :=
  fun _ _ _ _ _ _ => of_thread (enFRRz_op 0x089 _ _ _ _ _ _) (by decide) rfl rfl (deFRRz_enFRRz .fmulF32 0x089 _ _ _ _ _ _)
theorem fmulF16x2 : ∀ p d a b rm ftz, Statement (.fmulF16x2 p d a b rm ftz) :=
  fun _ _ _ _ _ _ => of_thread (enFRRz_op 0x08A _ _ _ _ _ _) (by decide) rfl rfl (deFRRz_enFRRz .fmulF16x2 0x08A _ _ _ _ _ _)
theorem fmulBf16x2 : ∀ p d a b rm, Statement (.fmulBf16x2 p d a b rm) :=
  fun _ _ _ _ _ => of_thread (enFRR_op 0x08B _ _ _ _ _) (by decide) rfl rfl (deFRR_enFRR .fmulBf16x2 0x08B _ _ _ _ _)
theorem ffmaF64 : ∀ p d a b c rm, Statement (.ffmaF64 p d a b c rm) :=
  fun _ _ _ _ _ _ => of_thread (enFRRR_op 0x08C _ _ _ _ _ _) (by decide) rfl rfl (deFRRR_enFRRR .ffmaF64 0x08C _ _ _ _ _ _)
theorem ffmaF32 : ∀ p d a b c rm ftz, Statement (.ffmaF32 p d a b c rm ftz) :=
  fun _ _ _ _ _ _ _ => of_thread (enFRRRz_op 0x08D _ _ _ _ _ _ _) (by decide) rfl rfl (deFRRRz_enFRRRz .ffmaF32 0x08D _ _ _ _ _ _ _)
theorem ffmaF16x2 : ∀ p d a b c rm ftz, Statement (.ffmaF16x2 p d a b c rm ftz) :=
  fun _ _ _ _ _ _ _ => of_thread (enFRRRz_op 0x08E _ _ _ _ _ _ _) (by decide) rfl rfl (deFRRRz_enFRRRz .ffmaF16x2 0x08E _ _ _ _ _ _ _)
theorem ffmaBf16x2 : ∀ p d a b c rm, Statement (.ffmaBf16x2 p d a b c rm) :=
  fun _ _ _ _ _ _ => of_thread (enFRRR_op 0x08F _ _ _ _ _ _) (by decide) rfl rfl (deFRRR_enFRRR .ffmaBf16x2 0x08F _ _ _ _ _ _)
theorem fminF64 : ∀ p d a b, Statement (.fminF64 p d a b) :=
  fun _ _ _ _ => of_thread (enMM_op 0x090 _ _ _ _) (by decide) rfl rfl (deMM_enMM .fminF64 0x090 _ _ _ _)
theorem fminF32 : ∀ p d a b ftz, Statement (.fminF32 p d a b ftz) :=
  fun _ _ _ _ _ => of_thread (enMMz_op 0x091 _ _ _ _ _) (by decide) rfl rfl (deMMz_enMMz .fminF32 0x091 _ _ _ _ _)
theorem fminF16x2 : ∀ p d a b ftz, Statement (.fminF16x2 p d a b ftz) :=
  fun _ _ _ _ _ => of_thread (enMMz_op 0x092 _ _ _ _ _) (by decide) rfl rfl (deMMz_enMMz .fminF16x2 0x092 _ _ _ _ _)
theorem fminBf16x2 : ∀ p d a b, Statement (.fminBf16x2 p d a b) :=
  fun _ _ _ _ => of_thread (enMM_op 0x093 _ _ _ _) (by decide) rfl rfl (deMM_enMM .fminBf16x2 0x093 _ _ _ _)
theorem fmaxF64 : ∀ p d a b, Statement (.fmaxF64 p d a b) :=
  fun _ _ _ _ => of_thread (enMM_op 0x094 _ _ _ _) (by decide) rfl rfl (deMM_enMM .fmaxF64 0x094 _ _ _ _)
theorem fmaxF32 : ∀ p d a b ftz, Statement (.fmaxF32 p d a b ftz) :=
  fun _ _ _ _ _ => of_thread (enMMz_op 0x095 _ _ _ _ _) (by decide) rfl rfl (deMMz_enMMz .fmaxF32 0x095 _ _ _ _ _)
theorem fmaxF16x2 : ∀ p d a b ftz, Statement (.fmaxF16x2 p d a b ftz) :=
  fun _ _ _ _ _ => of_thread (enMMz_op 0x096 _ _ _ _ _) (by decide) rfl rfl (deMMz_enMMz .fmaxF16x2 0x096 _ _ _ _ _)
theorem fmaxBf16x2 : ∀ p d a b, Statement (.fmaxBf16x2 p d a b) :=
  fun _ _ _ _ => of_thread (enMM_op 0x097 _ _ _ _) (by decide) rfl rfl (deMM_enMM .fmaxBf16x2 0x097 _ _ _ _)
theorem fcmpF64 : ∀ p cmp pd a b sig, Statement (.fcmpF64 p cmp pd a b sig) :=
  fun _ _ _ _ _ _ => of_thread (enFC_op 0x098 _ _ _ _ _ _) (by decide) rfl rfl (deFC_enFC .fcmpF64 0x098 _ _ _ _ _ _)
theorem fcmpF32 : ∀ p cmp pd a b sig ftz, Statement (.fcmpF32 p cmp pd a b sig ftz) :=
  fun _ _ _ _ _ _ _ => of_thread (enFCz_op 0x099 _ _ _ _ _ _ _) (by decide) rfl rfl (deFCz_enFCz .fcmpF32 0x099 _ _ _ _ _ _ _)
theorem fcmpF16x2 : ∀ p cmp pd a b sig ftz, Statement (.fcmpF16x2 p cmp pd a b sig ftz) :=
  fun _ _ _ _ _ _ _ => of_thread (enFCz_op 0x09A _ _ _ _ _ _ _) (by decide) rfl rfl (deFCz_enFCz .fcmpF16x2 0x09A _ _ _ _ _ _ _)
theorem fcmpBf16x2 : ∀ p cmp pd a b sig, Statement (.fcmpBf16x2 p cmp pd a b sig) :=
  fun _ _ _ _ _ _ => of_thread (enFC_op 0x09B _ _ _ _ _ _) (by decide) rfl rfl (deFC_enFC .fcmpBf16x2 0x09B _ _ _ _ _ _)
theorem fdivF64 : ∀ p d a b rm, Statement (.fdivF64 p d a b rm) :=
  fun _ _ _ _ _ => of_thread (enFRR_op 0x09C _ _ _ _ _) (by decide) rfl rfl (deFRR_enFRR .fdivF64 0x09C _ _ _ _ _)
theorem fdivF32 : ∀ p d a b rm ftz, Statement (.fdivF32 p d a b rm ftz) :=
  fun _ _ _ _ _ _ => of_thread (enFRRz_op 0x09D _ _ _ _ _ _) (by decide) rfl rfl (deFRRz_enFRRz .fdivF32 0x09D _ _ _ _ _ _)
theorem fsqrtF64 : ∀ p d a rm, Statement (.fsqrtF64 p d a rm) :=
  fun _ _ _ _ => of_thread (enFU_op 0x09E _ _ _ _) (by decide) rfl rfl (deFU_enFU .fsqrtF64 0x09E _ _ _ _)
theorem fsqrtF32 : ∀ p d a rm ftz, Statement (.fsqrtF32 p d a rm ftz) :=
  fun _ _ _ _ _ => of_thread (enFUz_op 0x09F _ _ _ _ _) (by decide) rfl rfl (deFUz_enFUz .fsqrtF32 0x09F _ _ _ _ _)
theorem frcpF64 : ∀ p d a rm, Statement (.frcpF64 p d a rm) :=
  fun _ _ _ _ => of_thread (enFU_op 0x0A0 _ _ _ _) (by decide) rfl rfl (deFU_enFU .frcpF64 0x0A0 _ _ _ _)
theorem frcpF32 : ∀ p d a rm ftz, Statement (.frcpF32 p d a rm ftz) :=
  fun _ _ _ _ _ => of_thread (enFUz_op 0x0A1 _ _ _ _ _) (by decide) rfl rfl (deFUz_enFUz .frcpF32 0x0A1 _ _ _ _ _)
theorem frsqF64 : ∀ p d a rm, Statement (.frsqF64 p d a rm) :=
  fun _ _ _ _ => of_thread (enFU_op 0x0A2 _ _ _ _) (by decide) rfl rfl (deFU_enFU .frsqF64 0x0A2 _ _ _ _)
theorem frsqF32 : ∀ p d a rm ftz, Statement (.frsqF32 p d a rm ftz) :=
  fun _ _ _ _ _ => of_thread (enFUz_op 0x0A3 _ _ _ _ _) (by decide) rfl rfl (deFUz_enFUz .frsqF32 0x0A3 _ _ _ _ _)
theorem fexp2F32 : ∀ p d a rm ftz, Statement (.fexp2F32 p d a rm ftz) :=
  fun _ _ _ _ _ => of_thread (enFUz_op 0x0A4 _ _ _ _ _) (by decide) rfl rfl (deFUz_enFUz .fexp2F32 0x0A4 _ _ _ _ _)
theorem flog2F32 : ∀ p d a rm ftz, Statement (.flog2F32 p d a rm ftz) :=
  fun _ _ _ _ _ => of_thread (enFUz_op 0x0A5 _ _ _ _ _) (by decide) rfl rfl (deFUz_enFUz .flog2F32 0x0A5 _ _ _ _ _)
theorem fsinF32 : ∀ p d a rm ftz, Statement (.fsinF32 p d a rm ftz) :=
  fun _ _ _ _ _ => of_thread (enFUz_op 0x0A6 _ _ _ _ _) (by decide) rfl rfl (deFUz_enFUz .fsinF32 0x0A6 _ _ _ _ _)
theorem fcosF32 : ∀ p d a rm ftz, Statement (.fcosF32 p d a rm ftz) :=
  fun _ _ _ _ _ => of_thread (enFUz_op 0x0A7 _ _ _ _ _) (by decide) rfl rfl (deFUz_enFUz .fcosF32 0x0A7 _ _ _ _ _)
theorem ftanhF32 : ∀ p d a rm ftz, Statement (.ftanhF32 p d a rm ftz) :=
  fun _ _ _ _ _ => of_thread (enFUz_op 0x0A8 _ _ _ _ _) (by decide) rfl rfl (deFUz_enFUz .ftanhF32 0x0A8 _ _ _ _ _)
theorem fexp2F64 : ∀ p d a rm, Statement (.fexp2F64 p d a rm) :=
  fun _ _ _ _ => of_thread (enFU_op 0x0A9 _ _ _ _) (by decide) rfl rfl (deFU_enFU .fexp2F64 0x0A9 _ _ _ _)
theorem flog2F64 : ∀ p d a rm, Statement (.flog2F64 p d a rm) :=
  fun _ _ _ _ => of_thread (enFU_op 0x0AA _ _ _ _) (by decide) rfl rfl (deFU_enFU .flog2F64 0x0AA _ _ _ _)
theorem fsinF64 : ∀ p d a rm, Statement (.fsinF64 p d a rm) :=
  fun _ _ _ _ => of_thread (enFU_op 0x0AB _ _ _ _) (by decide) rfl rfl (deFU_enFU .fsinF64 0x0AB _ _ _ _)
theorem fcosF64 : ∀ p d a rm, Statement (.fcosF64 p d a rm) :=
  fun _ _ _ _ => of_thread (enFU_op 0x0AC _ _ _ _) (by decide) rfl rfl (deFU_enFU .fcosF64 0x0AC _ _ _ _)
theorem fscaleF64 : ∀ p d a b rm, Statement (.fscaleF64 p d a b rm) :=
  fun _ _ _ _ _ => of_thread (enFRR_op 0x0AD _ _ _ _ _) (by decide) rfl rfl (deFRR_enFRR .fscaleF64 0x0AD _ _ _ _ _)
theorem fscaleF32 : ∀ p d a b rm ftz, Statement (.fscaleF32 p d a b rm ftz) :=
  fun _ _ _ _ _ _ => of_thread (enFRRz_op 0x0AE _ _ _ _ _ _) (by decide) rfl rfl (deFRRz_enFRRz .fscaleF32 0x0AE _ _ _ _ _ _)
theorem frndF64 : ∀ p d a rm, Statement (.frndF64 p d a rm) :=
  fun _ _ _ _ => of_thread (enFU_op 0x0AF _ _ _ _) (by decide) rfl rfl (deFU_enFU .frndF64 0x0AF _ _ _ _)
theorem frndF32 : ∀ p d a rm ftz, Statement (.frndF32 p d a rm ftz) :=
  fun _ _ _ _ _ => of_thread (enFUz_op 0x0B0 _ _ _ _ _) (by decide) rfl rfl (deFUz_enFUz .frndF32 0x0B0 _ _ _ _ _)
theorem fclassF64 : ∀ p d a, Statement (.fclassF64 p d a) :=
  fun _ _ _ => of_thread (enRR_op 0x0B1 _ _ _) (by decide) rfl rfl (deRR_enRR .fclassF64 0x0B1 _ _ _)
theorem fclassF32 : ∀ p d a, Statement (.fclassF32 p d a) :=
  fun _ _ _ => of_thread (enRR_op 0x0B2 _ _ _) (by decide) rfl rfl (deRR_enRR .fclassF32 0x0B2 _ _ _)
theorem fcvtF64F32 : ∀ p d a rm, Statement (.fcvtF64F32 p d a rm) :=
  fun _ _ _ _ => of_thread (enFU_op 0x0B3 _ _ _ _) (by decide) rfl rfl (deFU_enFU .fcvtF64F32 0x0B3 _ _ _ _)
theorem fcvtF32F64 : ∀ p d a rm, Statement (.fcvtF32F64 p d a rm) :=
  fun _ _ _ _ => of_thread (enFU_op 0x0B4 _ _ _ _) (by decide) rfl rfl (deFU_enFU .fcvtF32F64 0x0B4 _ _ _ _)
theorem fcvtF16x2F32 : ∀ p d a b rm ftz, Statement (.fcvtF16x2F32 p d a b rm ftz) :=
  fun _ _ _ _ _ _ => of_thread (enFRRz_op 0x0B5 _ _ _ _ _ _) (by decide) rfl rfl (deFRRz_enFRRz .fcvtF16x2F32 0x0B5 _ _ _ _ _ _)
theorem fcvtBf16x2F32 : ∀ p d a b rm, Statement (.fcvtBf16x2F32 p d a b rm) :=
  fun _ _ _ _ _ => of_thread (enFRR_op 0x0B6 _ _ _ _ _) (by decide) rfl rfl (deFRR_enFRR .fcvtBf16x2F32 0x0B6 _ _ _ _ _)
theorem fcvtF32F16x2 : ∀ p d a rm ftz, Statement (.fcvtF32F16x2 p d a rm ftz) :=
  fun _ _ _ _ _ => of_thread (enFUz_op 0x0B7 _ _ _ _ _) (by decide) rfl rfl (deFUz_enFUz .fcvtF32F16x2 0x0B7 _ _ _ _ _)
theorem fcvtF32Bf16x2 : ∀ p d a rm, Statement (.fcvtF32Bf16x2 p d a rm) :=
  fun _ _ _ _ => of_thread (enFU_op 0x0B8 _ _ _ _) (by decide) rfl rfl (deFU_enFU .fcvtF32Bf16x2 0x0B8 _ _ _ _)
theorem fcvtF32S32 : ∀ p d a rm ftz, Statement (.fcvtF32S32 p d a rm ftz) :=
  fun _ _ _ _ _ => of_thread (enFUz_op 0x0B9 _ _ _ _ _) (by decide) rfl rfl (deFUz_enFUz .fcvtF32S32 0x0B9 _ _ _ _ _)
theorem fcvtF32N32 : ∀ p d a rm ftz, Statement (.fcvtF32N32 p d a rm ftz) :=
  fun _ _ _ _ _ => of_thread (enFUz_op 0x0BA _ _ _ _ _) (by decide) rfl rfl (deFUz_enFUz .fcvtF32N32 0x0BA _ _ _ _ _)
theorem fcvtF64S64 : ∀ p d a rm, Statement (.fcvtF64S64 p d a rm) :=
  fun _ _ _ _ => of_thread (enFU_op 0x0BB _ _ _ _) (by decide) rfl rfl (deFU_enFU .fcvtF64S64 0x0BB _ _ _ _)
theorem fcvtF64S32 : ∀ p d a rm, Statement (.fcvtF64S32 p d a rm) :=
  fun _ _ _ _ => of_thread (enFU_op 0x0BC _ _ _ _) (by decide) rfl rfl (deFU_enFU .fcvtF64S32 0x0BC _ _ _ _)
theorem fcvtS32F32 : ∀ p d a rm ftz, Statement (.fcvtS32F32 p d a rm ftz) :=
  fun _ _ _ _ _ => of_thread (enFUz_op 0x0BD _ _ _ _ _) (by decide) rfl rfl (deFUz_enFUz .fcvtS32F32 0x0BD _ _ _ _ _)
theorem fcvtN32F32 : ∀ p d a rm ftz, Statement (.fcvtN32F32 p d a rm ftz) :=
  fun _ _ _ _ _ => of_thread (enFUz_op 0x0BE _ _ _ _ _) (by decide) rfl rfl (deFUz_enFUz .fcvtN32F32 0x0BE _ _ _ _ _)
theorem fcvtS64F64 : ∀ p d a rm, Statement (.fcvtS64F64 p d a rm) :=
  fun _ _ _ _ => of_thread (enFU_op 0x0BF _ _ _ _) (by decide) rfl rfl (deFU_enFU .fcvtS64F64 0x0BF _ _ _ _)
theorem fcvtS32F64 : ∀ p d a rm, Statement (.fcvtS32F64 p d a rm) :=
  fun _ _ _ _ => of_thread (enFU_op 0x0C0 _ _ _ _) (by decide) rfl rfl (deFU_enFU .fcvtS32F64 0x0C0 _ _ _ _)
theorem mxdqE4m3 : ∀ p d a b j s rm ftz, Statement (.mxdqE4m3 p d a b j s rm ftz) :=
  fun _ _ _ _ _ _ _ _ => of_thread (enMxdq_op 0x0C1 _ _ _ _ _ _ _ _) (by decide) rfl rfl (deMxdq_enMxdq .mxdqE4m3 0x0C1 _ _ _ _ _ _ _ _)
theorem mxdqE5m2 : ∀ p d a b j s rm ftz, Statement (.mxdqE5m2 p d a b j s rm ftz) :=
  fun _ _ _ _ _ _ _ _ => of_thread (enMxdq_op 0x0C2 _ _ _ _ _ _ _ _) (by decide) rfl rfl (deMxdq_enMxdq .mxdqE5m2 0x0C2 _ _ _ _ _ _ _ _)
theorem mxdqE2m3 : ∀ p d a b j s rm ftz, Statement (.mxdqE2m3 p d a b j s rm ftz) :=
  fun _ _ _ _ _ _ _ _ => of_thread (enMxdq_op 0x0C3 _ _ _ _ _ _ _ _) (by decide) rfl rfl (deMxdq_enMxdq .mxdqE2m3 0x0C3 _ _ _ _ _ _ _ _)
theorem mxdqE3m2 : ∀ p d a b j s rm ftz, Statement (.mxdqE3m2 p d a b j s rm ftz) :=
  fun _ _ _ _ _ _ _ _ => of_thread (enMxdq_op 0x0C4 _ _ _ _ _ _ _ _) (by decide) rfl rfl (deMxdq_enMxdq .mxdqE3m2 0x0C4 _ _ _ _ _ _ _ _)
theorem mxdqE2m1 : ∀ p d a b j s rm ftz, Statement (.mxdqE2m1 p d a b j s rm ftz) :=
  fun _ _ _ _ _ _ _ _ => of_thread (enMxdq_op 0x0C5 _ _ _ _ _ _ _ _) (by decide) rfl rfl (deMxdq_enMxdq .mxdqE2m1 0x0C5 _ _ _ _ _ _ _ _)
theorem mxqE4m3 : ∀ p d a cw, Statement (.mxqE4m3 p d a cw) :=
  fun _ _ _ _ => of_thread (enMxq_op 0x0C6 _ _ _ _) (by decide) rfl rfl (deMxq_enMxq .mxqE4m3 0x0C6 _ _ _ _)
theorem mxqE2m1 : ∀ p d a cw, Statement (.mxqE2m1 p d a cw) :=
  fun _ _ _ _ => of_thread (enMxq_op 0x0C7 _ _ _ _) (by decide) rfl rfl (deMxq_enMxq .mxqE2m1 0x0C7 _ _ _ _)
theorem shflIdx : ∀ p d a b lg cw pd, Statement (.shflIdx p d a b lg cw pd) :=
  fun _ _ _ _ _ _ _ => of_thread (enShfl_op 0x0D0 _ _ _ _ _ _ _) (by decide) rfl rfl (deShfl_enShfl .shflIdx 0x0D0 _ _ _ _ _ _ _)
theorem shflUp : ∀ p d a b lg cw pd, Statement (.shflUp p d a b lg cw pd) :=
  fun _ _ _ _ _ _ _ => of_thread (enShfl_op 0x0D1 _ _ _ _ _ _ _) (by decide) rfl rfl (deShfl_enShfl .shflUp 0x0D1 _ _ _ _ _ _ _)
theorem shflDown : ∀ p d a b lg cw pd, Statement (.shflDown p d a b lg cw pd) :=
  fun _ _ _ _ _ _ _ => of_thread (enShfl_op 0x0D2 _ _ _ _ _ _ _) (by decide) rfl rfl (deShfl_enShfl .shflDown 0x0D2 _ _ _ _ _ _ _)
theorem shflXor : ∀ p d a b lg cw pd, Statement (.shflXor p d a b lg cw pd) :=
  fun _ _ _ _ _ _ _ => of_thread (enShfl_op 0x0D3 _ _ _ _ _ _ _) (by decide) rfl rfl (deShfl_enShfl .shflXor 0x0D3 _ _ _ _ _ _ _)
theorem vote : ∀ p m d pd pa na cw, Statement (.vote p m d pd pa na cw) :=
  fun _ _ _ _ _ _ _ => of_thread (enVote_op 0x0D4 _ _ _ _ _ _ _) (by decide) rfl rfl (deVote_enVote .vote 0x0D4 _ _ _ _ _ _ _)
theorem reduxI : ∀ p d a op cw, Statement (.reduxI p d a op cw) :=
  fun _ _ _ _ _ => of_thread (enRedI_op 0x0D5 _ _ _ _ _) (by decide) rfl rfl (deRedI_enRedI .reduxI 0x0D5 _ _ _ _ _)
theorem reduxF32 : ∀ p d a op rm ftz cw, Statement (.reduxF32 p d a op rm ftz cw) :=
  fun _ _ _ _ _ _ _ => of_thread (enRedF_op 0x0D6 _ _ _ _ _ _ _) (by decide) rfl rfl (deRedF_enRedF .reduxF32 0x0D6 _ _ _ _ _ _ _)
theorem scanI : ∀ p d a op exc cw, Statement (.scanI p d a op exc cw) :=
  fun _ _ _ _ _ _ => of_thread (enScanI_op 0x0D7 _ _ _ _ _ _) (by decide) rfl rfl (deScanI_enScanI .scanI 0x0D7 _ _ _ _ _ _)
theorem scanF32 : ∀ p d a op exc rm ftz cw, Statement (.scanF32 p d a op exc rm ftz cw) :=
  fun _ _ _ _ _ _ _ _ => of_thread (enScanF_op 0x0D8 _ _ _ _ _ _ _ _) (by decide) rfl rfl (deScanF_enScanF .scanF32 0x0D8 _ _ _ _ _ _ _ _)
theorem matchAny : ∀ p d a w64 cw pd, Statement (.matchAny p d a w64 cw pd) :=
  fun _ _ _ _ _ _ => of_thread (enMatch_op 0x0D9 _ _ _ _ _ _) (by decide) rfl rfl (deMatch_enMatch .matchAny 0x0D9 _ _ _ _ _ _)
theorem ldS8 : ∀ p d a off h, Statement (.ldS8 p d a off h) :=
  fun _ _ _ _ _ => of_thread (enLd_op 0x0E0 _ _ _ _ _) (by decide) rfl rfl (deLd_enLd .ldS8 0x0E0 _ _ _ _ _)
theorem ldN8 : ∀ p d a off h, Statement (.ldN8 p d a off h) :=
  fun _ _ _ _ _ => of_thread (enLd_op 0x0E1 _ _ _ _ _) (by decide) rfl rfl (deLd_enLd .ldN8 0x0E1 _ _ _ _ _)
theorem ldS16 : ∀ p d a off h, Statement (.ldS16 p d a off h) :=
  fun _ _ _ _ _ => of_thread (enLd_op 0x0E2 _ _ _ _ _) (by decide) rfl rfl (deLd_enLd .ldS16 0x0E2 _ _ _ _ _)
theorem ldN16 : ∀ p d a off h, Statement (.ldN16 p d a off h) :=
  fun _ _ _ _ _ => of_thread (enLd_op 0x0E3 _ _ _ _ _) (by decide) rfl rfl (deLd_enLd .ldN16 0x0E3 _ _ _ _ _)
theorem ld32 : ∀ p d a off h, Statement (.ld32 p d a off h) :=
  fun _ _ _ _ _ => of_thread (enLd_op 0x0E4 _ _ _ _ _) (by decide) rfl rfl (deLd_enLd .ld32 0x0E4 _ _ _ _ _)
theorem ld64 : ∀ p d a off h, Statement (.ld64 p d a off h) :=
  fun _ _ _ _ _ => of_thread (enLd_op 0x0E5 _ _ _ _ _) (by decide) rfl rfl (deLd_enLd .ld64 0x0E5 _ _ _ _ _)
theorem ld128 : ∀ p d a off h, Statement (.ld128 p d a off h) :=
  fun _ _ _ _ _ => of_thread (enLd_op 0x0E6 _ _ _ _ _) (by decide) rfl rfl (deLd_enLd .ld128 0x0E6 _ _ _ _ _)
theorem st8 : ∀ p a off b h, Statement (.st8 p a off b h) :=
  fun _ _ _ _ _ => of_thread (enSt_op 0x0E7 _ _ _ _ _) (by decide) rfl rfl (deSt_enSt .st8 0x0E7 _ _ _ _ _)
theorem st16 : ∀ p a off b h, Statement (.st16 p a off b h) :=
  fun _ _ _ _ _ => of_thread (enSt_op 0x0E8 _ _ _ _ _) (by decide) rfl rfl (deSt_enSt .st16 0x0E8 _ _ _ _ _)
theorem st32 : ∀ p a off b h, Statement (.st32 p a off b h) :=
  fun _ _ _ _ _ => of_thread (enSt_op 0x0E9 _ _ _ _ _) (by decide) rfl rfl (deSt_enSt .st32 0x0E9 _ _ _ _ _)
theorem st64 : ∀ p a off b h, Statement (.st64 p a off b h) :=
  fun _ _ _ _ _ => of_thread (enSt_op 0x0EA _ _ _ _ _) (by decide) rfl rfl (deSt_enSt .st64 0x0EA _ _ _ _ _)
theorem st128 : ∀ p a off b h, Statement (.st128 p a off b h) :=
  fun _ _ _ _ _ => of_thread (enSt_op 0x0EB _ _ _ _ _) (by decide) rfl rfl (deSt_enSt .st128 0x0EB _ _ _ _ _)
theorem lda32 : ∀ p d a off sem sc, Statement (.lda32 p d a off sem sc) :=
  fun _ _ _ _ _ _ => of_thread (enLda_op 0x0EC _ _ _ _ _ _) (by decide) rfl rfl (deLda_enLda .lda32 0x0EC _ _ _ _ _ _)
theorem lda64 : ∀ p d a off sem sc, Statement (.lda64 p d a off sem sc) :=
  fun _ _ _ _ _ _ => of_thread (enLda_op 0x0ED _ _ _ _ _ _) (by decide) rfl rfl (deLda_enLda .lda64 0x0ED _ _ _ _ _ _)
theorem str32 : ∀ p a off b sem sc, Statement (.str32 p a off b sem sc) :=
  fun _ _ _ _ _ _ => of_thread (enStr_op 0x0EE _ _ _ _ _ _) (by decide) rfl rfl (deStr_enStr .str32 0x0EE _ _ _ _ _ _)
theorem str64 : ∀ p a off b sem sc, Statement (.str64 p a off b sem sc) :=
  fun _ _ _ _ _ _ => of_thread (enStr_op 0x0EF _ _ _ _ _ _) (by decide) rfl rfl (deStr_enStr .str64 0x0EF _ _ _ _ _ _)
theorem atom32Add : ∀ p d a off b sem sc, Statement (.atom32Add p d a off b sem sc) :=
  fun _ _ _ _ _ _ _ => of_thread (enAtom_op 0x0F0 _ _ _ _ _ _ _) (by decide) rfl rfl (deAtom_enAtom .atom32Add 0x0F0 _ _ _ _ _ _ _)
theorem atom32MinS : ∀ p d a off b sem sc, Statement (.atom32MinS p d a off b sem sc) :=
  fun _ _ _ _ _ _ _ => of_thread (enAtom_op 0x0F1 _ _ _ _ _ _ _) (by decide) rfl rfl (deAtom_enAtom .atom32MinS 0x0F1 _ _ _ _ _ _ _)
theorem atom32MinN : ∀ p d a off b sem sc, Statement (.atom32MinN p d a off b sem sc) :=
  fun _ _ _ _ _ _ _ => of_thread (enAtom_op 0x0F2 _ _ _ _ _ _ _) (by decide) rfl rfl (deAtom_enAtom .atom32MinN 0x0F2 _ _ _ _ _ _ _)
theorem atom32MaxS : ∀ p d a off b sem sc, Statement (.atom32MaxS p d a off b sem sc) :=
  fun _ _ _ _ _ _ _ => of_thread (enAtom_op 0x0F3 _ _ _ _ _ _ _) (by decide) rfl rfl (deAtom_enAtom .atom32MaxS 0x0F3 _ _ _ _ _ _ _)
theorem atom32MaxN : ∀ p d a off b sem sc, Statement (.atom32MaxN p d a off b sem sc) :=
  fun _ _ _ _ _ _ _ => of_thread (enAtom_op 0x0F4 _ _ _ _ _ _ _) (by decide) rfl rfl (deAtom_enAtom .atom32MaxN 0x0F4 _ _ _ _ _ _ _)
theorem atom32And : ∀ p d a off b sem sc, Statement (.atom32And p d a off b sem sc) :=
  fun _ _ _ _ _ _ _ => of_thread (enAtom_op 0x0F5 _ _ _ _ _ _ _) (by decide) rfl rfl (deAtom_enAtom .atom32And 0x0F5 _ _ _ _ _ _ _)
theorem atom32Or : ∀ p d a off b sem sc, Statement (.atom32Or p d a off b sem sc) :=
  fun _ _ _ _ _ _ _ => of_thread (enAtom_op 0x0F6 _ _ _ _ _ _ _) (by decide) rfl rfl (deAtom_enAtom .atom32Or 0x0F6 _ _ _ _ _ _ _)
theorem atom32Xor : ∀ p d a off b sem sc, Statement (.atom32Xor p d a off b sem sc) :=
  fun _ _ _ _ _ _ _ => of_thread (enAtom_op 0x0F7 _ _ _ _ _ _ _) (by decide) rfl rfl (deAtom_enAtom .atom32Xor 0x0F7 _ _ _ _ _ _ _)
theorem atom32Exch : ∀ p d a off b sem sc, Statement (.atom32Exch p d a off b sem sc) :=
  fun _ _ _ _ _ _ _ => of_thread (enAtom_op 0x0F8 _ _ _ _ _ _ _) (by decide) rfl rfl (deAtom_enAtom .atom32Exch 0x0F8 _ _ _ _ _ _ _)
theorem atom32Cas : ∀ p d a off b c sem sc, Statement (.atom32Cas p d a off b c sem sc) :=
  fun _ _ _ _ _ _ _ _ => of_thread (enCas_op 0x0F9 _ _ _ _ _ _ _ _) (by decide) rfl rfl (deCas_enCas .atom32Cas 0x0F9 _ _ _ _ _ _ _ _)
theorem atom64Add : ∀ p d a off b sem sc, Statement (.atom64Add p d a off b sem sc) :=
  fun _ _ _ _ _ _ _ => of_thread (enAtom_op 0x0FA _ _ _ _ _ _ _) (by decide) rfl rfl (deAtom_enAtom .atom64Add 0x0FA _ _ _ _ _ _ _)
theorem atom64Exch : ∀ p d a off b sem sc, Statement (.atom64Exch p d a off b sem sc) :=
  fun _ _ _ _ _ _ _ => of_thread (enAtom_op 0x0FB _ _ _ _ _ _ _) (by decide) rfl rfl (deAtom_enAtom .atom64Exch 0x0FB _ _ _ _ _ _ _)
theorem atom64Cas : ∀ p d a off b c sem sc, Statement (.atom64Cas p d a off b c sem sc) :=
  fun _ _ _ _ _ _ _ _ => of_thread (enCas_op 0x0FC _ _ _ _ _ _ _ _) (by decide) rfl rfl (deCas_enCas .atom64Cas 0x0FC _ _ _ _ _ _ _ _)
theorem atom64MaxN : ∀ p d a off b sem sc, Statement (.atom64MaxN p d a off b sem sc) :=
  fun _ _ _ _ _ _ _ => of_thread (enAtom_op 0x0FD _ _ _ _ _ _ _) (by decide) rfl rfl (deAtom_enAtom .atom64MaxN 0x0FD _ _ _ _ _ _ _)
theorem atomF32Add : ∀ p d a off b rm sem sc, Statement (.atomF32Add p d a off b rm sem sc) :=
  fun _ _ _ _ _ _ _ _ => of_thread (enAtomF_op 0x0FE _ _ _ _ _ _ _ _) (by decide) rfl rfl (deAtomF_enAtomF .atomF32Add 0x0FE _ _ _ _ _ _ _ _)
theorem atomF64Add : ∀ p d a off b rm sem sc, Statement (.atomF64Add p d a off b rm sem sc) :=
  fun _ _ _ _ _ _ _ _ => of_thread (enAtomF_op 0x0FF _ _ _ _ _ _ _ _) (by decide) rfl rfl (deAtomF_enAtomF .atomF64Add 0x0FF _ _ _ _ _ _ _ _)
theorem atomBf16x2Add : ∀ p d a off b rm sem sc, Statement (.atomBf16x2Add p d a off b rm sem sc) :=
  fun _ _ _ _ _ _ _ _ => of_thread (enAtomF_op 0x100 _ _ _ _ _ _ _ _) (by decide) rfl rfl (deAtomF_enAtomF .atomBf16x2Add 0x100 _ _ _ _ _ _ _ _)
theorem red32 : ∀ p a off b op sem sc, Statement (.red32 p a off b op sem sc) :=
  fun _ _ _ _ _ _ _ => of_thread (enRed_op 0x101 _ _ _ _ _ _ _) (by decide) rfl rfl (deRed_enRed .red32 0x101 _ _ _ _ _ _ _)
theorem redF32Add : ∀ p a off b rm sem sc, Statement (.redF32Add p a off b rm sem sc) :=
  fun _ _ _ _ _ _ _ => of_thread (enRedA_op 0x102 _ _ _ _ _ _ _) (by decide) rfl rfl (deRedA_enRedA .redF32Add 0x102 _ _ _ _ _ _ _)
theorem fence : ∀ p sem sc, Statement (.fence p sem sc) :=
  fun _ _ _ => of_thread (enFence_op 0x103 _ _ _) (by decide) rfl rfl (deFence_enFence .fence 0x103 _ _ _)
theorem pref : ∀ p a off h, Statement (.pref p a off h) :=
  fun _ _ _ _ => of_thread (enAH_op 0x104 _ _ _ _) (by decide) rfl rfl (deAH_enAH .pref 0x104 _ _ _ _)
theorem cctl : ∀ p op lvl2 a off, Statement (.cctl p op lvl2 a off) :=
  fun _ _ _ _ _ => of_thread (enCctl_op 0x105 _ _ _ _ _) (by decide) rfl rfl (deCctl_enCctl .cctl 0x105 _ _ _ _ _)
theorem ldl32 : ∀ p d idx a off h, Statement (.ldl32 p d idx a off h) :=
  fun _ _ _ _ _ _ => of_thread (enLdl_op 0x106 _ _ _ _ _ _) (by decide) rfl rfl (deLdl_enLdl .ldl32 0x106 _ _ _ _ _ _)
theorem ldl64 : ∀ p d idx a off h, Statement (.ldl64 p d idx a off h) :=
  fun _ _ _ _ _ _ => of_thread (enLdl_op 0x107 _ _ _ _ _ _) (by decide) rfl rfl (deLdl_enLdl .ldl64 0x107 _ _ _ _ _ _)
theorem ldl128 : ∀ p d idx a off h, Statement (.ldl128 p d idx a off h) :=
  fun _ _ _ _ _ _ => of_thread (enLdl_op 0x108 _ _ _ _ _ _) (by decide) rfl rfl (deLdl_enLdl .ldl128 0x108 _ _ _ _ _ _)
theorem stl32 : ∀ p idx a off b h, Statement (.stl32 p idx a off b h) :=
  fun _ _ _ _ _ _ => of_thread (enStl_op 0x109 _ _ _ _ _ _) (by decide) rfl rfl (deStl_enStl .stl32 0x109 _ _ _ _ _ _)
theorem stl64 : ∀ p idx a off b h, Statement (.stl64 p idx a off b h) :=
  fun _ _ _ _ _ _ => of_thread (enStl_op 0x10A _ _ _ _ _ _) (by decide) rfl rfl (deStl_enStl .stl64 0x10A _ _ _ _ _ _)
theorem stl128 : ∀ p idx a off b h, Statement (.stl128 p idx a off b h) :=
  fun _ _ _ _ _ _ => of_thread (enStl_op 0x10B _ _ _ _ _ _) (by decide) rfl rfl (deStl_enStl .stl128 0x10B _ _ _ _ _ _)
theorem atomCas128 : ∀ p d a off b c sem sc, Statement (.atomCas128 p d a off b c sem sc) :=
  fun _ _ _ _ _ _ _ _ => of_thread (enCas_op 0x10C _ _ _ _ _ _ _ _) (by decide) rfl rfl (deCas_enCas .atomCas128 0x10C _ _ _ _ _ _ _ _)
theorem ldnf : ∀ p d w a off pd h, Statement (.ldnf p d w a off pd h) :=
  fun _ _ _ _ _ _ _ => of_thread (enLdnf_op 0x10D _ _ _ _ _ _ _) (by decide) rfl rfl (deLdnf_enLdnf .ldnf 0x10D _ _ _ _ _ _ _)
theorem addrq : ∀ p d a off, Statement (.addrq p d a off) :=
  fun _ _ _ _ => of_thread (enDA_op 0x10E _ _ _ _) (by decide) rfl rfl (deDA_enDA .addrq 0x10E _ _ _ _)
theorem zline : ∀ p a off h, Statement (.zline p a off h) :=
  fun _ _ _ _ => of_thread (enAH_op 0x10F _ _ _ _) (by decide) rfl rfl (deAH_enAH .zline 0x10F _ _ _ _)
theorem sreg : ∀ p d w64 idx, Statement (.sreg p d w64 idx) :=
  fun _ _ _ _ => of_thread (enSreg_op 0x110 _ _ _ _) (by decide) rfl rfl (deSreg_enSreg .sreg 0x110 _ _ _ _)
theorem sset : ∀ p idx a, Statement (.sset p idx a) :=
  fun _ _ _ => of_thread (enSset_op 0x111 _ _ _) (by decide) rfl rfl (deSset_enSset .sset 0x111 _ _ _)
theorem rng : ∀ p d w u01, Statement (.rng p d w u01) :=
  fun _ _ _ _ => of_thread (enRng_op 0x112 _ _ _ _) (by decide) rfl rfl (deRng_enRng .rng 0x112 _ _ _ _)
theorem clock : ∀ p d, Statement (.clock p d) :=
  fun _ _ => of_thread (enD_op 0x113 _ _) (by decide) rfl rfl (deD_enD .clock 0x113 _ _)
theorem pmcfg : ∀ p c a, Statement (.pmcfg p c a) :=
  fun _ _ _ => of_thread (enPmcfg_op 0x114 _ _ _) (by decide) rfl rfl (dePmcfg_enPmcfg .pmcfg 0x114 _ _ _)
theorem pmrd : ∀ p d c, Statement (.pmrd p d c) :=
  fun _ _ _ => of_thread (enPmrd_op 0x115 _ _ _) (by decide) rfl rfl (dePmrd_enPmrd .pmrd 0x115 _ _ _)
theorem rply : ∀ p d a off, Statement (.rply p d a off) :=
  fun _ _ _ _ => of_thread (enDA_op 0x116 _ _ _ _) (by decide) rfl rfl (deDA_enDA .rply 0x116 _ _ _ _)
theorem topen : ∀ p d a off, Statement (.topen p d a off) :=
  fun _ _ _ _ => of_thread (enDA_op 0x117 _ _ _ _) (by decide) rfl rfl (deDA_enDA .topen 0x117 _ _ _ _)
theorem tscore : ∀ p add a, Statement (.tscore p add a) :=
  fun _ _ _ => of_thread (enTscore_op 0x118 _ _ _) (by decide) rfl rfl (deTscore_enTscore .tscore 0x118 _ _ _)
theorem tbar : ∀ p, Statement (.tbar p) :=
  fun _ => of_thread (enP_op 0x119 _) (by decide) rfl rfl (deP_enP .tbar 0x119 _)
theorem tstat : ∀ p d a off b, Statement (.tstat p d a off b) :=
  fun _ _ _ _ _ => of_thread (enDAB_op 0x11A _ _ _ _ _) (by decide) rfl rfl (deDAB_enDAB .tstat 0x11A _ _ _ _ _)
theorem tkill : ∀ p a off b, Statement (.tkill p a off b) :=
  fun _ _ _ _ => of_thread (enAB_op 0x11B _ _ _ _) (by decide) rfl rfl (deAB_enAB .tkill 0x11B _ _ _ _)
theorem svc : ∀ p a n, Statement (.svc p a n) :=
  fun _ _ _ => of_thread (enSvc_op 0x11C _ _ _) (by decide) rfl rfl (deSvc_enSvc .svc 0x11C _ _ _)
theorem errq : ∀ p d a off, Statement (.errq p d a off) :=
  fun _ _ _ _ => of_thread (enDA_op 0x11D _ _ _ _) (by decide) rfl rfl (deDA_enDA .errq 0x11D _ _ _ _)
theorem tbind : ∀ p d h a off x, Statement (.tbind p d h a off x) :=
  fun _ _ _ _ _ _ => of_thread (enTbind_op 0x120 _ _ _ _ _ _) (by decide) rfl rfl (deTbind_enTbind .tbind 0x120 _ _ _ _ _ _)
theorem tfree : ∀ p h unbind, Statement (.tfree p h unbind) :=
  fun _ _ _ => of_thread (enTfree_op 0x121 _ _ _) (by decide) rfl rfl (deTfree_enTfree .tfree 0x121 _ _ _)
theorem tload : ∀ p h at_ b c, Statement (.tload p h at_ b c) :=
  fun _ _ _ _ _ => of_thread (enTat_op 0x122 _ _ _ _ _) (by decide) rfl rfl (deTat_enTat .tload 0x122 _ _ _ _ _)
theorem tstore : ∀ p h at_ b c, Statement (.tstore p h at_ b c) :=
  fun _ _ _ _ _ => of_thread (enTat_op 0x123 _ _ _ _ _) (by decide) rfl rfl (deTat_enTat .tstore 0x123 _ _ _ _ _)
theorem tstoreq : ∀ p h at_ b c fmt, Statement (.tstoreq p h at_ b c fmt) :=
  fun _ _ _ _ _ _ => of_thread (enTq_op 0x124 _ _ _ _ _ _) (by decide) rfl rfl (deTq_enTq .tstoreq 0x124 _ _ _ _ _ _)
theorem tfill : ∀ p h, Statement (.tfill p h) :=
  fun _ _ => of_thread (enH_op 0x125 _ _) (by decide) rfl rfl (deH_enH .tfill 0x125 _ _)
theorem tstate : ∀ p d h, Statement (.tstate p d h) :=
  fun _ _ _ => of_thread (enDH_op 0x126 _ _ _) (by decide) rfl rfl (deDH_enDH .tstate 0x126 _ _ _)
theorem gathI32 : ∀ p a off x, Statement (.gathI32 p a off x) :=
  fun _ _ _ _ => of_thread (enAX_op 0x127 _ _ _ _) (by decide) rfl rfl (deAX_enAX .gathI32 0x127 _ _ _ _)
theorem gathI64 : ∀ p a off x, Statement (.gathI64 p a off x) :=
  fun _ _ _ _ => of_thread (enAX_op 0x128 _ _ _ _) (by decide) rfl rfl (deAX_enAX .gathI64 0x128 _ _ _ _)
theorem scatI32 : ∀ p a off x, Statement (.scatI32 p a off x) :=
  fun _ _ _ _ => of_thread (enAX_op 0x129 _ _ _ _) (by decide) rfl rfl (deAX_enAX .scatI32 0x129 _ _ _ _)
theorem scatI64 : ∀ p a off x, Statement (.scatI64 p a off x) :=
  fun _ _ _ _ => of_thread (enAX_op 0x12A _ _ _ _) (by decide) rfl rfl (deAX_enAX .scatI64 0x12A _ _ _ _)
theorem scatcI32 : ∀ p a off op x, Statement (.scatcI32 p a off op x) :=
  fun _ _ _ _ _ => of_thread (enScatc_op 0x12B _ _ _ _ _) (by decide) rfl rfl (deScatc_enScatc .scatcI32 0x12B _ _ _ _ _)
theorem scatcI64 : ∀ p a off op x, Statement (.scatcI64 p a off op x) :=
  fun _ _ _ _ _ => of_thread (enScatc_op 0x12C _ _ _ _ _) (by decide) rfl rfl (deScatc_enScatc .scatcI64 0x12C _ _ _ _ _)
theorem greplay : ∀ p a off, Statement (.greplay p a off) :=
  fun _ _ _ => of_thread (enAmem_op 0x12D _ _ _) (by decide) rfl rfl (deAmem_enAmem .greplay 0x12D _ _ _)
theorem slbind : ∀ p d a off free, Statement (.slbind p d a off free) :=
  fun _ _ _ _ _ => of_thread (enSlbind_op 0x12E _ _ _ _ _) (by decide) rfl rfl (deSlbind_enSlbind .slbind 0x12E _ _ _ _ _)
theorem slpost : ∀ p a off b c e, Statement (.slpost p a off b c e) :=
  fun _ _ _ _ _ _ => of_thread (enABCE_op 0x12F _ _ _ _ _ _) (by decide) rfl rfl (deABCE_enABCE .slpost 0x12F _ _ _ _ _ _)
theorem slpass : ∀ p a off x b, Statement (.slpass p a off x b) :=
  fun _ _ _ _ _ => of_thread (enSlpass_op 0x130 _ _ _ _ _) (by decide) rfl rfl (deSlpass_enSlpass .slpass 0x130 _ _ _ _ _)
theorem slread : ∀ p d a off sel b, Statement (.slread p d a off sel b) :=
  fun _ _ _ _ _ _ => of_thread (enSlread_op 0x131 _ _ _ _ _ _) (by decide) rfl rfl (deSlread_enSlread .slread 0x131 _ _ _ _ _ _)
theorem sltrunc : ∀ p d a off b, Statement (.sltrunc p d a off b) :=
  fun _ _ _ _ _ => of_thread (enDAB_op 0x132 _ _ _ _ _) (by decide) rfl rfl (deDAB_enDAB .sltrunc 0x132 _ _ _ _ _)
theorem sropen : ∀ p d a off, Statement (.sropen p d a off) :=
  fun _ _ _ _ => of_thread (enDA_op 0x133 _ _ _ _) (by decide) rfl rfl (deDA_enDA .sropen 0x133 _ _ _ _)
theorem srpost : ∀ p a off b c e, Statement (.srpost p a off b c e) :=
  fun _ _ _ _ _ _ => of_thread (enABCE_op 0x134 _ _ _ _ _ _) (by decide) rfl rfl (deABCE_enABCE .srpost 0x134 _ _ _ _ _ _)
theorem srend : ∀ p a off b, Statement (.srend p a off b) :=
  fun _ _ _ _ => of_thread (enAB_op 0x135 _ _ _ _) (by decide) rfl rfl (deAB_enAB .srend 0x135 _ _ _ _)
theorem cred : ∀ p a off op ty sy x, Statement (.cred p a off op ty sy x) :=
  fun _ _ _ _ _ _ _ => of_thread (enCred_op 0x136 _ _ _ _ _ _ _) (by decide) rfl rfl (deCred_enCred .cred 0x136 _ _ _ _ _ _ _)
theorem cgath : ∀ p a off sy x, Statement (.cgath p a off sy x) :=
  fun _ _ _ _ _ => of_thread (enColl_op 0x137 _ _ _ _ _) (by decide) rfl rfl (deColl_enColl .cgath 0x137 _ _ _ _ _)
theorem cbcast : ∀ p a off sy x, Statement (.cbcast p a off sy x) :=
  fun _ _ _ _ _ => of_thread (enColl_op 0x138 _ _ _ _ _) (by decide) rfl rfl (deColl_enColl .cbcast 0x138 _ _ _ _ _)
theorem cscat : ∀ p a off sy x, Statement (.cscat p a off sy x) :=
  fun _ _ _ _ _ => of_thread (enColl_op 0x139 _ _ _ _ _) (by decide) rfl rfl (deColl_enColl .cscat 0x139 _ _ _ _ _)
theorem csend : ∀ p a off sy x, Statement (.csend p a off sy x) :=
  fun _ _ _ _ _ => of_thread (enColl_op 0x13A _ _ _ _ _) (by decide) rfl rfl (deColl_enColl .csend 0x13A _ _ _ _ _)
theorem crecv : ∀ p a off sy x, Statement (.crecv p a off sy x) :=
  fun _ _ _ _ _ => of_thread (enColl_op 0x13B _ _ _ _ _) (by decide) rfl rfl (deColl_enColl .crecv 0x13B _ _ _ _ _)
theorem mrecv : ∀ p d cw pd, Statement (.mrecv p d cw pd) :=
  fun _ _ _ _ => of_thread (enMrecv_op 0x13C _ _ _ _) (by decide) rfl rfl (deMrecv_enMrecv .mrecv 0x13C _ _ _ _)
theorem mpost : ∀ p a n, Statement (.mpost p a n) :=
  fun _ _ _ => of_thread (enMpost_op 0x13D _ _ _) (by decide) rfl rfl (deMpost_enMpost .mpost 0x13D _ _ _)
theorem mldwBf16 : ∀ a c e r j rel, Statement (.mldwBf16 a c e r j rel) :=
  fun _ _ _ _ _ _ => of_stream (enMldw_op 0x180 _ _ _ _ _ _) ⟨by decide, by decide⟩ rfl rfl (deMldw_enMldw .mldwBf16 0x180 _ _ _ _ _ _)
theorem mldwFp16 : ∀ a c e r j rel, Statement (.mldwFp16 a c e r j rel) :=
  fun _ _ _ _ _ _ => of_stream (enMldw_op 0x181 _ _ _ _ _ _) ⟨by decide, by decide⟩ rfl rfl (deMldw_enMldw .mldwFp16 0x181 _ _ _ _ _ _)
theorem mldwE4m3 : ∀ a c e r j rel, Statement (.mldwE4m3 a c e r j rel) :=
  fun _ _ _ _ _ _ => of_stream (enMldw_op 0x182 _ _ _ _ _ _) ⟨by decide, by decide⟩ rfl rfl (deMldw_enMldw .mldwE4m3 0x182 _ _ _ _ _ _)
theorem mldwE5m2 : ∀ a c e r j rel, Statement (.mldwE5m2 a c e r j rel) :=
  fun _ _ _ _ _ _ => of_stream (enMldw_op 0x183 _ _ _ _ _ _) ⟨by decide, by decide⟩ rfl rfl (deMldw_enMldw .mldwE5m2 0x183 _ _ _ _ _ _)
theorem mldwE2m3 : ∀ a c e r j rel, Statement (.mldwE2m3 a c e r j rel) :=
  fun _ _ _ _ _ _ => of_stream (enMldw_op 0x184 _ _ _ _ _ _) ⟨by decide, by decide⟩ rfl rfl (deMldw_enMldw .mldwE2m3 0x184 _ _ _ _ _ _)
theorem mldwE3m2 : ∀ a c e r j rel, Statement (.mldwE3m2 a c e r j rel) :=
  fun _ _ _ _ _ _ => of_stream (enMldw_op 0x185 _ _ _ _ _ _) ⟨by decide, by decide⟩ rfl rfl (deMldw_enMldw .mldwE3m2 0x185 _ _ _ _ _ _)
theorem mldwE2m1 : ∀ a c e r j rel, Statement (.mldwE2m1 a c e r j rel) :=
  fun _ _ _ _ _ _ => of_stream (enMldw_op 0x186 _ _ _ _ _ _) ⟨by decide, by decide⟩ rfl rfl (deMldw_enMldw .mldwE2m1 0x186 _ _ _ _ _ _)
theorem mldwI8 : ∀ a c e r j rel, Statement (.mldwI8 a c e r j rel) :=
  fun _ _ _ _ _ _ => of_stream (enMldw_op 0x187 _ _ _ _ _ _) ⟨by decide, by decide⟩ rfl rfl (deMldw_enMldw .mldwI8 0x187 _ _ _ _ _ _)
theorem mldwT2 : ∀ a c e r j rel, Statement (.mldwT2 a c e r j rel) :=
  fun _ _ _ _ _ _ => of_stream (enMldw_op 0x188 _ _ _ _ _ _) ⟨by decide, by decide⟩ rfl rfl (deMldw_enMldw .mldwT2 0x188 _ _ _ _ _ _)
theorem mldwF64 : ∀ a c e r j rel, Statement (.mldwF64 a c e r j rel) :=
  fun _ _ _ _ _ _ => of_stream (enMldw_op 0x189 _ _ _ _ _ _) ⟨by decide, by decide⟩ rfl rfl (deMldw_enMldw .mldwF64 0x189 _ _ _ _ _ _)
theorem mstrmBf16 : ∀ d a c e r j rel m0, Statement (.mstrmBf16 d a c e r j rel m0) :=
  fun _ _ _ _ _ _ _ _ => of_stream (enMstrm_op 0x18A _ _ _ _ _ _ _ _) ⟨by decide, by decide⟩ rfl rfl (deMstrm_enMstrm .mstrmBf16 0x18A _ _ _ _ _ _ _ _)
theorem mstrmFp16 : ∀ d a c e r j rel m0, Statement (.mstrmFp16 d a c e r j rel m0) :=
  fun _ _ _ _ _ _ _ _ => of_stream (enMstrm_op 0x18B _ _ _ _ _ _ _ _) ⟨by decide, by decide⟩ rfl rfl (deMstrm_enMstrm .mstrmFp16 0x18B _ _ _ _ _ _ _ _)
theorem mstrmE4m3 : ∀ d a c e r j rel m0, Statement (.mstrmE4m3 d a c e r j rel m0) :=
  fun _ _ _ _ _ _ _ _ => of_stream (enMstrm_op 0x18C _ _ _ _ _ _ _ _) ⟨by decide, by decide⟩ rfl rfl (deMstrm_enMstrm .mstrmE4m3 0x18C _ _ _ _ _ _ _ _)
theorem mstrmE5m2 : ∀ d a c e r j rel m0, Statement (.mstrmE5m2 d a c e r j rel m0) :=
  fun _ _ _ _ _ _ _ _ => of_stream (enMstrm_op 0x18D _ _ _ _ _ _ _ _) ⟨by decide, by decide⟩ rfl rfl (deMstrm_enMstrm .mstrmE5m2 0x18D _ _ _ _ _ _ _ _)
theorem mstrmE2m3 : ∀ d a c e r j rel m0, Statement (.mstrmE2m3 d a c e r j rel m0) :=
  fun _ _ _ _ _ _ _ _ => of_stream (enMstrm_op 0x18E _ _ _ _ _ _ _ _) ⟨by decide, by decide⟩ rfl rfl (deMstrm_enMstrm .mstrmE2m3 0x18E _ _ _ _ _ _ _ _)
theorem mstrmE3m2 : ∀ d a c e r j rel m0, Statement (.mstrmE3m2 d a c e r j rel m0) :=
  fun _ _ _ _ _ _ _ _ => of_stream (enMstrm_op 0x18F _ _ _ _ _ _ _ _) ⟨by decide, by decide⟩ rfl rfl (deMstrm_enMstrm .mstrmE3m2 0x18F _ _ _ _ _ _ _ _)
theorem mstrmE2m1 : ∀ d a c e r j rel m0, Statement (.mstrmE2m1 d a c e r j rel m0) :=
  fun _ _ _ _ _ _ _ _ => of_stream (enMstrm_op 0x190 _ _ _ _ _ _ _ _) ⟨by decide, by decide⟩ rfl rfl (deMstrm_enMstrm .mstrmE2m1 0x190 _ _ _ _ _ _ _ _)
theorem mstrmI8 : ∀ d a c e r j rel m0, Statement (.mstrmI8 d a c e r j rel m0) :=
  fun _ _ _ _ _ _ _ _ => of_stream (enMstrm_op 0x191 _ _ _ _ _ _ _ _) ⟨by decide, by decide⟩ rfl rfl (deMstrm_enMstrm .mstrmI8 0x191 _ _ _ _ _ _ _ _)
theorem mstrmF64 : ∀ d a c e r j rel m0 rm, Statement (.mstrmF64 d a c e r j rel m0 rm) :=
  fun _ _ _ _ _ _ _ _ _ => of_stream (enMstrmF_op 0x192 _ _ _ _ _ _ _ _ _) ⟨by decide, by decide⟩ rfl rfl (deMstrmF_enMstrmF .mstrmF64 0x192 _ _ _ _ _ _ _ _ _)
theorem mswap : Statement (.mswap) :=
  of_stream (enM0_op 0x193) ⟨by decide, by decide⟩ rfl rfl (deM0_enM0 .mswap 0x193)
theorem mzero : ∀ d m0 rows, Statement (.mzero d m0 rows) :=
  fun _ _ _ => of_stream (enMzero_op 0x194 _ _ _) ⟨by decide, by decide⟩ rfl rfl (deMzero_enMzero .mzero 0x194 _ _ _)
theorem mdrain : ∀ d a st z kind m0 r j, Statement (.mdrain d a st z kind m0 r j) :=
  fun _ _ _ _ _ _ _ _ => of_stream (enMdrain_op 0x195 _ _ _ _ _ _ _ _) ⟨by decide, by decide⟩ rfl rfl (deMdrain_enMdrain .mdrain 0x195 _ _ _ _ _ _ _ _)
theorem mdrainl : ∀ d g st z kind m0 rows beats, Statement (.mdrainl d g st z kind m0 rows beats) :=
  fun _ _ _ _ _ _ _ _ => of_stream (enMdrainL_op 0x196 _ _ _ _ _ _ _ _) ⟨by decide, by decide⟩ rfl rfl (deMdrainL_enMdrainL .mdrainl 0x196 _ _ _ _ _ _ _ _)
theorem mchain : ∀ a b fmt bias table, Statement (.mchain a b fmt bias table) :=
  fun _ _ _ _ _ => of_stream (enMchain_op 0x197 _ _ _ _ _) ⟨by decide, by decide⟩ rfl rfl (deMchain_enMchain .mchain 0x197 _ _ _ _ _)
theorem mgrp : ∀ d a b c st g s, Statement (.mgrp d a b c st g s) :=
  fun _ _ _ _ _ _ _ => of_stream (enMgrp_op 0x198 _ _ _ _ _ _ _) ⟨by decide, by decide⟩ rfl rfl (deMgrp_enMgrp .mgrp 0x198 _ _ _ _ _ _ _)
theorem asave : ∀ d j lc q off, Statement (.asave d j lc q off) :=
  fun _ _ _ _ _ => of_stream (enAsave_op 0x199 _ _ _ _ _) ⟨by decide, by decide⟩ rfl rfl (deAsave_enAsave .asave 0x199 _ _ _ _ _)
theorem aload : ∀ d j lc q off, Statement (.aload d j lc q off) :=
  fun _ _ _ _ _ => of_stream (enAsave_op 0x19A _ _ _ _ _) ⟨by decide, by decide⟩ rfl rfl (deAsave_enAsave .aload 0x19A _ _ _ _ _)
theorem mbara : ∀ b c, Statement (.mbara b c) :=
  fun _ _ => of_stream (enMbar_op 0x19B _ _) ⟨by decide, by decide⟩ rfl rfl (deMbar_enMbar .mbara 0x19B _ _)
theorem mbarw : ∀ b c, Statement (.mbarw b c) :=
  fun _ _ => of_stream (enMbar_op 0x19C _ _) ⟨by decide, by decide⟩ rfl rfl (deMbar_enMbar .mbarw 0x19C _ _)
theorem mloop : ∀ q n, Statement (.mloop q n) :=
  fun _ _ => of_stream (enMloop_op 0x19D _ _) ⟨by decide, by decide⟩ rfl rfl (deMloop_enMloop .mloop 0x19D _ _)
theorem mnext : Statement (.mnext) :=
  of_stream (enM0_op 0x19E) ⟨by decide, by decide⟩ rfl rfl (deM0_enM0 .mnext 0x19E)
theorem mend : Statement (.mend) :=
  of_stream (enM0_op 0x19F) ⟨by decide, by decide⟩ rfl rfl (deM0_enM0 .mend 0x19F)
theorem pickerIssue : ∀ a, Statement (.pickerIssue a) := fun _ _ => .inl rfl
theorem fixedLatencyWriteLand : ∀ a, Statement (.fixedLatencyWriteLand a) := fun _ _ => .inl rfl
theorem variableResultLand : ∀ a b, Statement (.variableResultLand a b) := fun _ _ _ => .inl rfl
theorem slotSwap : ∀ a, Statement (.slotSwap a) := fun _ _ => .inl rfl
theorem courseForm : ∀ a, Statement (.courseForm a) := fun _ _ => .inl rfl
theorem threadRaise : ∀ a, Statement (.threadRaise a) := fun _ _ => .inl rfl
theorem mergeHoldExpire : ∀ a b, Statement (.mergeHoldExpire a b) := fun _ _ _ => .inl rfl
theorem crosslaneExpire : ∀ a b, Statement (.crosslaneExpire a b) := fun _ _ _ => .inl rfl
theorem sleepExpire : ∀ a, Statement (.sleepExpire a) := fun _ _ => .inl rfl
theorem spawnPackClose : ∀ a b, Statement (.spawnPackClose a b) := fun _ _ _ => .inl rfl
theorem spawnGangReady : ∀ a b, Statement (.spawnGangReady a b) := fun _ _ _ => .inl rfl
theorem threadRecordFree : ∀ a, Statement (.threadRecordFree a) := fun _ _ => .inl rfl
theorem tileFillComplete : ∀ a, Statement (.tileFillComplete a) := fun _ _ => .inl rfl
theorem tileStoreStart : ∀ a, Statement (.tileStoreStart a) := fun _ _ => .inl rfl
theorem tileStoreComplete : ∀ a, Statement (.tileStoreComplete a) := fun _ _ => .inl rfl
theorem gatherFamilyComplete : ∀ a, Statement (.gatherFamilyComplete a) := fun _ _ => .inl rfl
theorem slpostMerge : ∀ a, Statement (.slpostMerge a) := fun _ _ => .inl rfl
theorem slpassApply : ∀ a, Statement (.slpassApply a) := fun _ _ => .inl rfl
theorem slpassComplete : ∀ a, Statement (.slpassComplete a) := fun _ _ => .inl rfl
theorem sltruncApply : ∀ a, Statement (.sltruncApply a) := fun _ _ => .inl rfl
theorem slreadAnswer : ∀ a, Statement (.slreadAnswer a) := fun _ _ => .inl rfl
theorem streamRingPost : ∀ a, Statement (.streamRingPost a) := fun _ _ => .inl rfl
theorem streamRingHeadPoll : ∀ a, Statement (.streamRingHeadPoll a) := fun _ _ => .inl rfl
theorem collectiveInstanceComplete : ∀ a, Statement (.collectiveInstanceComplete a) := fun _ _ => .inl rfl
theorem sequencerStart : ∀ a, Statement (.sequencerStart a) := fun _ _ => .inl rfl
theorem matrixOperationPerform : ∀ a, Statement (.matrixOperationPerform a) := fun _ _ => .inl rfl
theorem drainBeatEnqueue : ∀ a, Statement (.drainBeatEnqueue a) := fun _ _ => .inl rfl
theorem weightContextSwitch : ∀ a, Statement (.weightContextSwitch a) := fun _ _ => .inl rfl
theorem weightRequestRaise : ∀ a, Statement (.weightRequestRaise a) := fun _ _ => .inl rfl
theorem pageWalkComplete : ∀ a, Statement (.pageWalkComplete a) := fun _ _ => .inl rfl
theorem faultRingHeadPoll : Statement (.faultRingHeadPoll) := fun _ => .inl rfl
theorem responseRingRead : Statement (.responseRingRead) := fun _ => .inl rfl
theorem responseMapped : ∀ a b, Statement (.responseMapped a b) := fun _ _ _ => .inl rfl
theorem responseTerminateLaunch : ∀ a b c, Statement (.responseTerminateLaunch a b c) := fun _ _ _ _ => .inl rfl
theorem responseDeliverTrap : ∀ a b, Statement (.responseDeliverTrap a b) := fun _ _ _ => .inl rfl
theorem responseShootDown : ∀ a b c, Statement (.responseShootDown a b c) := fun _ _ _ _ => .inl rfl
theorem responseDeclareAlias : ∀ a b c, Statement (.responseDeclareAlias a b c) := fun _ _ _ _ => .inl rfl
theorem responseRemoveAlias : ∀ a b, Statement (.responseRemoveAlias a b) := fun _ _ _ => .inl rfl
theorem shootDownComplete : ∀ a, Statement (.shootDownComplete a) := fun _ _ => .inl rfl
theorem queueTailWrite : ∀ a b c, Statement (.queueTailWrite a b c) := fun _ _ _ _ => .inl rfl
theorem queueRecordAdmit : ∀ a b, Statement (.queueRecordAdmit a b) := fun _ _ _ => .inl rfl
theorem queueEnable : ∀ a b, Statement (.queueEnable a b) := fun _ _ _ => .inl rfl
theorem queueDisable : ∀ a b, Statement (.queueDisable a b) := fun _ _ _ => .inl rfl
theorem groupPlace : ∀ a, Statement (.groupPlace a) := fun _ _ => .inl rfl
theorem deficitVisit : Statement (.deficitVisit) := fun _ => .inl rfl
theorem deficitStarvation : ∀ a, Statement (.deficitStarvation a) := fun _ _ => .inl rfl
theorem blockPreempt : ∀ a, Statement (.blockPreempt a) := fun _ _ => .inl rfl
theorem preemptSave : ∀ a, Statement (.preemptSave a) := fun _ _ => .inl rfl
theorem blockResume : ∀ a, Statement (.blockResume a) := fun _ _ => .inl rfl
theorem reachLaunchRequest : ∀ a b, Statement (.reachLaunchRequest a b) := fun _ _ _ => .inl rfl
theorem functionSuspend : ∀ a, Statement (.functionSuspend a) := fun _ _ => .inl rfl
theorem functionResume : ∀ a, Statement (.functionResume a) := fun _ _ => .inl rfl
theorem suspendTransitionComplete : ∀ a, Statement (.suspendTransitionComplete a) := fun _ _ => .inl rfl
theorem functionLevelReset : ∀ a, Statement (.functionLevelReset a) := fun _ _ => .inl rfl
theorem serviceStart : Statement (.serviceStart) := fun _ => .inl rfl
theorem serviceEntryCall : Statement (.serviceEntryCall) := fun _ => .inl rfl
theorem replayPassStart : ∀ a, Statement (.replayPassStart a) := fun _ _ => .inl rfl
theorem replayPassEnd : ∀ a, Statement (.replayPassEnd a) := fun _ _ => .inl rfl
theorem roundEnd : ∀ a, Statement (.roundEnd a) := fun _ _ => .inl rfl
theorem tournamentHandover : ∀ a, Statement (.tournamentHandover a) := fun _ _ => .inl rfl
theorem deviceStart : ∀ a, Statement (.deviceStart a) := fun _ _ => .inl rfl
theorem startStageTimeout : ∀ a, Statement (.startStageTimeout a) := fun _ _ => .inl rfl
theorem bootRestart : Statement (.bootRestart) := fun _ => .inl rfl
theorem islandCommand : ∀ a b, Statement (.islandCommand a b) := fun _ _ _ => .inl rfl
theorem islandStateChangeDone : ∀ a, Statement (.islandStateChangeDone a) := fun _ _ => .inl rfl
theorem powerAlarmAssert : ∀ a, Statement (.powerAlarmAssert a) := fun _ _ => .inl rfl
theorem powerAlarmClear : ∀ a, Statement (.powerAlarmClear a) := fun _ _ => .inl rfl
theorem alarmFallbackExpire : ∀ a, Statement (.alarmFallbackExpire a) := fun _ _ => .inl rfl
theorem pcieLinkUp : ∀ a, Statement (.pcieLinkUp a) := fun _ _ => .inl rfl
theorem pcieLinkDown : ∀ a, Statement (.pcieLinkDown a) := fun _ _ => .inl rfl
theorem fabricPortStateChange : ∀ a b, Statement (.fabricPortStateChange a b) := fun _ _ _ => .inl rfl
theorem inboundWindowAccess : ∀ a, Statement (.inboundWindowAccess a) := fun _ _ => .inl rfl
theorem peerTimeout : ∀ a, Statement (.peerTimeout a) := fun _ _ => .inl rfl
theorem firmwareUpdate : ∀ a, Statement (.firmwareUpdate a) := fun _ _ => .inl rfl
theorem spdmRequest : ∀ a, Statement (.spdmRequest a) := fun _ _ => .inl rfl
theorem pldmMctpRequest : ∀ a, Statement (.pldmMctpRequest a) := fun _ _ => .inl rfl
theorem softErrorCorrected : ∀ a, Statement (.softErrorCorrected a) := fun _ _ => .inl rfl
theorem machineCheck : ∀ a, Statement (.machineCheck a) := fun _ _ => .inl rfl
theorem memoryScrub : ∀ a, Statement (.memoryScrub a) := fun _ _ => .inl rfl
theorem registerWrite : ∀ a b c, Statement (.registerWrite a b c) := fun _ _ _ _ => .inl rfl
theorem matrixOperationComplete : ∀ a, Statement (.matrixOperationComplete a) := fun _ _ => .inl rfl
theorem msixVectorUnmask : ∀ a b, Statement (.msixVectorUnmask a b) := fun _ _ _ => .inl rfl

end Sys2Proof.Laws.Encoding
end

