-- ==== Sys2Proof/Tests/Slice0.lean ====
section
/-! SUPPORT. Tests: an ill-formed term for each check of well-formedness, words written out from the spec's encodings and
worked examples, single steps whose results the spec's text gives, and for every statement with hypotheses a state and
operands that meet them. -/

set_option Elab.async false

namespace Sys2Proof.Tests

open Sys2Proof.Machine Sys2Proof.Safety

def p1 : Pre := { g := Guard.always, stall := 1, yld := false }

/-! ### Ill-formed terms are refused -/


theorem test_wf_brt_zero : Instr.wf (.brt p1 2 4 0 .dflt) = false := by decide
theorem test_wf_brt_large : Instr.wf (.brt p1 2 4 0x800000 .dflt) = false := by decide
theorem test_wf_barArr : Instr.wf (.barArr p1 2 0 1025) = false := by decide
theorem test_wf_barSync : Instr.wf (.barSync p1 0 1025) = false := by decide
theorem test_wf_sleep : Instr.wf (.sleep p1 0x800000) = false := by decide
theorem test_wf_trap : Instr.wf (.trap p1 0x7F) = false := by decide
theorem test_wf_pacs : Instr.wf (.pacs p1 2 4 6 8 10 .wrap 1) = false := by decide
theorem test_wf_lea : Instr.wf (.lea p1 2 4 true 0) = false := by decide
theorem test_wf_fcmpF16x2 : Instr.wf (.fcmpF16x2 p1 .lt 1 2 4 false false) = false := by decide
theorem test_wf_fcmpBf16x2 : Instr.wf (.fcmpBf16x2 p1 .lt 3 2 4 false) = false := by decide
theorem test_wf_shflIdx : Instr.wf (.shflIdx p1 2 4 (.imm 0) 6 0 7) = false := by decide
theorem test_wf_shflUp : Instr.wf (.shflUp p1 2 4 (.imm 0) 6 0 7) = false := by decide
theorem test_wf_shflDown : Instr.wf (.shflDown p1 2 4 (.imm 0) 6 0 7) = false := by decide
theorem test_wf_shflXor : Instr.wf (.shflXor p1 2 4 (.imm 0) 7 0 7) = false := by decide
theorem test_wf_vote_ballot : Instr.wf (.vote p1 .ballot 2 1 0 false 0) = false := by decide
theorem test_wf_vote_all : Instr.wf (.vote p1 .all 2 1 0 false 0) = false := by decide
theorem test_wf_lda32 : Instr.wf (.lda32 p1 2 4 0 .rel .dv) = false := by decide
theorem test_wf_lda64 : Instr.wf (.lda64 p1 2 4 0 .ar .dv) = false := by decide
theorem test_wf_str32 : Instr.wf (.str32 p1 4 0 2 .acq .dv) = false := by decide
theorem test_wf_str64 : Instr.wf (.str64 p1 4 0 2 .ar .dv) = false := by decide
theorem test_wf_red32 : Instr.wf (.red32 p1 4 0 2 .add .acq .dv) = false := by decide
theorem test_wf_redF32Add : Instr.wf (.redF32Add p1 4 0 2 .rn .ar .dv) = false := by decide
theorem test_wf_fence : Instr.wf (.fence p1 .rlx .dv) = false := by decide
theorem test_wf_cctl : Instr.wf (.cctl p1 .wball false 2 0) = false := by decide
theorem test_wf_ldl32 : Instr.wf (.ldl32 p1 2 false 4 0 .dflt) = false := by decide
theorem test_wf_ldl64 : Instr.wf (.ldl64 p1 2 false 4 0 .dflt) = false := by decide
theorem test_wf_ldl128 : Instr.wf (.ldl128 p1 4 false 4 0 .dflt) = false := by decide
theorem test_wf_stl32 : Instr.wf (.stl32 p1 false 4 0 2 .dflt) = false := by decide
theorem test_wf_stl64 : Instr.wf (.stl64 p1 false 4 0 2 .dflt) = false := by decide
theorem test_wf_stl128 : Instr.wf (.stl128 p1 false 4 0 4 .dflt) = false := by decide
theorem test_wf_ldnf : Instr.wf (.ldnf p1 2 3 4 0 0 .dflt) = false := by decide
theorem test_wf_rng : Instr.wf (.rng p1 2 3 false) = false := by decide
theorem test_wf_tload : Instr.wf (.tload p1 0 false 2 0) = false := by decide
theorem test_wf_tstore : Instr.wf (.tstore p1 0 false 0 2) = false := by decide
theorem test_wf_tstoreq : Instr.wf (.tstoreq p1 0 false 2 0 .e4m3) = false := by decide
theorem test_wf_slpass : Instr.wf (.slpass p1 2 0 false 4) = false := by decide
theorem test_wf_slread : Instr.wf (.slread p1 2 4 0 .cur 6) = false := by decide
theorem test_wf_cred : Instr.wf (.cred p1 2 0 .xor .f32 false false) = false := by decide
theorem test_wf_mpost_zero : Instr.wf (.mpost p1 2 0) = false := by decide
theorem test_wf_mpost_nine : Instr.wf (.mpost p1 2 9) = false := by decide
theorem test_wf_asave : Instr.wf (.asave 0 0 false true 128) = false := by decide
theorem test_wf_aload : Instr.wf (.aload 0 0 false true 128) = false := by decide
theorem test_wf_mbara : Instr.wf (.mbara 0 0) = false := by decide
theorem test_wf_mbarw : Instr.wf (.mbarw 0 1025) = false := by decide
theorem test_wf_mloop_q : Instr.wf (.mloop true 1) = false := by decide
theorem test_wf_mloop_large : Instr.wf (.mloop false 0x800000) = false := by decide

/-! ### Words written out from the spec decode to their instructions (dword1, then dword0) -/

theorem test_decode_nop : toOption (decodeThread (0x0000000002000000#64 ++ 0x0000000000003B80#64)) = some (.nop p1) := by decide +kernel
theorem test_decode_sreg : toOption (decodeThread (0x0000000002000000#64 ++ 0x8800000000003B80#64)) = some (.sreg p1 0 false 0) := by decide +kernel
theorem test_decode_imadw : toOption (decodeThread (0x000000000C000000#64 ++ 0x1601007170003B80#64)) = some (.imadwN { p1 with stall := 6 } 2 0 (.reg 0xE2) 0xE0) := by decide +kernel
theorem test_decode_st32 : toOption (decodeThread (0x0000000002000000#64 ++ 0x7480010200003B80#64)) = some (.st32 p1 2 0 4 .dflt) := by decide +kernel
theorem test_decode_ffma : toOption (decodeThread (0x0000002010000000#64 ++ 0x4604010203000B80#64)) = some (.ffmaF64 { g := { Guard.always with g0 := 1 }, stall := 8, yld := false } 8 2 4 6 .rz) := by decide +kernel
theorem test_decode_fence : toOption (decodeThread (0x0000000002000000#64 ++ 0x8180000000003BB5#64)) = some (.fence p1 .ar .dv) := by decide +kernel
theorem test_decode_pacs : toOption (decodeThread (0x0000000008000000#64 ++ 0x2D8C0B0A0B8ABB80#64)) = some (.pacs { p1 with stall := 4 } 24 22 20 23 21 .wrap 0) := by decide +kernel
theorem test_decode_vote : toOption (decodeThread (0x0000000702000000#64 ++ 0x6A0D000000003B82#64)) = some (.vote p1 .ballot 26 7 0 false 0) := by decide +kernel
theorem test_decode_gath : toOption (decodeThread (0x0000000002000000#64 ++ 0x9380010000003B80#64)) = some (.gathI32 p1 2 0 false) := by decide +kernel
theorem test_decode_waitc : toOption (decodeThread (0x0000000002000000#64 ++ 0x0480000000003B81#64)) = some (.waitc p1 .ga 0) := by decide +kernel
theorem test_decode_tscore : toOption (decodeThread (0x0000000002000000#64 ++ 0x8C00010000003B81#64)) = some (.tscore p1 true 2) := by decide +kernel
theorem test_decode_slpost : toOption (decodeThread (0x0000000002000000#64 ++ 0x9780740000813B80#64)) = some (.slpost p1 0xE8 0 0 1 2) := by decide +kernel
theorem test_decode_slpass : toOption (decodeThread (0x0000000002000000#64 ++ 0x9800740000001380#64)) = some (.slpass { p1 with g := { Guard.always with g0 := 2 } } 0xE8 0 false 0) := by decide +kernel
theorem test_decode_tbar : toOption (decodeThread (0x0000000002000000#64 ++ 0x8C80000000003B80#64)) = some (.tbar p1) := by decide +kernel

/-! ### One thread about to issue -/

/-- A header of one word and a header of two, a budget of 16 registers, region headers. -/
def lastHeader : DWord := 0xB011000000000080
def midHeader : DWord := 0xB021000000000080

/-- The 128-byte line of code at 0x100000, with these bytes at an offset and zeros elsewhere, as a cache holds it. -/
def codeLine (at_ : Nat) (bs : List Byte) : Sparse 64 :=
  (List.replicate at_ (0 : Byte) ++ bs ++ List.replicate (128 - at_ - bs.length) 0).zipIdx.map
    fun (x : Byte × Nat) => (0x100000 + x.2, cleanEntry 0 x.1)
/-- The header `lastHeader` at 0x100018, after the one word of the block at 0x100000, in the instruction cache and in L2. -/
def heldHeader : Sparse 64 := codeLine 0x18 (bytesOf 8 lastHeader.toNat)

/-- A block of one thread, whose course is in progress. -/
def place (l : Launch) (b : Block) (t : Thread) : State :=
  { State.reset with
    nextId := 10, clock := 100, boot := .up, icache := heldHeader, l2 := heldHeader, launches := [l], blocks := [b], threads := [t],
    slots := [benchSlot], cur := .course [3] }

def block0 : Block := benchBlock false
def lastThread : Thread := { benchThread with hword := lastHeader }
def midThread : Thread := { benchThread with hword := midHeader }
def withRegs (vs : Sparse 32) (t : Thread) : Thread := { t with regs := vs }

/-- The thread of a next state, and the result in flight and the flags that a word gives it. -/
def ran (i : Instr) (s : State) : Option Thread :=
  match exec i s with
  | .next z => z.thread? 3
  | _ => none
def gets (i : Instr) (vs : Sparse 32) : Option (List (Nat × Word) × List (Nat × Bool) × BitVec 6) :=
  (ran i (place benchLaunch block0 (withRegs vs midThread))).map fun t => (t.pend.flatMap (·.regs), t.pend.flatMap (·.preds), t.fflags)

/-! ### Single steps; what each gives is worked out from the entry it names -/

/-- R110 -/
theorem test_iadd_wraps : gets (.iadd32 p1 3 1 (.imm 1)) [(1, 0xFFFFFFFF)] = some ([(3, 0)], [], 0) := by decide +kernel
/-- Table 5-6 -/
theorem test_isub64_borrows : gets (.isub64 p1 4 2 (.imm 1)) [(3, 1)] = some ([(4, 0xFFFFFFFF), (5, 0)], [], 0) := by decide +kernel
/-- Table 5-6 -/
theorem test_iaddc_carries : gets (.iaddc p1 3 1 (.reg 2) 4 7 true) [(1, 0xFFFFFFFF), (2, 1)] = some ([(3, 0)], [(4, true)], 0) := by decide +kernel
/-- Table 5-6 -/
theorem test_iabs_least : gets (.iabs p1 3 1) [(1, 0x80000000)] = some ([(3, 0x80000000)], [], 0) := by decide +kernel
/-- Table 5-7 -/
theorem test_imulh_signed : gets (.imulhS p1 3 1 (.imm 2)) [(1, 0xFFFFFFFF)] = some ([(3, 0xFFFFFFFF)], [], 0) := by decide +kernel
/-- Table 5-7 -/
theorem test_imadw_unsigned : gets (.imadwN p1 4 1 (.reg 2) 6) [(1, 0xFFFFFFFF), (2, 2), (6, 3)] = some ([(4, 1), (5, 2)], [], 0) := by decide +kernel
/-- R134 -/
theorem test_idiv_by_zero : gets (.idivS p1 3 1 (.imm 0)) [(1, 0x80000001)] = some ([(3, 0x80000000)], [], 0x20) := by decide +kernel
/-- R134 -/
theorem test_irem_least : gets (.iremS p1 3 1 (.imm 0xFFFFFF)) [(1, 0x80000000)] = some ([(3, 0)], [], 0) := by decide +kernel
/-- R135 -/
theorem test_imin_signed : gets (.iminS p1 3 1 (.imm 1)) [(1, 0xFFFFFFFF)] = some ([(3, 0xFFFFFFFF)], [], 0) := by decide +kernel
/-- R136 -/
theorem test_lut3_xor : gets (.lut3 p1 8 1 2 3 0x96) [(1, 0xF0F0F0F0), (2, 0xCCCCCCCC), (3, 0xAAAAAAAA)] = some ([(8, 0x96969696)], [], 0) := by decide +kernel
/-- Table 5-8 -/
theorem test_shl_by_width : gets (.shl p1 3 1 (.imm 32)) [(1, 0xFFFFFFFF)] = some ([(3, 0)], [], 0) := by decide +kernel
/-- Table 5-8 -/
theorem test_sar_by_more : gets (.sar p1 3 1 (.imm 40)) [(1, 0x80000000)] = some ([(3, 0xFFFFFFFF)], [], 0) := by decide +kernel
/-- Table 5-8 -/
theorem test_fshf_left_width : gets (.fshfL p1 3 1 2 (.imm 99)) [(1, 0x11111111), (2, 0x22222222)] = some ([(3, 0x22222222)], [], 0) := by decide +kernel
/-- R138 -/
theorem test_clz_zero : gets (.clz p1 3 1) [] = some ([(3, 32)], [], 0) := by decide +kernel
/-- R138 -/
theorem test_bfe_field : gets (.bfeN p1 5 2 (.imm 0x0408)) [(2, 0x12345ABC)] = some ([(5, 0xA)], [], 0) := by decide +kernel
/-- R138 -/
theorem test_bfi_field : gets (.bfi p1 5 2 (.imm 0x0408) 3) [(2, 0xF3), (3, 0xFFFFFFFF)] = some ([(5, 0xFFFFF3FF)], [], 0) := by decide +kernel
/-- R139 -/
theorem test_icmp_unsigned : gets (.icmpN32 p1 .ge 2 4 (.imm 16)) [(4, 0x80000000)] = some ([], [(2, true)], 0) := by decide +kernel
/-- R139 -/
theorem test_ipick_negated : gets (.ipick p1 5 1 (.imm 9) 7 true) [(1, 4)] = some ([(5, 9)], [], 0) := by decide +kernel
/-- R140 -/
theorem test_idp4_signed : gets (.idp4S p1 9 1 2 9) [(1, 0xFF020304), (2, 0x01010101), (9, 10)] = some ([(9, 18)], [], 0) := by decide +kernel
/-- Table 5-9 -/
theorem test_psub_saturates : gets (.psub8 p1 3 1 (.reg 2) .satN) [(1, 0x10203040), (2, 0x20101010)] = some ([(3, 0x00102030)], [], 0) := by decide +kernel
/-- R142 -/
theorem test_pacs_tie : gets (.pacs p1 6 1 2 3 4 .wrap 0) [(1, 0x00030005), (2, 0x00010001), (3, 0x00040004), (4, 0x00020002)] = some ([(6, 0x00060006)], [(0, false), (1, true)], 0) := by decide +kernel
/-- R143 -/
theorem test_perm_reverses : gets (.perm p1 5 1 1 (.imm 0x0123)) [(1, 0x11223344)] = some ([(5, 0x44332211)], [], 0) := by decide +kernel
/-- R144 -/
theorem test_movi_64 : gets (.movi p1 12 true 0x7FFF00001000) [] = some ([(12, 0x00001000), (13, 0x7FFF)], [], 0) := by decide +kernel
/-- R144 -/
theorem test_lea_pc : gets (.lea p1 4 0 true 0xFFFFFFFFFFF0) [] = some ([(4, 0x000FFFF0), (5, 0)], [], 0) := by decide +kernel
/-- R145 -/
theorem test_pget : gets (.pget p1 3) [] = some ([(3, 0x80)], [], 0) := by decide +kernel
/-- Table 6-10 -/
theorem test_fadd_rounds_even : gets (.faddF32 p1 3 1 2 .rn false) [(1, 0x4B800000), (2, 0x3F800000)] = some ([(3, 0x4B800000)], [], 0x10) := by decide +kernel
/-- R88 -/
theorem test_ffma_signalling : gets (.ffmaF32 p1 3 1 2 4 .rn false) [(1, 0x7F800001), (2, 0x3F800000)] = some ([(3, 0x7FC00000)], [], 1) := by decide +kernel
/-- R149 -/
theorem test_fmax_nan : gets (.fmaxF32 p1 5 1 2 false) [(1, 0x7FC00000)] = some ([(5, 0)], [], 0) := by decide +kernel
/-- R150 -/
theorem test_fcmp_nan_signals : gets (.fcmpF32 p1 .lt 2 1 4 true false) [(1, 0x7FC00000)] = some ([], [(2, false)], 1) := by decide +kernel
/-- Table 4-4 -/
theorem test_fdiv_by_zero : gets (.fdivF32 p1 3 1 2 .rn false) [(1, 0x3F800000)] = some ([(3, 0x7F800000)], [], 2) := by decide +kernel
/-- Table 4-4 -/
theorem test_fsqrt_negative : gets (.fsqrtF32 p1 3 1 .rn false) [(1, 0xBF800000)] = some ([(3, 0x7FC00000)], [], 1) := by decide +kernel
/-- R154 -/
theorem test_fclass_subnormal : gets (.fclassF32 p1 6 1) [(1, 1)] = some ([(6, 0x20)], [], 0) := by decide +kernel
/-- R155 -/
theorem test_fcvt_truncates : gets (.fcvtBf16x2F32 p1 7 2 3 .rz) [(2, 0x3F80FFFF), (3, 0xC0400000)] = some ([(7, 0xC0403F80)], [], 0x10) := by decide +kernel
/-- R155 -/
theorem test_fcvt_to_int : gets (.fcvtS32F32 p1 7 2 .rz false) [(2, 0xC0200000)] = some ([(7, 0xFFFFFFFE)], [], 0x10) := by decide +kernel
/-- R101 -/
theorem test_mxdq_one : gets (.mxdqE4m3 p1 2 8 4 0 0 .rn false) [(4, 127), (8, 0x4038)] = some ([(2, 0x3F800000), (3, 0x40000000)], [], 0) := by decide +kernel
/-- R187 -/
theorem test_sreg_tid : gets (.sreg p1 3 false 0) [] = some ([(3, 0)], [], 0) := by decide +kernel

/-! Memory, control and engine words. `vaultRegs` holds the address of the block's window in v2:v3. -/

def vaultRegs : Sparse 32 := [(3, 0x00FF0000), (4, 0x80818283), (5, 0x11223344)]
/-- The thread's block before the last word of its code block, with these bytes in its window. -/
def window (bs : List Byte) : State := memWrite (place benchLaunch block0 (withRegs vaultRegs lastThread)) (vaultSpace + 8) bs
/-- The machine after a word, with the accesses that it issued performed. -/
def performs (i : Instr) (s : State) : Option State :=
  match exec i s with
  | .next z => some (z.flight.foldl performOne z)
  | _ => none
def loads (i : Instr) (bs : List Byte) : Option (List (Nat × Word)) :=
  ((performs i (window bs)).bind fun z => z.thread? 3).map fun t => t.pend.flatMap (·.regs)
/-- The bytes at offset 8 of the window after a word. -/
def leaves (i : Instr) (bs : List Byte) (n : Nat) : Option (List Byte) :=
  (performs i (window bs)).map fun z => memRead z (vaultSpace + 8) n

/-- Table 7-2 -/
theorem test_ld_signed : loads (.ldS8 p1 8 2 8 .dflt) [0x80] = some [(8, 0xFFFFFF80)] := by decide +kernel
/-- Table 7-2 -/
theorem test_ld_pair : loads (.ld64 p1 8 2 8 .dflt) [1, 2, 3, 4, 5, 6, 7, 8] = some [(8, 0x04030201), (9, 0x08070605)] := by decide +kernel
/-- Table 7-2, R5 -/
theorem test_st_pair : leaves (.st64 p1 2 8 4 .dflt) [] 8 = some [0x83, 0x82, 0x81, 0x80, 0x44, 0x33, 0x22, 0x11] := by decide +kernel
/-- Table 7-3 -/
theorem test_atom_add : leaves (.atom32Add p1 8 2 8 5 .rlx .qd) [0xFF, 0xFF, 0xFF, 0xFF] 4 = some [0x43, 0x33, 0x22, 0x11] := by decide +kernel
/-- Table 7-3 -/
theorem test_atom_returns : loads (.atom32Add p1 8 2 8 5 .rlx .qd) [0xFF, 0xFF, 0xFF, 0xFF] = some [(8, 0xFFFFFFFF)] := by decide +kernel
/-- R183 -/
theorem test_zline : leaves (.zline p1 2 0 .dflt) [7, 7] 2 = some [0, 0] := by decide +kernel
/-- R66: a misaligned address traps with 0x05, the address kept. -/
theorem test_misaligned : (ran (.ld32 p1 8 2 2 .dflt) (window [])).map (fun t => (t.trap, t.trapva, t.life)) =
    some (0x05, 0x00FF000000000002, .stopped) := by decide +kernel
/-- R66 -/
theorem test_noncanonical : (ran (.ld32 p1 8 4 0 .dflt) (window [])).map (fun t => t.trap) = some 0x06 := by decide +kernel

def ends (i : Instr) : Option Thread := ran i (place benchLaunch block0 lastThread)

/-- R113: the target is the header address plus eight times the offset. -/
theorem test_bra : (ends (.bra p1 3)).map (fun t => (t.hdr, t.idx, t.readyAt)) = some (0x100018, 0, 101) := by decide +kernel
/-- R113 -/
theorem test_call_links : (ends (.call p1 3)).map (fun t => (t.hdr, t.link)) = some (0x100018, 0x100018) := by decide +kernel
/-- R114: a zero target is a bad branch target. -/
theorem test_ret_zero : (ends (.ret p1)).map (fun t => (t.trap, t.trappc)) = some (0x03, 0x100008) := by decide +kernel
/-- R126, R40: the block's only thread completes its barrier and does not wait. -/
theorem test_bar_sync : (ends (.barSync p1 3 0)).map (fun t => (t.wait, t.hdr)) = some (.none, 0x100018) := by decide +kernel
/-- R131 -/
theorem test_trap : (ends (.trap p1 0x80)).map (fun t => (t.trap, t.trappc)) = some (0x80, 0x100008) := by decide +kernel
/-- R38: an empty handle that is not bound cannot be filled. -/
theorem test_tfill_unbound : (ends (.tfill p1 5)).map Thread.trap = some 0x08 := by decide +kernel
/-- R124 -/
theorem test_waitc_waits :
    (ran (.waitc p1 .ga 0) (place benchLaunch block0 { midThread with ops := [{ id := 7, cls := .ga }] })).map Thread.wait =
      some (.counter .ga 0) := by decide +kernel
/-- Table 6-10: the tree sum of 1, 2^24, 1 and -2^24. -/
theorem test_redux_tree :
    (xCompute (.reduxF .add .rn false) ([0x3F800000, 0x4B800000, 0x3F800000, 0xCB800000].zipIdx.map fun x =>
      { uid := x.2, lane := x.2, active := true, a := x.1 }) none { uid := 0, lane := 0, active := true }).reg = some 0x3F800000 := by
  decide +kernel
/-- R318: of two groups of one size the taken one keeps the slot. -/
theorem test_split_tie : bestGroup 0x100 [(0x100, [1]), (0x200, [2])] = some (0x200, [2]) := by decide


/-! ### Witnesses: for every statement, a state and operands that meet its hypotheses -/

/-- The data of `Ready` for a course of one thread, as facts that a computation decides. -/
abbrev Stands (f : Fields) (s : State) (t : Thread) (b : Block) (l : Launch) : Prop :=
  s.cur = .course [t.uid] ∧ s.hole = none ∧ course s [t.uid] = [t] ∧ s.block? t.bid = some b ∧ s.launch? t.lid = some l ∧
    t.life = .inSlot ∧ t.wait = .none ∧ f.operandsOk l.rcd.budget = true ∧ l.rcd.chk = false

theorem ready_of {f : Fields} {p : Pre} {s : State} {t : Thread} {b : Block} {l : Launch} (h : Stands f s t b l) :
    Ready f p s [t.uid] t b l := by
  obtain ⟨h1, h2, h3, h4, h5, h6, h7, h8, h9⟩ := h
  refine ⟨h1, h2, by simp, by rw [h3]; rfl, h4, h5, ?_, ?_, h8, fun h => by rw [h9] at h; cases h⟩
  · intro x hx; rw [h3] at hx; simp only [List.mem_singleton] at hx; subst hx; exact ⟨h6, h7⟩
  · intro x hx; rw [h3] at hx; simp only [List.mem_singleton] at hx; subst hx; exact ⟨rfl, rfl, rfl, rfl, rfl⟩

/-- The data of `Held`. -/
abbrev Holds (s : State) (core vf : Nat) (a w : DWord) : Prop :=
  canonicalVa a = true ∧ inVaultRange a = false ∧ cached s.icache (lineBase core vf (remap s vf a)) 128 = true ∧
    lineFull s.l2 (lineBase (coreRow core) vf (remap s vf a)) = true ∧
    cacheBytes s.l2 (lineBase (coreRow core) vf (remap s vf a)) 128 = cacheBytes s.icache (lineBase core vf (remap s vf a)) 128 ∧
    codeWord (cacheBytes s.icache (lineBase core vf (remap s vf a)) 128) a = w
theorem held_of {s : State} {core vf : Nat} {a w : DWord} (h : Holds s core vf a w) : Held s core vf a w :=
  ⟨h.1, h.2.1, h.2.2.1, h.2.2.2.1, h.2.2.2.2.1, h.2.2.2.2.2⟩

/-- The data of `Enterable`. -/
abbrev Enters (s : State) (b : Block) (l : Launch) (H w : DWord) : Prop :=
  Holds s b.core l.vf H w ∧ (Header.of w).check l.rcd.budget = none ∧ (Header.of w).merge = false ∧ (entrantOf s l.lid).isNone = true

theorem enterable_of {s : State} {b : Block} {l : Launch} {H w : DWord} (h : Enters s b l H w) : Enterable s b l H w :=
  ⟨held_of h.1, h.2.1, h.2.2.1, Option.isNone_iff_eq_none.mp h.2.2.2⟩

/-- The caches hold the line of `heldHeader`. -/
abbrev Coded (s : State) (b : Block) (l : Launch) : Prop :=
  s.icache = heldHeader ∧ s.l2 = heldHeader ∧ s.synonyms = [] ∧ b.core = 0 ∧ l.vf = 0
theorem holds_coded {s : State} {b : Block} {l : Launch} (h : Coded s b l) : Holds s b.core l.vf 0x100018 lastHeader := by
  obtain ⟨h1, h2, h3, h4, h5⟩ := h
  have e : remap s 0 0x100018 = 0x100018 := by simp [remap, h3]
  rw [h4, h5]
  simp only [Holds, e, h1, h2]
  decide +kernel

/-- A course whose last word is in progress, before a region header that it may enter. -/
abbrev AtLast (f : Fields) (s : State) (t : Thread) (b : Block) (l : Launch) : Prop :=
  Stands f s t b l ∧ t.idx + 1 = (Header.of t.hword).length ∧ Coded s b l ∧ following t = 0x100018 ∧
    (Header.of lastHeader).check l.rcd.budget = none ∧ (Header.of lastHeader).merge = false ∧ (entrantOf s l.lid).isNone = true
theorem enters_of {f : Fields} {s : State} {t : Thread} {b : Block} {l : Launch} (h : AtLast f s t b l) :
    Enters s b l (following t) lastHeader := by
  obtain ⟨-, -, h1, h2, h3⟩ := h
  rw [h2]
  exact ⟨holds_coded h1, h3⟩

theorem goesOn_of {f : Fields} {s : State} {t : Thread} {b : Block} {l : Launch} (h : AtLast f s t b l) :
    GoesOn f s t b l lastHeader :=
  .inl ⟨h.2.1, enterable_of (enters_of h), fun _ => by decide⟩

/-- What the premises of `Gives` and of `PassesUntaken` come to. -/
def CanRun (f : Fields) (p : Pre) (acts : Bool) : Prop :=
  ∃ s us t0 b l w, Ready f p s us t0 b l ∧ GoesOn f s t0 b l w ∧ ((active s us p).isEmpty = !acts)

def stand : State := place benchLaunch block0 lastThread
def never : Pre := { p1 with g := { Guard.always with n0 := true } }

theorem canRun_of {i : Instr} (h : (encode i).operandsOk 224 = true) : CanRun (encode i) p1 true := by
  have hs : Stands (encode i) stand lastThread block0 benchLaunch :=
    ⟨by decide +kernel, by decide +kernel, by decide +kernel, by decide +kernel, by decide +kernel, by decide +kernel, by decide +kernel, h,
      by decide +kernel⟩
  exact ⟨stand, [3], lastThread, block0, benchLaunch, lastHeader, ready_of hs, goesOn_of ⟨hs, by decide +kernel⟩,
    by decide +kernel⟩

theorem canPass_of {i : Instr} (h : (encode i).operandsOk 224 = true) : CanRun (encode i) never false := by
  have hs : Stands (encode i) stand lastThread block0 benchLaunch :=
    ⟨by decide +kernel, by decide +kernel, by decide +kernel, by decide +kernel, by decide +kernel, by decide +kernel, by decide +kernel, h,
      by decide +kernel⟩
  exact ⟨stand, [3], lastThread, block0, benchLaunch, lastHeader, ready_of hs, goesOn_of ⟨hs, by decide +kernel⟩,
    by decide +kernel⟩

theorem witness_AddSubtract : CanRun (encode (.iadd64 p1 222 0 (.reg 0xE0))) p1 true := canRun_of (by decide +kernel)
theorem witness_Multiply : CanRun (encode (.imad64 p1 222 0 (.imm 1) 0xFE)) p1 true := canRun_of (by decide +kernel)
theorem witness_Divide : CanRun (encode (.idivS p1 223 0 (.imm 0))) p1 true := canRun_of (by decide +kernel)
theorem witness_MinimumMaximum : CanRun (encode (.imaxN p1 223 0 (.imm 0))) p1 true := canRun_of (by decide +kernel)
theorem witness_Logic : CanRun (encode (.lut3 p1 223 0 1 2 0xFF)) p1 true := canRun_of (by decide +kernel)
theorem witness_Shifts : CanRun (encode (.sar64 p1 222 0 (.imm 64))) p1 true := canRun_of (by decide +kernel)
theorem witness_BitOperations : CanRun (encode (.bfi p1 223 0 (.imm 0x2020) 1)) p1 true := canRun_of (by decide +kernel)
theorem witness_CompareSelect : CanRun (encode (.icmpS64 p1 .le 7 0 (.imm 0x800000))) p1 true := canRun_of (by decide +kernel)
theorem witness_DotProduct : CanRun (encode (.idp4S p1 223 0 1 2)) p1 true := canRun_of (by decide +kernel)
theorem witness_Packed : CanRun (encode (.padd8 p1 223 0 (.imm 0) .satN)) p1 true := canRun_of (by decide +kernel)
theorem witness_AddCompareSelect : CanRun (encode (.pacs p1 223 0 1 2 3 .satS 6)) p1 true := canRun_of (by decide +kernel)
theorem witness_Permute : CanRun (encode (.perm p1 223 0 1 (.imm 0x8888))) p1 true := canRun_of (by decide +kernel)
theorem witness_Moves : CanRun (encode (.lea p1 222 0 true 0x800000000000)) p1 true := canRun_of (by decide +kernel)
theorem witness_PredicateMoves : CanRun (encode (.plog p1 7 7 true 0 false .xor)) p1 true := canRun_of (by decide +kernel)
theorem witness_FloatArithmetic : CanRun (encode (.ffmaF64 p1 222 0 2 4 .rna)) p1 true := canRun_of (by decide +kernel)
theorem witness_FloatMinMaxCompare : CanRun (encode (.fcmpF16x2 p1 .nan 6 0 1 true true)) p1 true := canRun_of (by decide +kernel)
theorem witness_FloatDivideRoot : CanRun (encode (.fdivF64 p1 222 0 2 .rd)) p1 true := canRun_of (by decide +kernel)
theorem witness_FloatTranscendental : CanRun (encode (.fsinF64 p1 222 0 .rn)) p1 true := canRun_of (by decide +kernel)
theorem witness_FloatScaleRoundClass : CanRun (encode (.fscaleF64 p1 222 0 2 .rn)) p1 true := canRun_of (by decide +kernel)
theorem witness_FloatConvert : CanRun (encode (.fcvtF32F16x2 p1 222 0 .rn true)) p1 true := canRun_of (by decide +kernel)
theorem witness_MxDequantise : CanRun (encode (.mxdqE2m3 p1 222 0 8 15 3 .rn true)) p1 true := canRun_of (by decide +kernel)

/-- What the premises of `Performs` and of `Performs1` come to. -/
def Meets (i : Instr) (p : Pre) (pre : State → Block → Launch → List Thread → Prop) (after : State → Block → Launch → List Thread → State) :
    Prop :=
  ∃ s us t0 b l w, Ready (encode i) p s us t0 b l ∧ GoesOn (encode i) s t0 b l w ∧ pre s b l (active s us p) ∧
    (after s b l (active s us p)).hole = none ∧ (endsBlock t0 → entrantOf (after s b l (active s us p)) l.lid = none)
def Meets1 (i : Instr) (p : Pre) (pre : State → Block → Launch → Thread → Prop) (after : State → Block → Launch → Thread → State) : Prop :=
  Meets i p (fun s b l ts => ∃ t, ts = [t] ∧ pre s b l t) (fun s b l ts => match ts with | [t] => after s b l t | _ => s)

theorem meets_of {i : Instr} {p : Pre} {pre : State → Block → Launch → List Thread → Prop}
    {after : State → Block → Launch → List Thread → State} (s : State) (t : Thread) (b : Block) (l : Launch)
    (h : AtLast (encode i) s t b l) (ha : active s [t.uid] p = [t]) (hp : pre s b l [t]) (hh : (after s b l [t]).hole = none)
    (he : (entrantOf (after s b l [t]) l.lid).isNone = true) : Meets i p pre after :=
  ⟨s, [t.uid], t, b, l, lastHeader, ready_of h.1, goesOn_of h, by rw [ha]; exact hp, by rw [ha]; exact hh,
    fun _ => by rw [ha]; exact Option.isNone_iff_eq_none.mp he⟩

theorem meets1_of {i : Instr} {p : Pre} {pre : State → Block → Launch → Thread → Prop} {after : State → Block → Launch → Thread → State}
    (s : State) (t : Thread) (b : Block) (l : Launch) (h : AtLast (encode i) s t b l) (ha : active s [t.uid] p = [t])
    (hp : pre s b l t) (hh : (after s b l t).hole = none) (he : (entrantOf (after s b l t) l.lid).isNone = true) :
    Meets1 i p pre after :=
  meets_of s t b l h ha ⟨t, rfl, hp⟩ hh he

def vaultThread : Thread := withRegs vaultRegs lastThread
/-- The first place of the window, and the last place for `n` bytes. -/
abbrev atFirst : Place := .vault vaultSpace
abbrev atEnd (n : Nat) : Place := .vault (vaultSpace + 65536 - n)

theorem witness_AddressChecks :
    (canonicalVa 0x0100000000000000 = false) ∧
    (canonicalVa 0x00FFFFFFFFFFFFFF = true ∧ (0x00FFFFFFFFFFFFFF#64).toNat % 2 ≠ 0) ∧
    (canonicalVa 0x00FF00002FFFFFFC = true ∧ (0x00FF00002FFFFFFC#64).toNat % 4 = 0 ∧ inAperture 0x00FF00002FFFFFFC = true) ∧
    (canonicalVa 0x00FF000030000000 = true ∧ (0x00FF000030000000#64).toNat % 4 = 0 ∧ inVaultRange 0x00FF000030000000 = true ∧
      inAperture 0x00FF000030000000 = false) := by decide +kernel
theorem witness_PlacesHoldBytes : 0 < (List.replicate 8 (1 : Byte)).length ∧
    va57 0x100078 % 128 + (List.replicate 8 (1 : Byte)).length ≤ 128 := by decide +kernel

/-- An access to the window resolves at once. -/
theorem lands_of {acc : Acc} {addr : Launch → Thread → DWord} {n align : Nat} {h : Hint} {k : Nat} {s : State} {b : Block} {l : Launch}
    {t : Thread}
    (hc : canonicalVa (addr l t) = true ∧ (addr l t).toNat % align = 0 ∧ inAperture (addr l t) = true ∧ inWindow b (addr l t) n = true ∧
      vaultSpace + ((addr l t).toNat - vaultBase) = k) : LandsAt acc addr n align h (.vault k) s b l t := by
  obtain ⟨h1, h2, h3, h4, rfl⟩ := hc
  simp [LandsAt, resolve, h1, h2, h3, h4]

theorem lands_cached {addr : Launch → Thread → DWord} {n align : Nat} {h : Hint} {va : DWord} {s : State} {b : Block} {l : Launch} {t : Thread}
    (hc : canonicalVa (addr l t) = true ∧ (addr l t).toNat % align = 0 ∧ inAperture (addr l t) = false ∧ inVaultRange (addr l t) = false ∧
      remap s l.vf (addr l t) = va ∧ servedByCaches s b.core l.vf va n h = true) : LandsAt .load addr n align h (.cachedAt va) s b l t := by
  obtain ⟨h1, h2, h3, h4, rfl, h6⟩ := hc
  simp [LandsAt, resolve, h1, h2, h3, h4, h6]

theorem misaligned_of {acc : Acc} {a : DWord} {n align : Nat} {h : Hint} {s : State} {b : Block} {vf : Nat}
    (hc : canonicalVa a = true ∧ a.toNat % align ≠ 0) : resolve s b vf a n align acc h = (.error (.trap 0x05), s) := by
  simp [resolve, hc.1, hc.2]

/-- What the premises of a load or atomic that is performed at once come to: nothing is in flight. -/
def fresh0 (s : State) : Prop := s.flight = [] ∧ ∀ t ∈ s.threads, t.pend = []
theorem names_of {s : State} {t : Thread} (h : fresh0 s) : NamesNew s t :=
  ⟨fun x hx => by simp [h.1] at hx, fun u hu q hq => by
    have := h.2 u (List.mem_of_find?_eq_some hu); simp [this] at hq⟩
theorem none_of {s : State} {xs : List Access} (h : fresh0 s) : NoneBefore s xs := fun x hx => by simp [h.1] at hx
theorem performed_of {s : State} {t : Thread} (h : fresh0 s) : Performed s t := fun x hx => by simp [h.1] at hx

/-- What the premises of `LoadsAs` come to, for an access whose place is not, or is, in the caches. -/
def CanLoad (i : Instr) (addr : Launch → Thread → DWord) (n : Nat) (h : Hint) (d : Reg) (pl : Place) : Prop :=
  isCached pl = false ∧ Meets1 i p1 (LandsAt .load addr n n h pl) (fun s b l t => sent s (loadAccesses pl n h .words d s b l t))
theorem witness_Loads_first : CanLoad (.ld128 p1 8 2 0 .dflt) (at_ 2 0) 16 .dflt 8 atFirst :=
  ⟨rfl, meets1_of (window [1]) vaultThread block0 benchLaunch (by decide +kernel) (by decide +kernel) (lands_of (by decide +kernel))
    (by decide +kernel) (by decide +kernel)⟩
theorem witness_Loads_last : CanLoad (.ldS8 p1 8 2 0xFFFF .dflt) (at_ 2 0xFFFF) 1 .dflt 8 (atEnd 1) :=
  ⟨rfl, meets1_of (window [1]) vaultThread block0 benchLaunch (by decide +kernel) (by decide +kernel) (lands_of (by decide +kernel))
    (by decide +kernel) (by decide +kernel)⟩
theorem witness_Loads_stack : CanLoad (.ldl64 p1 8 true 4 0 .dflt) (atStack true 4 0) 8 .dflt 8 atFirst :=
  ⟨rfl, meets1_of (place benchLaunch block0 { lastThread with stack := 0x00FF000000000000 }) { lastThread with stack := 0x00FF000000000000 }
    block0 benchLaunch (by decide +kernel) (by decide +kernel) (lands_of (by decide +kernel)) (by decide +kernel) (by decide +kernel)⟩
theorem witness_Loads_ldnf : CanLoad (.ldnf p1 8 2 2 0 7 .dflt) (at_ 2 0) 16 .dflt 8 atFirst :=
  ⟨rfl, meets1_of (window [1]) vaultThread block0 benchLaunch (by decide +kernel) (by decide +kernel) (lands_of (by decide +kernel))
    (by decide +kernel) (by decide +kernel)⟩
/-- The line of code is data too: it stands in L1 and in L2. -/
def pointing : Thread := withRegs [(2, 0x100018)] lastThread
def caching : State := { place benchLaunch block0 pointing with l1 := heldHeader }
theorem witness_Loads_cached : Meets1 (.ld64 p1 8 2 0 .dflt) p1
    (fun s b l t => LandsAt .load (at_ 2 0) 8 8 .dflt (.cachedAt 0x100018) s b l t ∧ NamesNew s t ∧
      NoneBefore s (loadAccesses (.cachedAt 0x100018) 8 .dflt .words 8 s b l t))
    (fun s b l _ => (loadPieces (.cachedAt 0x100018) 8 .dflt s b l).2) :=
  meets1_of caching pointing block0 benchLaunch (by decide +kernel) (by decide +kernel)
    ⟨lands_cached (by decide +kernel), names_of ⟨by decide +kernel, by decide +kernel⟩, none_of ⟨by decide +kernel, by decide +kernel⟩⟩
    (by decide +kernel) (by decide +kernel)
theorem witness_Loads_ldnf_fails : Meets1 (.ldnf p1 8 0 2 1 7 .dflt) p1
    (fun s b l t => resolve s b l.vf (at_ 2 1 l t) 4 4 .load .dflt = (.error (.trap 0x05), s)) (fun s _ _ _ => s) :=
  meets1_of (window [1]) vaultThread block0 benchLaunch (by decide +kernel) (by decide +kernel) (misaligned_of (by decide +kernel)) (by decide +kernel)
    (by decide +kernel)
/-- What the premises of a store come to; `t` may stand after a FENCE.rel. -/
def CanStore (i : Instr) (off : BitVec 24) (n : Nat) (h : Hint) (rel : Option Scope) (pl : Place) (bs : Launch → Thread → List Byte) : Prop :=
  Meets1 i p1 (LandsAt .store (at_ 2 off) n n h pl)
    (fun s b l t => sent (unfenced pl s l t) (storeAccesses pl (fencedHint t h) rel (bs l t) s b l t))
theorem witness_Stores_first : CanStore (.st32 p1 2 0 4 .dflt) 0 4 .dflt none atFirst (fun l t => bytesOf 4 (readReg l t 4).toNat) :=
  meets1_of (window [1]) vaultThread block0 benchLaunch (by decide +kernel) (by decide +kernel) (lands_of (by decide +kernel)) (by decide +kernel)
    (by decide +kernel)
theorem witness_Stores_last : CanStore (.zline p1 2 0xFF80 .dflt) 0xFF80 128 .dflt none (atEnd 128) (fun _ _ => List.replicate 128 0) :=
  meets1_of (window [1]) vaultThread block0 benchLaunch (by decide +kernel) (by decide +kernel) (lands_of (by decide +kernel)) (by decide +kernel)
    (by decide +kernel)
theorem witness_ScopedAccesses_load : Meets1 (.lda64 p1 8 2 0 .acq .th) p1
    (fun s b l t => LandsAt .load (at_ 2 0) 8 8 (pointHint .th) atFirst s b l t ∧ NamesNew s t ∧
      NoneBefore s (loadAccesses atFirst 8 (pointHint .th) .words 8 s b l t))
    (fun s b l _ => acquire (loadPieces atFirst 8 (pointHint .th) s b l).2 b.core l.vf (actsAt atFirst .th)) :=
  meets1_of (window [1]) vaultThread block0 benchLaunch (by decide +kernel) (by decide +kernel)
    ⟨lands_of (by decide +kernel), names_of ⟨by decide +kernel, by decide +kernel⟩, none_of ⟨by decide +kernel, by decide +kernel⟩⟩
    (by decide +kernel) (by decide +kernel)
theorem witness_ScopedAccesses_store : CanStore (.str32 p1 2 0xFFFC 4 .rel .qd) 0xFFFC 4 (pointHint .qd) (releaseScope .rel (atEnd 4) .qd)
    (atEnd 4) (bytesFrom 4 1) :=
  meets1_of (window [1]) vaultThread block0 benchLaunch (by decide +kernel) (by decide +kernel) (lands_of (by decide +kernel)) (by decide +kernel)
    (by decide +kernel)
theorem witness_ScopedAccesses_fenced : CanStore (.str32 p1 2 0 4 .rlx .qd) 0 4 (pointHint .qd) none atFirst (bytesFrom 4 1) :=
  meets1_of (memWrite (place benchLaunch block0 { vaultThread with relScope := some .sy }) vaultSpace [1]) { vaultThread with relScope := some .sy }
    block0 benchLaunch (by decide +kernel) (by decide +kernel) (lands_of (by decide +kernel)) (by decide +kernel) (by decide +kernel)

/-- What the premises of `ActsAtomically` come to, for the bytes at the first place of the window. -/
def CanAct (i : Instr) (ret : Option Reg) (n : Nat) (op : AtomOp) (sem : Sem) (sc : Scope) (marked pcie : Bool) : Prop :=
  let may (s : State) (b : Block) (l : Launch) (t : Thread) : Prop :=
    LandsAt .atomic (at_ 2 0) n n (pointHint sc) atFirst s b l t ∧ hostBars pcie s atFirst = false ∧ (marked = true → l.rcd.det = false)
  let acc := atomAccess ret n op (fun l t => (readReg l t 4).setWidth 128) (fun l t => (readReg l t 4).setWidth 128) sem sc atFirst
  if isAcquire sem = true then
    Meets1 i p1 (fun s b l t => may s b l t ∧ NamesNew s t ∧ NoneBefore s [acc s b l t])
      (fun s b l t =>
        let z := acc s b l t
        let s := unfenced atFirst s l t
        let s := match releaseScope sem atFirst sc with | some r => releaseNow s t.uid b.core l.vf r false | none => s
        let r := loadAt s b.core l.lid l.vf atFirst n z.hint true true
        acquired sem atFirst sc (storeAt r.2 b.core l.lid l.vf atFirst r.1 z.hint false) b l)
  else Meets1 i p1 may (fun s b l t => sent s [acc s b l t])
theorem witness_Atomics32 : CanAct (.atom32Add p1 8 2 0 4 .rlx .qd) (some 8) 4 (.int .add) .rlx .qd false true :=
  meets1_of (window [1]) vaultThread block0 benchLaunch (by decide +kernel) (by decide +kernel)
    ⟨lands_of (by decide +kernel), by decide +kernel, by decide +kernel⟩ (by decide +kernel) (by decide +kernel)
theorem witness_Atomics32_marked : CanAct (.atom32Exch p1 8 2 0 4 .ar .qd) (some 8) 4 .exch .ar .qd true true :=
  meets1_of (window [1]) vaultThread block0 benchLaunch (by decide +kernel) (by decide +kernel)
    ⟨⟨lands_of (by decide +kernel), by decide +kernel, by decide +kernel⟩, names_of ⟨by decide +kernel, by decide +kernel⟩,
      none_of ⟨by decide +kernel, by decide +kernel⟩⟩ (by decide +kernel) (by decide +kernel)
theorem witness_AtomicsWideFloat : CanAct (.atomCas128 p1 8 2 0 4 12 .rlx .sy) (some 8) 16 .cas .rlx .sy true true :=
  meets1_of (window [1]) vaultThread block0 benchLaunch (by decide +kernel) (by decide +kernel)
    ⟨lands_of (by decide +kernel), by decide +kernel, by decide +kernel⟩ (by decide +kernel) (by decide +kernel)

theorem witness_FencesAndCacheControl_fence : Meets (.fence p1 .ar .cr) p1 (fun s _ _ ts => ∀ t ∈ ts, Performed s t)
    (fun s b l ts => ts.foldl (fun s t => acquire (releaseNow s t.uid b.core l.vf .cr) b.core l.vf .cr) s) :=
  meets_of stand lastThread block0 benchLaunch (by decide +kernel) (by decide +kernel)
    (fun _ _ => performed_of ⟨by decide +kernel, by decide +kernel⟩) (by decide +kernel) (by decide +kernel)
theorem witness_FencesAndCacheControl_cctl : Meets1 (.cctl p1 .wball true 0 0) p1 (fun s _ _ t => Performed s t)
    (fun s b _ _ => wbL2 (wbL1 s fun k => keyUnit k == b.core) fun k => keyUnit k == coreRow b.core) :=
  meets1_of stand lastThread block0 benchLaunch (by decide +kernel) (by decide +kernel) (performed_of ⟨by decide +kernel, by decide +kernel⟩)
    (by decide +kernel) (by decide +kernel)
theorem addrq_zero {s : State} {vf : Nat} {a : DWord} (h : canonicalVa a = false) : addrq s vf a = (0, s) := by simp [addrq, h]
theorem witness_FencesAndCacheControl_addrq : Meets1 (.addrq p1 8 4 0) p1 (fun s _ l t => addrq s l.vf (at_ 4 0 l t) = (0, s))
    (fun s _ _ _ => s) :=
  meets1_of (window [1]) vaultThread block0 benchLaunch (by decide +kernel) (by decide +kernel) (addrq_zero (by decide +kernel))
    (by decide +kernel) (by decide +kernel)

/-- What the premises of `TrapsAll` come to. -/
def CanTrap (i : Instr) (pre : State → Block → Launch → Thread → Prop) : Prop :=
  ∃ s us t0 b l w, Ready (encode i) p1 s us t0 b l ∧ GoesOn (encode i) s t0 b l w ∧
    (∀ t ∈ course s us, guardHolds p1.g t = true ∧ pre s b l t) ∧ l.term = none
theorem canTrap_of {i : Instr} {pre : State → Block → Launch → Thread → Prop} (s : State) (t : Thread) (b : Block) (l : Launch)
    (h : AtLast (encode i) s t b l) (ha : guardHolds p1.g t = true) (hp : pre s b l t) (ht : l.term.isNone = true) : CanTrap i pre :=
  ⟨s, [t.uid], t, b, l, lastHeader, ready_of h.1, goesOn_of h, by
    intro x hx; rw [h.1.2.2.1] at hx; simp only [List.mem_singleton] at hx; subst hx; exact ⟨ha, hp⟩, Option.isNone_iff_eq_none.mp ht⟩

theorem witness_LaneTraps_canonical : CanTrap (.ld32 p1 8 4 0 .dflt) (fun _ _ l t => canonicalVa (at_ 4 0 l t) = false) :=
  canTrap_of (window [1]) vaultThread block0 benchLaunch (by decide +kernel) (by decide +kernel) (by decide +kernel) (by decide +kernel)
theorem witness_LaneTraps_misaligned : CanTrap (.st64 p1 2 4 4 .dflt)
    (fun _ _ l t => canonicalVa (at_ 2 4 l t) = true ∧ (at_ 2 4 l t).toNat % 8 ≠ 0) :=
  canTrap_of (window [1]) vaultThread block0 benchLaunch (by decide +kernel) (by decide +kernel) (by decide +kernel) (by decide +kernel)
theorem witness_LaneTraps_deterministic : CanTrap (.atom32Exch p1 8 2 0 4 .rlx .qd)
    (fun _ _ l t => canonicalVa (at_ 2 0 l t) = true ∧ (at_ 2 0 l t).toNat % 4 = 0 ∧ l.rcd.det = true) :=
  canTrap_of (place { benchLaunch with rcd := { benchRecord with det := true } } block0 vaultThread) vaultThread block0
    { benchLaunch with rcd := { benchRecord with det := true } } (by decide +kernel) (by decide +kernel) (by decide +kernel) (by decide +kernel)
theorem witness_LaneTraps_target : CanTrap (.brx p1 6)
    (fun _ _ l t => (readPair l t 6).toNat % 8 ≠ 0 ∨ canonicalVa (readPair l t 6) = false ∨ readPair l t 6 = 0) :=
  canTrap_of stand lastThread block0 benchLaunch (by decide +kernel) (by decide +kernel) (by decide +kernel) (by decide +kernel)

/-! Control, waits and traps -/

/-- What the premises of `JumpsTo` come to. -/
def CanJump (i : Instr) (zeroBad : Bool) (target : Launch → Thread → DWord) (pre : State → Block → Launch → Thread → Prop) : Prop :=
  ∃ s us t0 b l T w, Ready (encode i) p1 s us t0 b l ∧ endsBlock t0 ∧
    (∀ t ∈ course s us, guardHolds p1.g t = true ∧ target l t = T ∧ pre s b l t) ∧ T.toNat % 8 = 0 ∧ canonicalVa T = true ∧
    (zeroBad = true → T ≠ 0) ∧ Enterable s b l T w
theorem canJump_of {i : Instr} {zeroBad : Bool} {target : Launch → Thread → DWord} {pre : State → Block → Launch → Thread → Prop}
    (s : State) (t : Thread) (b : Block) (l : Launch) (h : AtLast (encode i) s t b l)
    (ht : guardHolds p1.g t = true ∧ target l t = following t) (hp : pre s b l t)
    (hT : (following t).toNat % 8 = 0 ∧ canonicalVa (following t) = true ∧ following t ≠ 0) : CanJump i zeroBad target pre :=
  ⟨s, [t.uid], t, b, l, following t, lastHeader, ready_of h.1, h.2.1, by
    intro x hx; rw [h.1.2.2.1] at hx; simp only [List.mem_singleton] at hx; subst hx; exact ⟨ht.1, ht.2, hp⟩, hT.1, hT.2.1, fun _ => hT.2.2,
    enterable_of (enters_of h)⟩

theorem witness_Branches_direct : CanJump (.call p1 3) false (fun _ t => t.hdr + (3#24).signExtend 64 * 8) (fun _ _ _ _ => True) :=
  canJump_of stand lastThread block0 benchLaunch (by decide +kernel) (by decide +kernel) trivial (by decide +kernel)
def aimed : Thread := { lastThread with regs := [(2, 0x100018)], link := 0x100018 }
theorem witness_Branches_register : CanJump (.brx p1 2) true (fun l t => readPair l t 2) (fun _ _ _ _ => True) :=
  canJump_of (place benchLaunch block0 aimed) aimed block0 benchLaunch (by decide +kernel) (by decide +kernel) trivial (by decide +kernel)
theorem witness_Branches_ret : CanJump (.ret p1) true (fun _ t => t.link) (fun _ _ _ _ => True) :=
  canJump_of (place benchLaunch block0 aimed) aimed block0 benchLaunch (by decide +kernel) (by decide +kernel) trivial (by decide +kernel)
theorem witness_Branches_table : CanJump (.brt p1 2 6 2 .dflt) true (fun _ _ => 0x100018) (fun s k l t =>
    let e := readPair l t 2 + 8 * (readReg l t 6).setWidth 64
    Performed s t ∧ (readReg l t 6).toNat < (2#24).toNat ∧ canonicalVa e = true ∧ e.toNat % 8 = 0 ∧ inAperture e = true ∧ inWindow k e 8 = true ∧
      memWord s (vaultSpace + (e.toNat - vaultBase)) = 0x100018) :=
  canJump_of (memWrite (place benchLaunch block0 (withRegs [(3, 0x00FF0000), (6, 1)] lastThread)) (vaultSpace + 8) [0x18, 0, 0x10])
    (withRegs [(3, 0x00FF0000), (6, 1)] lastThread) block0 benchLaunch (by decide +kernel) (by decide +kernel)
    ⟨performed_of ⟨by decide +kernel, by decide +kernel⟩, by decide +kernel⟩ (by decide +kernel)
theorem witness_Branches_untaken : CanRun (encode (.brt never 2 6 2 .dflt)) never false := canPass_of (i := .brt never 2 6 2 .dflt) (by decide +kernel)
theorem witness_Branches_outside : Stands (encode (.brt p1 2 6 2 .dflt)) (place benchLaunch block0 (withRegs [(6, 2)] lastThread))
    (withRegs [(6, 2)] lastThread) block0 benchLaunch ∧ (2#24).toNat ≤ (readReg benchLaunch (withRegs [(6, 2)] lastThread) 6).toNat := by
  decide +kernel
theorem witness_DivergenceKeepsLargest : [3, 1, 2].Nodup ∧ [3, 1, 2] ≠ [] := by decide

def full : Thread := { lastThread with ops := List.replicate 63 { id := 9, cls := .mx } }
theorem witness_Waiting_full : cmdClass (encode (.mpost p1 2 3)).op.toNat = some .mx ∧ (place benchLaunch block0 full).cur = .course [3] ∧
    full ∈ [3].filterMap (place benchLaunch block0 full).thread? ∧ guardHolds (encode (.mpost p1 2 3)).g full = true ∧ 63 ≤ ecnt full .mx := by
  decide +kernel
theorem witness_Waiting_nop : Meets (.nop p1) p1 (fun _ _ _ _ => True) (fun s _ _ _ => s) :=
  meets_of stand lastThread block0 benchLaunch (by decide +kernel) (by decide +kernel) trivial (by decide +kernel) (by decide +kernel)
theorem witness_Waiting_bkpt : Meets (.bkpt p1) p1 (fun s _ l _ => fnField s l.vf 1 1 = 0) (fun s _ _ _ => s) :=
  meets_of stand lastThread block0 benchLaunch (by decide +kernel) (by decide +kernel) (by decide +kernel) (by decide +kernel) (by decide +kernel)
theorem witness_Waiting_waitc : Meets (.waitc p1 .rp 63) p1
    (fun s _ l ts => roundShut s l.lid = false ∧ ∀ t ∈ ts, t.acq = []) (fun s _ _ _ => s) :=
  meets_of stand lastThread block0 benchLaunch (by decide +kernel) (by decide +kernel) (by decide +kernel) (by decide +kernel) (by decide +kernel)
def acquiring : Thread := { midThread with acq := [.mx] }
theorem witness_Waiting_acquires : ∃ s us t0 b l w, Ready (encode (.waitc p1 .mx 0)) p1 s us t0 b l ∧ GoesOn (encode (.waitc p1 .mx 0)) s t0 b l w ∧
    (∃ t, active s us p1 = [t] ∧ ecnt t .mx ≤ 0 ∧ .mx ∈ t.acq) ∧ (acquire s b.core l.vf .qd).hole = none ∧ ¬ endsBlock t0 :=
  ⟨place benchLaunch block0 acquiring, [3], acquiring, block0, benchLaunch, 0,
    ready_of (t := acquiring) (by decide +kernel), .inr (by unfold endsBlock; decide +kernel), ⟨acquiring, by decide +kernel, by decide +kernel, by decide +kernel⟩,
    by decide +kernel, by unfold endsBlock; decide +kernel⟩
theorem witness_Waiting_sleep : 0 ≤ (0x7FFFFF#24).toInt ∧
    Meets (.sleep p1 0x7FFFFF) p1 (fun s _ l _ => roundShut s l.lid = false) (fun s _ _ _ => s) :=
  ⟨by decide, meets_of stand lastThread block0 benchLaunch (by decide +kernel) (by decide +kernel) (by decide +kernel) (by decide +kernel)
    (by decide +kernel)⟩
/-- Does a word give a next state? -/
def isNext : Host.Outcome State Fault Refusal → Bool
  | .next _ => true
  | _ => false
theorem next_of {o : Host.Outcome State Fault Refusal} (h : isNext o = true) : ∃ z, o = .next z := by
  cases o with
  | next z => exact ⟨z, rfl⟩
  | fault => cases h
  | refused => cases h
theorem witness_Waiting_yield : Stands (encode (.yield p1 .cr)) stand lastThread block0 benchLaunch ∧ active stand [3] p1 ≠ [] ∧
    ∃ z, exec (.yield p1 .cr) stand = .next z :=
  ⟨by decide +kernel, by decide +kernel, next_of (by decide +kernel)⟩

theorem witness_TrapInstructions_trap : 0x80 ≤ (0x80#8).toNat ∧ CanTrap (.trap p1 0x80) (fun _ _ _ _ => True) :=
  ⟨by decide, canTrap_of stand lastThread block0 benchLaunch (by decide +kernel) (by decide +kernel) trivial (by decide +kernel)⟩
def debugged : State := setFn stand 0 1 1 1
theorem witness_TrapInstructions_bkpt : CanTrap (.bkpt p1) (fun s _ l _ => fnField s l.vf 1 1 = 1) :=
  canTrap_of debugged lastThread block0 benchLaunch (by decide +kernel) (by decide +kernel) (by decide +kernel) (by decide +kernel)
theorem witness_TrapInstructions_untaken : CanRun (encode (.trap never 0xFF)) never false := canPass_of (i := .trap never 0xFF) (by decide +kernel)
theorem witness_TrapInstructions_udf : stand.cur = .course [3] ∧ stand.hole = none ∧ [3].Nodup ∧
    ([3].filterMap stand.thread?).head? = some lastThread ∧
    ∀ t ∈ [3].filterMap stand.thread?, t.hdr = lastThread.hdr ∧ t.idx = lastThread.idx ∧ t.life = .inSlot := by decide +kernel

/-- A barrier that expects `c` threads and that the only thread of the block has yet to reach. -/
def Alone (s : State) (b : Block) (t : Thread) (n : Nat) : Prop :=
  (getBarrier b n).arrived = [] ∧ (getBarrier b n).seq = 0 ∧ b.stream = none ∧ (∀ x ∈ s.threads, x.bid = b.bid → x.uid = t.uid) ∧
    ∀ x ∈ s.slots, t.uid ∈ x.uids → ∀ v ∈ x.uids, v = t.uid
theorem witness_Barriers_arrives : Meets1 (.barArr p1 2 15 2) p1 (fun s b _ t =>
    ((t.uid ∉ (getBarrier b 15).arrived ∧ (((getBarrier b 15).arrived = [] ∧ (getBarrier b 15).seq = 0) ∨ (getBarrier b 15).expected = 2)) ∧
      (getBarrier b 15).arrived.length + (getBarrier b 15).seq + 1 ≠ barrierNeed s b.bid { getBarrier b 15 with expected := 2 }) ∧ Performed s t)
    (fun s b l t => setBarrier (releaseNow s t.uid b.core l.vf .cr) b.bid 15
      { getBarrier b 15 with expected := 2, arrived := (getBarrier b 15).arrived ++ [t.uid] }) :=
  meets1_of stand lastThread block0 benchLaunch (by decide +kernel) (by decide +kernel)
    ⟨by decide +kernel, performed_of ⟨by decide +kernel, by decide +kernel⟩⟩ (by decide +kernel) (by decide +kernel)
theorem witness_Barriers_alone : Meets1 (.barSync p1 0 1) p1 (fun s b _ t => Alone s b t 0 ∧ Performed s t)
    (fun s b l t => acquire (setBarrier (releaseNow s t.uid b.core l.vf .cr) b.bid 0
      { getBarrier b 0 with expected := 1, arrived := [], phase := !(getBarrier b 0).phase }) b.core l.vf .cr) :=
  meets1_of stand lastThread block0 benchLaunch (by decide +kernel) (by decide +kernel)
    ⟨by unfold Alone; decide +kernel, performed_of ⟨by decide +kernel, by decide +kernel⟩⟩ (by decide +kernel) (by decide +kernel)
theorem witness_Barriers_wait : Meets (.barWait p1 2 15) p1 (fun s _ l _ => roundShut s l.lid = false)
    (fun s b l ts => ts.foldl (fun s t => if (getBarrier b 15).phase = (readReg l t 2).getLsbD 0 then s else acquire s b.core l.vf .cr) s) :=
  meets_of stand lastThread block0 benchLaunch (by decide +kernel) (by decide +kernel) (by decide +kernel) (by decide +kernel) (by decide +kernel)
theorem witness_Barriers_sync_waits : AtLast (encode (.barSync p1 15 1024)) stand lastThread block0 benchLaunch ∧
    active stand [3] p1 = [lastThread] ∧ stand.flight = [] ∧ roundShut stand benchLaunch.lid = false ∧
    lastThread.uid ∉ (getBarrier block0 15).arrived ∧
    (getBarrier block0 15).arrived = [] ∧ (getBarrier block0 15).seq = 0 ∧
    (getBarrier block0 15).arrived.length + (getBarrier block0 15).seq + 1 ≠
      barrierNeed stand block0.bid { getBarrier block0 15 with expected := 1024 } := by decide +kernel

theorem witness_Exit : AtLast (encode (.exit p1)) stand lastThread block0 benchLaunch ∧ (entrantOf stand benchLaunch.lid).isNone = true ∧
    (∀ x ∈ stand.blocks, x.bid = block0.bid → x.xinsts = []) ∧ ∀ x ∈ block0.barriers, x.arrived = [] ∧ x.seq = 0 := by decide +kernel

theorem witness_Spawn :
    let a := releaseNow stand lastThread.uid block0.core benchLaunch.vf .dv
    AtLast (encode (.spawn p1 0 3)) stand lastThread block0 benchLaunch ∧ active stand [3] p1 = [lastThread] ∧
    a.hole = none ∧ block0.lid = benchLaunch.lid ∧ block0.spawns = [] ∧
    block0.packs = [] ∧ benchLaunch.nextTid ≠ noThread ∧
    stand.flight = [] ∧ childFits stand block0 benchLaunch.rcd.budget = true ∧
    stand.thread? stand.nextId = none ∧ stand.nextId ∉ [3] := by decide +kernel

theorem witness_CrossLane : AtLast (encode (.shflXor p1 8 2 (.imm 31) 5 3 7)) stand lastThread block0 benchLaunch ∧
    (∀ x ∈ stand.blocks, x.bid = block0.bid → x.xinsts = []) ∧
    (∀ t ∈ course stand [3], guardHolds p1.g t = true ∧ t.gang = lastThread.gang) ∧
    ∀ x ∈ gangMembers stand block0.bid lastThread.gang, x.uid ∈ [3] := by decide +kernel
def arrivals : List Arrival := [⟨1, 0, true, 5, 31, true, 0⟩, ⟨3, 4, false, 9, 0, true, 0⟩, ⟨2, 31, true, 7, 0, false, 0⟩]
theorem witness_CrossLaneValues : ⟨2, 31, true, 7, 0, false, 0⟩ ∈ arrivals ∧ (⟨2, 31, true, 7, 0, false, 0⟩ : Arrival).active = true ∧
    (∀ x ∈ arrivals, x.lane < 32) ∧ (arrivals.map Arrival.lane).Nodup := by decide

theorem witness_SpecialRegisters_sreg : Meets (.sreg p1 2 true 0x18) p1 (fun _ _ _ _ => True) (fun s _ _ _ => s) :=
  meets_of stand lastThread block0 benchLaunch (by decide +kernel) (by decide +kernel) trivial (by decide +kernel) (by decide +kernel)
theorem witness_SpecialRegisters_sset : Meets1 (.sset p1 0x18 2) p1
    (fun _ _ l t => ssetBad 0x18 ((readReg l t 2).setWidth 64) = false)
    (fun s _ l t => updBlock s t.bid fun b => { b with estat := b.estat &&& ~~~((readReg l t 2).setWidth 3) }) :=
  meets1_of (place benchLaunch block0 (withRegs [(2, 7)] lastThread)) (withRegs [(2, 7)] lastThread) block0 benchLaunch (by decide +kernel)
    (by decide +kernel) (by decide +kernel) (by decide +kernel) (by decide +kernel)
theorem witness_SpecialRegisters_trap : CanTrap (.sset p1 0x13 2) (fun _ _ l t => 63 < ((readReg l t 2).setWidth 64 : DWord).toNat) :=
  canTrap_of (place benchLaunch block0 (withRegs [(2, 64)] lastThread)) (withRegs [(2, 64)] lastThread) block0 benchLaunch (by decide +kernel)
    (by decide +kernel) (by decide +kernel) (by decide +kernel)

theorem witness_RandomTimeCounters_rng : (2#2) ≠ 3 ∧ Meets (.rng p1 4 2 true) p1 (fun _ _ _ _ => True) (fun s _ _ _ => s) :=
  ⟨by decide, meets_of stand lastThread block0 benchLaunch (by decide +kernel) (by decide +kernel) trivial (by decide +kernel) (by decide +kernel)⟩
theorem witness_RandomTimeCounters_clock : Meets (.clock p1 4) p1 (fun _ _ _ _ => True) (fun s _ _ ts => { s with free := s.free + ts.length }) :=
  meets_of stand lastThread block0 benchLaunch (by decide +kernel) (by decide +kernel) trivial (by decide +kernel) (by decide +kernel)
def counting : Thread := withRegs [(2, 0x111)] lastThread
theorem witness_RandomTimeCounters_pmcfg : AtLast (encode (.pmcfg p1 3 2)) (place benchLaunch block0 counting) counting block0 benchLaunch ∧
    active (place benchLaunch block0 counting) [3] p1 = [counting] ∧ isReplay benchLaunch.parent = false ∧
    (readReg benchLaunch counting 2).toNat % 256 ≤ 0x11 ∧ (readReg benchLaunch counting 2).toNat < 512 := by decide +kernel
theorem witness_RandomTimeCounters_trap : CanTrap (.pmcfg p1 3 2)
    (fun _ _ l t => 0x11 < (readReg l t 2).toNat % 256 ∨ 512 ≤ (readReg l t 2).toNat) :=
  canTrap_of (place benchLaunch block0 (withRegs [(2, 0x200)] lastThread)) (withRegs [(2, 0x200)] lastThread) block0 benchLaunch
    (by decide +kernel) (by decide +kernel) (by decide +kernel) (by decide +kernel)

/-! Commands -/

def ctxOf0 (b : Block) (l : Launch) (t : Thread) : Ctx :=
  { f := { op := 0 }, uids := [t.uid], act := [t.uid], b := b, l := l, core := b.core, vf := l.vf, H := t.hdr, pc := wordAt t,
    Hn := following t, next := none, isLast := true }
def readOk {α : Type} (o : Except Trip α × State) : Bool :=
  match o.1 with
  | .ok _ => true
  | .error _ => false
def readValue {α : Type} (z : α) (o : Except Trip α × State) : α :=
  match o.1 with
  | .ok x => x
  | .error _ => z
theorem readOk_eq {α : Type} {o : Except Trip α × State} (z : α) (h : readOk o = true) : o = (.ok (readValue z o), o.2) := by
  obtain ⟨⟨e⟩ | ⟨x⟩, s⟩ := o
  · cases h
  · rfl

/-- What the premises of `Commands` come to, `x` being what is read. -/
def CanCommand {α : Type} (i : Instr) (cls : Option EngClass) (rd : Ctx → Thread → State → Except Trip α × State)
    (pre : α → Ctx → State → Thread → Prop) (after : α → Ctx → State → Thread → State) : Prop :=
  ∃ x s us t0 t b l w c r, Ready (encode i) p1 s us t0 b l ∧ GoesOn (encode i) s t0 b l w ∧ active s us p1 = [t] ∧ Of c b l t ∧
    Performed s t ∧ (∀ k, cls = some k → RoomFor k s) ∧ rd c t s = (.ok x, r) ∧ pre x c r t ∧ (after x c r t).hole = none ∧
    (endsBlock t0 → entrantOf (after x c r t) l.lid = none)
theorem canCommand_of {α : Type} {i : Instr} {cls : Option EngClass} {rd : Ctx → Thread → State → Except Trip α × State}
    {pre : α → Ctx → State → Thread → Prop} {after : α → Ctx → State → Thread → State} (z : α) (s : State) (t : Thread) (b : Block) (l : Launch)
    (h : AtLast (encode i) s t b l) (ha : active s [t.uid] p1 = [t]) (hr : (∀ x ∈ s.threads, x.ops = []) ∧ s.flight = [] ∧ s.ops.length < 63)
    (hd : readOk (rd (ctxOf0 b l t) t s) = true)
    (hp : pre (readValue z (rd (ctxOf0 b l t) t s)) (ctxOf0 b l t) (rd (ctxOf0 b l t) t s).2 t)
    (hh : (after (readValue z (rd (ctxOf0 b l t) t s)) (ctxOf0 b l t) (rd (ctxOf0 b l t) t s).2 t).hole = none)
    (he : (entrantOf (after (readValue z (rd (ctxOf0 b l t) t s)) (ctxOf0 b l t) (rd (ctxOf0 b l t) t s).2 t) l.lid).isNone = true) :
    CanCommand i cls rd pre after :=
  ⟨_, s, [t.uid], t, t, b, l, lastHeader, ctxOf0 b l t, _, ready_of h.1, goesOn_of h, ha, ⟨rfl, rfl, rfl, rfl, rfl⟩,
    fun x hx => by simp [hr.2.1] at hx, fun k _ x hx => by
      have : ecnt x k = 0 := by simp [ecnt, hr.1 x hx]
      simp only [claims]
      split
      · exact Nat.lt_of_le_of_lt (Nat.add_le_add (Nat.le_of_eq this) (List.length_filter_le _ _)) (by omega)
      · omega, readOk_eq z hd, hp, hh,
    fun _ => Option.isNone_iff_eq_none.mp he⟩

theorem witness_ServiceAndErrorQueue_svc : Meets1 (.svc p1 4 0xFFFF) p1 (fun _ _ _ _ => True)
    (fun s b l t => postService (release s b.core l.vf .sy) l.vf
        (bytesOf 8 l.rcd.tag.toNat ++ bytesOf 4 t.tid ++ bytesOf 4 0xFFFF ++ bytesFrom 4 4 l t)) :=
  meets1_of stand lastThread block0 benchLaunch (by decide +kernel) (by decide +kernel) trivial (by decide +kernel) (by decide +kernel)
theorem witness_ServiceAndErrorQueue_empty : Meets1 (.errq p1 8 2 0) p1
    (fun s _ l t => canonicalVa (at_ 2 0 l t) = true ∧ (at_ 2 0 l t).toNat % 64 = 0 ∧ ∀ q ∈ s.errqs, q.vf = l.vf → q.recs = [])
    (fun s _ _ _ => s) :=
  meets1_of (window [1]) vaultThread block0 benchLaunch (by decide +kernel) (by decide +kernel) (by decide +kernel) (by decide +kernel)
    (by decide +kernel)
/-- One record waits in function 0's error queue. -/
def troubled : State := { window [1] with errqs := [⟨0, [{ kind := 1, code := 5, tid := 0, blk := 0, tag := 0, time := 9 }], 0⟩] }
theorem witness_ServiceAndErrorQueue_taken : ∃ bs, Meets1 (.errq p1 8 2 0) p1
    (fun s b l t => LandsAt .store (at_ 2 0) 64 64 .dflt atFirst s b l t ∧ (takeErr s l.vf).1 = some bs)
    (fun s b l _ => storeAt (takeErr s l.vf).2 b.core l.lid l.vf atFirst bs .dflt) :=
  ⟨((takeErr troubled 0).1).getD [], meets1_of troubled vaultThread block0 benchLaunch (by decide +kernel) (by decide +kernel)
    ⟨lands_of (by decide +kernel), by decide +kernel⟩ (by decide +kernel) (by decide +kernel)⟩

theorem witness_LaunchesAndReplays_spawnq : CanCommand (.spawnq p1 8 2 0 15) none (fun k t => readChunks k t.uid 64 (at_ 2 0 k.l t) 2)
    (fun _ k r _ => share r k.vf 15 = 0) (fun bs k r _ => (admitRecord (release r k.core k.vf .dv) k.vf 15 bs).2) :=
  canCommand_of [] (window [1]) vaultThread block0 benchLaunch (by decide +kernel) (by decide +kernel) (by decide +kernel) (by decide +kernel)
    (by decide +kernel) (by decide +kernel) (by decide +kernel)
/-- A function with a reserve, a launch record at offset 256 of the window and pointers to it at 512: one block of one thread,
budget 16, one pallet page. -/
def recordBytes0 : List Byte :=
  bytesOf 8 0x100000 ++ bytesOf 8 0 ++ bytesOf 4 1 ++ bytesOf 4 0 ++ bytesOf 2 1 ++ bytesOf 2 1 ++ [0, 16, 0, 0] ++ bytesOf 2 0 ++ bytesOf 2 1
def prepared (bs : List Byte) : State :=
  setFn (memWrite (memWrite (memWrite (window []) vaultSpace bs) (vaultSpace + 256) recordBytes0) (vaultSpace + 512)
    (bytesOf 8 0x00FF000000000100 ++ bytesOf 8 0x00FF000000000100)) 0 192 64 (2 ^ 30)
def replayBytes : List Byte := bytesOf 8 0x00FF000000000100 ++ bytesOf 8 0 ++ [1]
theorem pair_eq {α β : Type} {x : α × β} {a : α} (h : x.1 = a) : x = (a, x.2) := by subst h; rfl
def replayRead : Except Trip (List Byte × List Byte) × State :=
  readReplay (ctxOf0 block0 benchLaunch vaultThread) (at_ 2 0 benchLaunch) vaultThread (prepared replayBytes)
def replayJudged : Nat × State :=
  recordStatus (release replayRead.2 block0.core 0 .dv) 0 (LaunchRec.ofBytes (readValue ([], []) replayRead).2)
theorem witness_LaunchesAndReplays_rply : ∃ s2, CanCommand (.rply p1 8 2 0) (some .rp) (fun k t => readReplay k (at_ 2 0 k.l) t)
    (fun x k r _ => isReplay k.l.parent = false ∧ replayBad x.1 = false ∧
      recordStatus (release r k.core k.vf .dv) k.vf (LaunchRec.ofBytes x.2) = (0, s2))
    (fun x k r t => { withOp (r.nextId + 1) 0 (.replay r.nextId) s2 k.b k.l t with
        replays := s2.replays ++
          [{ rid := r.nextId, lid := k.l.lid, op := r.nextId + 1, vf := k.vf, events := (x.1.drop 32).map BitVec.toNat,
             passes := natAt x.1 16 1, out := BitVec.ofNat 64 (natAt x.1 8 8), rcd := x.2,
             snapAt := (snapArea s2 k.vf).1, snapPages := (snapArea s2 k.vf).2 }] }) := by
  refine ⟨replayJudged.2, canCommand_of ([], []) (prepared replayBytes) vaultThread block0 benchLaunch (by decide +kernel) (by decide +kernel)
    (by decide +kernel) (by decide +kernel) ⟨by decide +kernel, by decide +kernel, pair_eq (x := replayJudged) (by decide +kernel)⟩ (by decide +kernel)
    (by decide +kernel)⟩
theorem witness_LaunchesAndReplays_nested : CanCommand (.rply p1 8 2 0) (some .rp) (fun k t => readReplay k (at_ 2 0 k.l) t)
    (fun _ k _ _ => isReplay k.l.parent = true) (fun _ k r _ => release r k.core k.vf .dv) :=
  canCommand_of ([], []) (place { benchLaunch with parent := .replay 7 } block0 vaultThread) vaultThread block0
    { benchLaunch with parent := .replay 7 } (by decide +kernel) (by decide +kernel) (by decide +kernel) (by decide +kernel) (by decide +kernel)
    (by decide +kernel) (by decide +kernel)
theorem witness_LaunchesAndReplays_accepted : queueEnabled (setQField (prepared []) 0 3 128 1 1) 0 3 = true ∧
    (admitRecord (setQField (prepared []) 0 3 128 1 1) 0 3 (recordBytes0 ++ List.replicate 92 0)).1 = 0 := by decide +kernel

/-! Tournaments, tiles, gathers, slots, rings, collectives -/

/-- A scope record for two entrants on unit 1 of tier 1, allowance 1. -/
def scopeBytes : List Byte :=
  List.replicate 31 0 ++ [2, 1, 1, 1] ++ List.replicate 5 0 ++ bytesOf 8 1 ++ bytesOf 8 0 ++ bytesOf 8 0x00FF000000000200
/-- The quad of unit 1 runs at state 2. -/
def openQuad : State := setPwr (prepared scopeBytes) (832 + 8) 8 2
abbrev scopeVa : DWord := 0x00FF000000000000
def topened : State :=
  { withOp 11 10 (.topen scopeVa 8) (releaseNow openQuad vaultThread.uid block0.core benchLaunch.vf .dv) block0 benchLaunch vaultThread with
    nextId := 12 }
def topenOp : EOp :=
  { id := 11, vf := 0, lid := 1, bid := 2, uid := some 3, core := 0, pc := wordAt vaultThread, pend := 10, work := .topen scopeVa 8 }
def scopeRead : Except Trip ScopeRead × State := readScope false (some block0) 0 scopeVa topened
def scopeJudged : Nat × State := scopeStatus false 0 (readValue ⟨[], [], []⟩ scopeRead) scopeRead.2
theorem witness_Tournament_topen : ∃ x s2 s3, AtLast (encode (.topen p1 8 2 0)) openQuad vaultThread block0 benchLaunch ∧
    active openQuad [3] p1 = [vaultThread] ∧ at_ 2 0 benchLaunch vaultThread = scopeVa ∧ openQuad.nextId = 10 ∧ RoomFor .tr openQuad ∧
    Performed openQuad vaultThread ∧ NamesNew openQuad vaultThread ∧ (∀ o ∈ openQuad.ops, o.id < openQuad.nextId) ∧
    benchLaunch.term.isNone = true ∧ isEntrant benchLaunch.parent = false ∧ canonicalVa scopeVa = true ∧ scopeVa.toNat % 64 = 0 ∧
    readScope false (some block0) 0 scopeVa topened = (.ok x, s2) ∧ scopeStatus false 0 x s2 = (0, s3) ∧ (openScope topenOp scopeVa x s3).hole = none :=
  ⟨readValue ⟨[], [], []⟩ scopeRead, scopeRead.2, scopeJudged.2, by decide +kernel, by decide +kernel, by decide +kernel, by decide +kernel,
    by unfold RoomFor; decide +kernel, performed_of ⟨by decide +kernel, by decide +kernel⟩, names_of ⟨by decide +kernel, by decide +kernel⟩,
    by decide +kernel, by decide +kernel, by decide +kernel, by decide +kernel, by decide +kernel, readOk_eq _ (by decide +kernel),
    pair_eq (x := scopeJudged) (by decide +kernel), by decide +kernel⟩
/-- The block's launch is entrant 1 of a scope. -/
def rival : Entrant := { idx := 0, lid := 9, cores := [] }
def contender : Entrant := { idx := 1, lid := 1, cores := [] }
def contest (rule : Nat) : Tourn :=
  { sid := 6, vf := 0, op := 7, addr := 0x1000, x := false, rule := rule, n := 2, wmax := 1, tier := 1, unit := 0, a0 := 1, sched := [], keep := 0,
    rounds := 0, order := [0, 1], entrants := [rival, contender] }
def entrantLaunch : Launch := { benchLaunch with parent := .entrant 6 1 }
def contested (t : Thread) (rule : Nat) : State := { place entrantLaunch block0 t with scopes := [contest rule] }
/-- The course of a thread in the scope, before the held header. -/
abbrev InRound (f : Fields) (s : State) (t : Thread) (b : Block) (l : Launch) (x : Tourn) (e : Entrant) : Prop :=
  Stands f s t b l ∧ t.idx + 1 = (Header.of t.hword).length ∧ guardHolds p1.g t = true ∧
    Coded s b l ∧ following t = 0x100018 ∧
    (Header.of lastHeader).check l.rcd.budget = none ∧ (Header.of lastHeader).region = true ∧ (Header.of lastHeader).merge = false ∧
    entrantOf s l.lid = some (x, e) ∧ e.isOpen = true ∧ e.charge + (Header.of lastHeader).length ≤ x.allowance
theorem witness_Tournament_tscore :
    InRound (encode (.tscore p1 true 4)) (contested lastThread 1) lastThread block0 entrantLaunch (contest 1) contender ∧
    ¬ (true = true ∧ entrantLaunch.rcd.det = true ∧ 2 ≤ (contest 1).rule) := by decide +kernel
def detLaunch : Launch := { entrantLaunch with rcd := { benchRecord with det := true } }
theorem witness_Tournament_tscore_traps :
    InRound (encode (.tscore p1 true 4)) { place detLaunch block0 lastThread with scopes := [contest 2] } lastThread block0 detLaunch (contest 2)
      contender ∧ detLaunch.rcd.det = true ∧ 2 ≤ (contest 2).rule := by decide +kernel
/-- A thread before the held header, which costs one unit: the allowance of round 1 is 1. -/
def gated : Thread := { lastThread with gate := some ⟨0x100018, lastHeader, none⟩ }
def chargedTo (n : Nat) : Tourn := { contest 1 with entrants := [rival, { contender with charge := n }] }
theorem witness_Tournament_charges :
    (contested gated 1).thread? 3 = some gated ∧ (contested gated 1).block? gated.bid = some block0 ∧
    entrantOf (contested gated 1) gated.lid = some (contest 1, contender) ∧ (Header.of lastHeader).merge = false ∧ gated.life = .inSlot ∧
    contender.isOpen = true ∧ contender.charge + (Header.of lastHeader).length ≤ (contest 1).allowance ∧
    entrantOf { contested gated 1 with scopes := [chargedTo 1] } gated.lid = some (chargedTo 1, { contender with charge := 1 }) ∧
    ¬ 1 + (Header.of lastHeader).length ≤ (chargedTo 1).allowance := by decide +kernel
theorem witness_Tournament_tbar : InRound (encode (.tbar p1)) (contested lastThread 1) lastThread block0 entrantLaunch (contest 1) contender ∧
    lastThread.idx + 1 = (Header.of lastThread.hword).length ∧ course (contested lastThread 1) [3] = [lastThread] ∧
    guardHolds p1.g lastThread = true ∧ (Header.of lastHeader).check entrantLaunch.rcd.budget = none ∧ (Header.of lastHeader).region = true ∧
    entrantOf (contested lastThread 1) entrantLaunch.lid = some (contest 1, contender) ∧ contender.isOpen = true ∧
    (∀ y ∈ (contested lastThread 1).threads, y.lid = entrantLaunch.lid → y.uid = lastThread.uid) ∧
    ((contested lastThread 1).threads.map Thread.uid).Nodup := by decide +kernel
theorem witness_Tournament_tkill_absent : Meets1 (.tkill p1 2 0 4) p1 (fun s _ l t => scopeAt s l.vf (at_ 2 0 l t) = none) (fun s _ _ _ => s) :=
  meets1_of stand lastThread block0 benchLaunch (by decide +kernel) (by decide +kernel) (by decide +kernel) (by decide +kernel) (by decide +kernel)
/-- A thread outside the scope, with the scope's address in v2:v3 and its first entrant alive. -/
def judge : Thread := withRegs [(2, 0x1000)] lastThread
def judged : State := { place benchLaunch block0 judge with scopes := [contest 1] }
theorem witness_Tournament_tkill : AtLast (encode (.tkill p1 2 0 4)) judged judge block0 benchLaunch ∧ active judged [3] p1 = [judge] ∧
    scopeAt judged benchLaunch.vf (at_ 2 0 benchLaunch judge) = some (contest 1) ∧ judged.scope? 6 = some (contest 1) ∧
    (contest 1).ended = false ∧ (readReg benchLaunch judge 4).toNat = rival.idx ∧ rival.idx < 64 ∧
    (contest 1).entrants.find? (fun y => y.idx == rival.idx) = some rival ∧ rival.alive = true ∧ rival.lid ≠ benchLaunch.lid ∧
    (tkill judged benchLaunch.vf (at_ 2 0 benchLaunch judge) rival.idx).hole = none := by decide +kernel

theorem witness_TileCommands_tbind : CanCommand (.tbind p1 8 63 2 0 true) none (fun k t => readChunks k t.uid 64 (at_ 2 0 k.l t) 1)
    (fun _ k _ _ => (k.b.handle 63).st = .empty) (fun _ _ r _ => r) :=
  canCommand_of [] (window [1]) vaultThread block0 benchLaunch (by decide +kernel) (by decide +kernel) (by decide +kernel) (by decide +kernel)
    (by decide +kernel) (by decide +kernel) (by decide +kernel)
def bf16Shape : Shape :=
  { sfill := 0, fill := 0, spitch := 0, sbase := 0, voff := 0, fmt := 10, cols := 32, rows := 1, col0 := 0, row0 := 0, tcols := 32, trows := 1,
    pitch := 64, base := 0x1000 }
def tiled (st : TileState) : Block := { block0 with handles := [(63, { st := st, shape := some bf16Shape })] }
theorem witness_TileCommands_tload : CanCommand (.tload p1 63 true 4 5) (some .cp) (fun _ _ s => (.ok (), s))
    (fun _ k _ t => (k.b.handle 63).shape = some bf16Shape ∧ (k.b.handle 63).st = .empty ∧
      (true = true → bf16Shape.w < 8 → (readReg k.l t 5).toInt % 32 = 0))
    (fun _ k r t => withOp r.nextId 0 (.fill 63 bf16Shape true) r k.b k.l t) :=
  canCommand_of () (place benchLaunch (tiled .empty) vaultThread) vaultThread (tiled .empty) benchLaunch (by decide +kernel) (by decide +kernel)
    (by decide +kernel) (by decide +kernel) (by decide +kernel) (by decide +kernel) (by decide +kernel)
theorem witness_TileCommands_tstoreq : CanCommand (.tstoreq p1 63 false 0 0 .e2m1) (some .cp) (fun _ _ s => (.ok (), s))
    (fun _ k _ _ => (k.b.handle 63).shape = some bf16Shape ∧ (k.b.handle 63).st ≠ .empty ∧ bf16Shape.fmt = 10 ∧ bf16Shape.col0 % 32 = 0 ∧
      bf16Shape.cols % 32 = 0)
    (fun _ k r t => withOp r.nextId 0 (.store 63 bf16Shape (some .e2m1) false) r k.b k.l t) :=
  canCommand_of () (place benchLaunch (tiled .ready) vaultThread) vaultThread (tiled .ready) benchLaunch (by decide +kernel) (by decide +kernel)
    (by decide +kernel) (by decide +kernel) (by decide +kernel) (by decide +kernel) (by decide +kernel)
theorem witness_TileCommands_tfree : CanCommand (.tfree p1 63 true) none (fun _ _ s => (.ok (), s))
    (fun _ k _ _ => (k.b.handle 63).st ≠ .filling ∧ (k.b.handle 63).st ≠ .draining ∧ (k.b.handle 63).heldStores = 0)
    (fun _ k r _ => emptyHandle r k.b.bid 63 true) :=
  canCommand_of () (place benchLaunch (tiled .ready) vaultThread) vaultThread (tiled .ready) benchLaunch (by decide +kernel) (by decide +kernel)
    (by decide +kernel) (by decide +kernel) (by decide +kernel) (by decide +kernel) (by decide +kernel)
theorem witness_TileCommands_trap : CanTrap (.tload p1 63 false 0 0)
    (fun s b _ _ => RoomFor .cp s ∧ ((b.handle 63).shape = none ∨ (b.handle 63).st ≠ .empty)) :=
  canTrap_of stand lastThread block0 benchLaunch (by decide +kernel) (by decide +kernel) (by unfold RoomFor; decide +kernel) (by decide +kernel)
theorem witness_TileCommands_tfree_trap : CanTrap (.tfree p1 63 false)
    (fun _ b _ _ => (b.handle 63).st = .filling ∨ (b.handle 63).st = .draining ∨ (b.handle 63).heldStores ≠ 0) :=
  canTrap_of (place benchLaunch (tiled .draining) lastThread) lastThread (tiled .draining) benchLaunch (by decide +kernel) (by decide +kernel)
    (by decide +kernel) (by decide +kernel)

theorem witness_GatherCommands_gath : CanCommand (.gathI32 p1 2 0 true) (some .ga) (fun k t => readGather k t.uid true (at_ 2 0 k.l t))
    (fun g _ _ _ => gatherBad true g.1 = false)
    (fun g k r t => withOp r.nextId 0 (.gather (Gather.ofBytes true 1 0 4 g.2 (at_ 2 0 k.l t) g.1)) r k.b k.l t) :=
  canCommand_of ([], 0) (window []) vaultThread block0 benchLaunch (by decide +kernel) (by decide +kernel) (by decide +kernel) (by decide +kernel)
    (by decide +kernel) (by decide +kernel) (by decide +kernel)
/-- A fault record of one element of a 4-byte gather, its descriptor at offset 256. -/
def faultRecord : List Byte := List.replicate 16 0 ++ bytesOf 4 1 ++ [4, 1, 0, 0] ++ bytesOf 8 0x00FF000000000800
theorem witness_GatherCommands_greplay : CanCommand (.greplay p1 2 0) (some .ga) (fun k t => readReplayRec k t.uid (at_ 2 0 k.l t))
    (fun q _ _ _ => recordBad q.1 = false ∧ gatherBad true q.2.2 = false)
    (fun q k r t => withOp r.nextId 0 (.gather (Gather.ofBytes true 1 0 4 0 (at_ 2 0 k.l t) q.2.2)) r k.b k.l t) :=
  canCommand_of ([], [], []) (prepared faultRecord) vaultThread block0 benchLaunch (by decide +kernel) (by decide +kernel) (by decide +kernel)
    (by decide +kernel) (by decide +kernel) (by decide +kernel) (by decide +kernel)

theorem witness_SlotAndRingCommands_bind_bad : CanCommand (.slbind p1 8 2 0 false) none (fun k t => readField k t false (at_ 2 0 k.l t))
    (fun bs _ _ _ => bindBad bs = true) (fun _ _ r _ => r) :=
  canCommand_of [] (window []) vaultThread block0 benchLaunch (by decide +kernel) (by decide +kernel) (by decide +kernel) (by decide +kernel)
    (by decide +kernel) (by decide +kernel) (by decide +kernel)
def slots4 : Field :=
  { vf := 0, addr := 0x00FF000000000000, n := 4, logcap := 0, freelist := 0, valid := 0, kvpt := 0, ring := 0, log := 0, conf := 0, tok := 0, stArr := 0,
    bad := 0, late := 0, nfinal := 0, status := 0, logn := 0, passes := 0, cursor := 0 }
/-- The record of a field of four slots, its arrays in the window, with a ring or none. -/
def fieldBytes (ring : Nat) : List Byte :=
  let arr := bytesOf 8 0x00FF000000000400
  bytesOf 4 4 ++ List.replicate 12 0 ++ arr ++ arr ++ arr ++ List.replicate 8 0 ++ bytesOf 8 ring ++ List.replicate 8 0 ++ arr ++
    List.replicate 184 0
theorem new_of {s : State} {t : Thread} (h : fresh0 s) (ho : s.ops = []) : OpsNew s t := ⟨names_of h, by simp [ho]⟩
/-- The record stands at offset 256 of the window, and its thread's registers name it. -/
def binder : Thread := withRegs [(2, 0x100), (3, 0x00FF0000)] lastThread
def binding (ring : Nat) (fs : List Field) : State :=
  { memWrite (place benchLaunch block0 binder) (vaultSpace + 256) (fieldBytes ring) with fields := fs }
def slots4At : Field := { slots4 with addr := 0x00FF000000000100 }
theorem witness_SlotAndRingCommands_bind_bound : CanCommand (.slbind p1 8 2 0 false) none (fun k t => readField k t false (at_ 2 0 k.l t))
    (fun bs k r t => OpsNew r t ∧ bindBad bs = false ∧ (field? r k.vf (at_ 2 0 k.l t)).isSome = true ∧
      ∀ o ∈ r.ops, isSlotOp k.vf (at_ 2 0 k.l t) o = false) (fun _ _ r _ => r) :=
  canCommand_of [] (binding 0 [slots4At]) binder block0 benchLaunch (by decide +kernel) (by decide +kernel) (by decide +kernel) (by decide +kernel)
    ⟨new_of ⟨by decide +kernel, by decide +kernel⟩ (by decide +kernel), by decide +kernel, by decide +kernel, by decide +kernel⟩
    (by decide +kernel) (by decide +kernel)
theorem piece_at {a : DWord} {s : State} {b : Block} (vf n : Nat) (acc : Acc) (h1 : canonicalVa a = true) (h2 : inAperture a = true)
    (h3 : inWindow b a n = true) : engPiece s (some b) vf a n acc = (.ok (vaultSpace + (a.toNat - vaultBase)), s) := by
  simp [engPiece, h1, h2, h3]
theorem resolve_at {a : DWord} {s : State} {b : Block} {k : Nat} (vf : Nat) (acc : Acc)
    (e : engPiece s (some b) vf a 64 acc = (.ok k, s)) : engResolve (some b) vf acc [(a, 64)] s = (.ok [(k, 64)], s) := by
  simp [engResolve, e]
theorem keys_at {s : State} {k : Nat} (h5 : s.lens = []) (h6 : isHostKey k = false) : readKeys s [(k, 64)] = (memRead s k 64, s) := by
  simp [readKeys, noteRequest, h5, h6]
theorem read_at {a : DWord} {s : State} {b : Block} (vf k : Nat) (h4 : piecesOf a 64 = [(a, 64)])
    (er : engResolve (some b) vf .engineRead [(a, 64)] s = (.ok [(k, 64)], s)) (hk : readKeys s [(k, 64)] = (memRead s k 64, s)) (h7 : s.bad = []) :
    engRead s (some b) vf a 64 = (.ok (memRead s k 64), s) := by
  simp [engRead, h4, er, hk, detect, h7]
/-- A ring's header in the window is read with nothing changed. -/
theorem ring_at {o : EOp} {a : DWord} {s : State} {b : Block} {k : Nat} (hb : s.block? o.bid = some b) (hk : vaultSpace + (a.toNat - vaultBase) = k)
    (h : canonicalVa a = true ∧ inAperture a = true ∧ inWindow b a 64 = true ∧ piecesOf a 64 = [(a, 64)] ∧ s.lens = [] ∧ isHostKey k = false ∧
      s.bad = []) :
    readRing o a s = (.ok (RingHdr.ofBytes (memRead s k 64)), s) := by
  obtain ⟨h1, h2, h3, h4, h5, h6, h7⟩ := h
  have e := piece_at (s := s) (b := b) o.vf 64 .engineRead h1 h2 h3
  rw [hk] at e
  simp [readRing, hb, read_at o.vf k h4 (resolve_at o.vf .engineRead e) (keys_at h5 h6) h7]
def noRing : RingHdr := RingHdr.ofBytes []
/-- The ring's header is of zeros, so its capacity is too small. -/
theorem witness_SlotAndRingCommands_bind_ring : CanCommand (.slbind p1 8 2 0 false) none (fun k t => readField k t false (at_ 2 0 k.l t))
    (fun bs k r t => OpsNew r t ∧ bindBad bs = false ∧ (field? r k.vf (at_ 2 0 k.l t)).isNone = true ∧ natAt bs 48 8 ≠ 0 ∧
      ∃ h, (∃ e, registerId h = .error e) ∧ readRing (uncounted k r t .mpost) (BitVec.ofNat 64 (natAt bs 48 8)) r = (.ok h, r))
    (fun _ _ r _ => r) :=
  canCommand_of [] (binding 0x00FF000000000400 []) binder block0 benchLaunch (by decide +kernel) (by decide +kernel) (by decide +kernel)
    (by decide +kernel)
    ⟨new_of ⟨by decide +kernel, by decide +kernel⟩ (by decide +kernel), by decide +kernel, by decide +kernel, by decide +kernel, _,
      ⟨0xFFFFFFFE, by decide +kernel⟩, ring_at (b := block0) (by decide +kernel) rfl (by decide +kernel)⟩
    (by decide +kernel) (by decide +kernel)
theorem witness_SlotAndRingCommands_bind_space : CanCommand (.slbind p1 8 2 0 false) none (fun k t => readField k t false (at_ 2 0 k.l t))
    (fun bs k r t => OpsNew r t ∧ bindBad bs = false ∧ (field? r k.vf (at_ 2 0 k.l t)).isNone = true ∧ natAt bs 48 8 = 0 ∧
      1024 ≤ (r.fields.filter fun q => q.vf == k.vf).length) (fun _ _ r _ => r) :=
  canCommand_of [] (binding 0 (List.replicate 1024 slots4)) binder block0 benchLaunch (by decide +kernel) (by decide +kernel) (by decide +kernel)
    (by decide +kernel)
    ⟨new_of ⟨by decide +kernel, by decide +kernel⟩ (by decide +kernel), by decide +kernel, by decide +kernel, by decide +kernel, by decide +kernel⟩
    (by decide +kernel) (by decide +kernel)
def madeField (va : DWord) (bs : List Byte) : Field :=
  let g := Field.ofBytes 0 va bs
  { g with status := 1 + (if g.cursor = g.n then 2 else 0) + 0xFF00 }
def boundWrite (k : Ctx) (va : DWord) (bs : List Byte) (r : State) : Except Trip Unit × State :=
  engWrites r (some k.b) k.l.lid k.vf { data := [recordWords (madeField va bs)] }
theorem witness_SlotAndRingCommands_bind : CanCommand (.slbind p1 8 2 0 false) none (fun k t => readField k t false (at_ 2 0 k.l t))
    (fun bs k r t => OpsNew r t ∧ bindBad bs = false ∧ (field? r k.vf (at_ 2 0 k.l t)).isNone = true ∧ natAt bs 48 8 = 0 ∧
      ¬ 1024 ≤ (r.fields.filter fun q => q.vf == k.vf).length ∧
      (absentArray (some k.b) (madeField (at_ 2 0 k.l t) bs) r).isNone = true ∧ ∃ s2, boundWrite k (at_ 2 0 k.l t) bs r = (.ok (), s2))
    (fun bs k r t => (takeArrays (some k.b) (madeField (at_ 2 0 k.l t) bs) (boundWrite k (at_ 2 0 k.l t) bs r).2).2) :=
  canCommand_of [] (binding 0 []) binder block0 benchLaunch (by decide +kernel) (by decide +kernel) (by decide +kernel) (by decide +kernel)
    ⟨new_of ⟨by decide +kernel, by decide +kernel⟩ (by decide +kernel), by decide +kernel, by decide +kernel, by decide +kernel, by decide +kernel,
      by decide +kernel, _, readOk_eq () (by decide +kernel)⟩ (by decide +kernel) (by decide +kernel)
def fielded : State := { window [] with fields := [slots4] }
theorem witness_SlotAndRingCommands_free_absent : CanCommand (.slbind p1 8 2 0 true) none (fun k t => readField k t true (at_ 2 0 k.l t))
    (fun bs k r t => bs = [] ∧ OpsNew r t ∧ (field? r k.vf (at_ 2 0 k.l t)).isNone = true) (fun _ _ r _ => r) :=
  canCommand_of [] (window []) vaultThread block0 benchLaunch (by decide +kernel) (by decide +kernel) (by decide +kernel) (by decide +kernel)
    ⟨by decide +kernel, new_of ⟨by decide +kernel, by decide +kernel⟩ (by decide +kernel), by decide +kernel⟩ (by decide +kernel) (by decide +kernel)
def freedWrite (k : Ctx) (r : State) : Except Trip Unit × State :=
  engWrites r (some k.b) k.l.lid k.vf { data := [recordWords { slots4 with status := slots4.status &&& ~~~1#32 }] }
theorem witness_SlotAndRingCommands_free : CanCommand (.slbind p1 8 2 0 true) none (fun k t => readField k t true (at_ 2 0 k.l t))
    (fun bs k r t => bs = [] ∧ OpsNew r t ∧ field? r k.vf (at_ 2 0 k.l t) = some slots4 ∧ slots4.freed = false ∧ slots4.busy = none ∧
      slots4.ring = 0 ∧ ∃ s2, freedWrite k r = (.ok (), s2)) (fun _ k r _ => (freedWrite k r).2) :=
  canCommand_of [] fielded vaultThread block0 benchLaunch (by decide +kernel) (by decide +kernel) (by decide +kernel) (by decide +kernel)
    ⟨by decide +kernel, new_of ⟨by decide +kernel, by decide +kernel⟩ (by decide +kernel), by decide +kernel, by decide +kernel, by decide +kernel,
      by decide +kernel, _, readOk_eq () (by decide +kernel)⟩ (by decide +kernel) (by decide +kernel)
theorem witness_SlotAndRingCommands_slpost : CanCommand (.slpost p1 2 0 4 5 6) (some .sl) (fun _ _ s => (.ok (), s))
    (fun _ k r t => canonicalVa (at_ 2 0 k.l t) = true ∧ (at_ 2 0 k.l t).toNat % 256 = 0 ∧ field? r k.vf (at_ 2 0 k.l t) = some slots4 ∧
      slots4.freed = false)
    (fun _ k r t => withOp r.nextId 0 (.slot (at_ 2 0 k.l t) (.post (readReg k.l t 4) (readReg k.l t 5) (readReg k.l t 6))) r k.b k.l t) :=
  canCommand_of () fielded vaultThread block0 benchLaunch (by decide +kernel) (by decide +kernel) (by decide +kernel) (by decide +kernel)
    (by decide +kernel) (by decide +kernel) (by decide +kernel)
/-- An earlier command on the field is with the engine. -/
def pressed : State :=
  { fielded with ops := [{ id := 7, vf := 0, lid := 1, bid := 2, uid := none, core := 0, pc := 0, work := .slot 0x00FF000000000000 (.trunc 0) }] }
theorem witness_SlotAndRingCommands_free_waits : CanCommand (.slbind p1 8 2 0 true) none (fun k t => readField k t true (at_ 2 0 k.l t))
    (fun bs k r t => bs = [] ∧ OpsNew r t ∧ field? r k.vf (at_ 2 0 k.l t) = some slots4 ∧ slots4.freed = false ∧ slots4.busy = none ∧
      ∃ o ∈ r.ops, isSlotOp k.vf (at_ 2 0 k.l t) o = true)
    (fun _ k r t => withOp (r.nextId + 1) r.nextId (.slot (at_ 2 0 k.l t) (.unbind 8))
        (updField r k.vf (at_ 2 0 k.l t) fun q => { q with freed := true }) k.b k.l t) :=
  canCommand_of [] pressed vaultThread block0 benchLaunch (by decide +kernel) (by decide +kernel) (by decide +kernel) (by decide +kernel)
    ⟨by decide +kernel, ⟨names_of ⟨by decide +kernel, by decide +kernel⟩, by decide +kernel⟩, by decide +kernel, by decide +kernel, by decide +kernel,
      by decide +kernel⟩ (by decide +kernel) (by decide +kernel)
theorem witness_SlotAndRingCommands_slpass : CanCommand (.slpass p1 2 0 false 0) (some .sl) (fun k t => readRule k false 0 (at_ 2 0 k.l t) t)
    (fun bs _ _ _ => (Rule.ofBytes false bs).bad = false)
    (fun bs k r t => withOp r.nextId 0 (.slot (at_ 2 0 k.l t) (.pass (Rule.ofBytes false bs))) r k.b k.l t) :=
  canCommand_of [] fielded vaultThread block0 benchLaunch (by decide +kernel) (by decide +kernel) (by decide +kernel) (by decide +kernel)
    (by decide +kernel) (by decide +kernel) (by decide +kernel)
/-- The window holds a ring header with room for a producer, or none, at its start. -/
def ringAt (bs : List Byte) : State := memWrite (window []) vaultSpace bs
def openRing : List Byte := List.replicate 20 0 ++ bytesOf 4 16
theorem witness_SlotAndRingCommands_sropen_refused : CanCommand (.sropen p1 8 2 0) none (fun _ _ s => (.ok (), s))
    (fun _ k r t => OpsNew r t ∧ canonicalVa (at_ 2 0 k.l t) = true ∧ (at_ 2 0 k.l t).toNat % 64 = 0 ∧
      ∃ h, readRing (uncounted k r t (.ropen (at_ 2 0 k.l t) 8)) (at_ 2 0 k.l t) r = (.ok h, r) ∧ registerId h = .error 0xFFFFFFFE)
    (fun _ _ r _ => r) :=
  canCommand_of () (ringAt []) vaultThread block0 benchLaunch (by decide +kernel) (by decide +kernel) (by decide +kernel) (by decide +kernel)
    ⟨new_of ⟨by decide +kernel, by decide +kernel⟩ (by decide +kernel), by decide +kernel, by decide +kernel, _,
      ring_at (b := block0) (by decide +kernel) rfl (by decide +kernel), by decide +kernel⟩ (by decide +kernel) (by decide +kernel)
def roomyRing : RingHdr := ⟨0, 0, 0, 0, 0, 0, 16, 0⟩
def joinRing (k : Ctx) (r : State) (t : Thread) : Except Trip Unit × State :=
  engWrites r (some k.b) k.l.lid k.vf { ring := registerWrites (at_ 2 0 k.l t) roomyRing 0 }
theorem witness_SlotAndRingCommands_sropen : CanCommand (.sropen p1 8 2 0) none (fun _ _ s => (.ok (), s))
    (fun _ k r t => OpsNew r t ∧ canonicalVa (at_ 2 0 k.l t) = true ∧ (at_ 2 0 k.l t).toNat % 64 = 0 ∧
      (∃ h, readRing (uncounted k r t (.ropen (at_ 2 0 k.l t) 8)) (at_ 2 0 k.l t) r = (.ok h, r) ∧ h = roomyRing) ∧
      registerId roomyRing = .ok 0 ∧ ∃ s2, joinRing k r t = (.ok (), s2)) (fun _ k r t => (joinRing k r t).2) :=
  canCommand_of () (ringAt openRing) vaultThread block0 benchLaunch (by decide +kernel) (by decide +kernel) (by decide +kernel) (by decide +kernel)
    ⟨new_of ⟨by decide +kernel, by decide +kernel⟩ (by decide +kernel), by decide +kernel, by decide +kernel,
      ⟨_, ring_at (b := block0) (by decide +kernel) rfl (by decide +kernel), by decide +kernel⟩, by decide +kernel, _, readOk_eq () (by decide +kernel)⟩
    (by decide +kernel) (by decide +kernel)
theorem witness_SlotAndRingCommands_ids :
    registerId ⟨1, 0xFFFE, 0, 0, 0, 0, 16, 0⟩ = .ok 0 ∧ registerId ⟨1, 0x7FFF, 0, 0, 0, 0, 2 ^ 24, 0⟩ = .ok 15 ∧
    registerId ⟨2, 0, 0, 0, 0, 0, 16, 0⟩ = .error 0xFFFFFFFF ∧ registerId ⟨0, 0, 0, 0, 0, 0, 8, 0⟩ = .error 0xFFFFFFFE := by decide +kernel
theorem witness_SlotAndRingCommands_srpost : CanCommand (.srpost p1 2 0 4 5 6) (some .sl) (fun _ _ s => (.ok (), s)) (fun _ _ _ _ => True)
    (fun _ k r t => withOp r.nextId 0 (.ring (at_ 2 0 k.l t)) r k.b k.l t) :=
  canCommand_of () (window []) vaultThread block0 benchLaunch (by decide +kernel) (by decide +kernel) (by decide +kernel) (by decide +kernel)
    trivial (by decide +kernel) (by decide +kernel)

theorem witness_CollectivesAndMessages_coll : CanCommand (.cred p1 2 0 .xor .s64 true false) (some .co) (fun k t => readChunks k t.uid 64 (at_ 2 0 k.l t) 1)
    (fun _ _ _ _ => True) (fun _ k r t => releaseNow r t.uid k.core k.vf .sy) :=
  canCommand_of [] (window []) vaultThread block0 benchLaunch (by decide +kernel) (by decide +kernel) (by decide +kernel) (by decide +kernel)
    trivial (by decide +kernel) (by decide +kernel)
/-- The block has a stream, and its gang's queue holds a beat. -/
def streaming : Block := { benchBlock true with beats := [(0, [{ data := [5], row := 1, beat := 2 }])] }
theorem witness_CollectivesAndMessages_mpost : CanCommand (.mpost p1 216 8) (some .mx) (fun _ _ s => (.ok (), s))
    (fun _ k _ _ => k.b.stream ≠ none)
    (fun _ k r t => withOp r.nextId 0 .mpost r k.b k.l t) :=
  canCommand_of () (place benchLaunch streaming lastThread) lastThread streaming benchLaunch (by decide +kernel) (by decide +kernel)
    (by decide +kernel) (by decide +kernel) (by decide +kernel) (by decide +kernel) (by decide +kernel)
theorem witness_CollectivesAndMessages_mpost_trap : CanTrap (.mpost p1 0 1) (fun s b _ _ => RoomFor .mx s ∧ b.stream = none) :=
  canTrap_of stand lastThread block0 benchLaunch (by decide +kernel) (by decide +kernel) (by unfold RoomFor; decide +kernel) (by decide +kernel)
theorem witness_CollectivesAndMessages_mrecv :
    let s := place benchLaunch streaming lastThread
    AtLast (encode (.mrecv p1 8 0 7)) s lastThread streaming benchLaunch ∧ RoomFor .mx s ∧ course s [3] = [lastThread] ∧
    guardHolds p1.g lastThread = true ∧ (∀ y ∈ gangMembers s streaming.bid lastThread.gang, y.uid = lastThread.uid) ∧
    (∀ y ∈ s.blocks, y.bid = streaming.bid → y.xinsts = []) ∧
    (streaming.beats.find? fun g => g.1 == lastThread.gang) = some (lastThread.gang, [{ data := [5], row := 1, beat := 2 }]) ∧
    (∀ o ∈ s.ops, o.id < s.nextId) ∧ (∀ o ∈ lastThread.ops, o.id < s.nextId ∧ o.cls ≠ .mx) ∧ ∀ o ∈ lastThread.pend, o.id < s.nextId := by
  unfold RoomFor; decide +kernel

/-! The matrix sequencer -/

/-- The sequencer of the block is about to run a word of its stream. -/
def seqState (b : Block) : State := { place benchLaunch b lastThread with cur := .stream 2 }
def seqStream : Stream := { newStream 0x100000 with started := true, fetched := true, hword := BitVec.ofNat 64 (benchHeader true) }
def seqWith (x : Stream) : Block := { benchBlock true with stream := some x }
def record0 : Param := { op := 7, data := [2] }
theorem feeding_of {s : State} {bid : Nat} {b : Block} {x : Stream}
    (h : s.cur = .stream bid ∧ s.hole = none ∧ s.block? bid = some b ∧ b.stream = some x) : Feeding s bid b x :=
  ⟨h.1, h.2.1, h.2.2.1, h.2.2.2⟩

theorem witness_StreamQueue : Feeding (seqState (benchBlock true)) 2 (benchBlock true) seqStream ∧ seqStream.queue.length < 64 ∧
    (0xFF#8).toNat + (0#8).toNat + 1 ≤ 256 :=
  ⟨feeding_of (by decide +kernel), by decide +kernel, by decide⟩
/-- With a parameter record at hand. -/
def recorded : Block := { benchBlock true with params := [record0] }
theorem witness_StreamQueue_takes : Feeding (seqState recorded) 2 recorded seqStream ∧ seqStream.queue.length < 64 ∧
    recorded.params.head? = some record0 ∧ 1 ≤ (8#4).toNat ∧ (8#4).toNat ≤ 8 ∧ (8#4).toNat * ((31#8).toNat + 1) ≤ 256 :=
  ⟨feeding_of (by decide +kernel), by decide +kernel, by decide +kernel, by decide⟩

theorem witness_StreamControl_mloop : Feeding (seqState recorded) 2 recorded seqStream ∧ seqStream.isLast = true ∧ seqStream.loops.length < 4 ∧
    recorded.params.head? = some record0 ∧ 0 < (record0.data.headD 0).toNat ∧ (0x7FFFFF#24).toNat < 0x800000 ∧
    seqStream.permits.length < 8 :=
  ⟨feeding_of (by decide +kernel), by decide +kernel⟩
def eightPermits : List Permit := (List.range 8).map fun i => ⟨20 + i, false⟩
def fullStream : Stream := { seqStream with permits := eightPermits }
theorem witness_StreamControl_mloop_full : Feeding (seqState (seqWith fullStream)) 2 (seqWith fullStream) fullStream ∧
    fullStream.isLast = true ∧ fullStream.loops.length < 4 ∧ 8 ≤ fullStream.permits.length :=
  ⟨feeding_of (by decide +kernel), by decide +kernel⟩
def loop0 (count : Nat) : Loop := { lc := 0, count := count, body := 0x100000, permit := 20 }
def looping (count : Nat) (ps : List Permit) : Stream := { seqStream with loops := [loop0 count], permits := ps }
theorem witness_StreamControl_mnext_leaves : Feeding (seqState (seqWith (looping 1 [⟨20, false⟩]))) 2 (seqWith (looping 1 [⟨20, false⟩])) (looping 1 [⟨20, false⟩]) ∧
    (looping 1 [⟨20, false⟩]).isLast = true ∧ (looping 1 [⟨20, false⟩]).loops.getLast? = some (loop0 1) ∧ (loop0 1).count ≤ (loop0 1).lc + 1 :=
  ⟨feeding_of (by decide +kernel), by decide +kernel⟩
theorem witness_StreamControl_mnext_goes : Feeding (seqState (seqWith (looping 2 eightPermits))) 2 (seqWith (looping 2 eightPermits)) (looping 2 eightPermits) ∧
    (looping 2 eightPermits).isLast = true ∧ (looping 2 eightPermits).loops.getLast? = some (loop0 2) ∧
    (loop0 2).lc + 1 < (loop0 2).count ∧ ((looping 2 eightPermits).closePermit (loop0 2).permit).permits.length < 8 ∧
    (looping 2 eightPermits).pausing = false :=
  ⟨feeding_of (by decide +kernel), by decide +kernel⟩
/-- An operation of the iteration is still in the queue, so its permit stays. -/
def queued : MOp := { f := encode .mswap, pc := 0x100008, lcs := [0], permits := [20] }
def crowded : Stream := { looping 2 eightPermits with queue := [queued] }
theorem witness_StreamControl_mnext_waits : Feeding (seqState (seqWith crowded)) 2 (seqWith crowded) crowded ∧
    crowded.isLast = true ∧ crowded.loops.getLast? = some (loop0 2) ∧ 8 ≤ (crowded.closePermit (loop0 2).permit).permits.length :=
  ⟨feeding_of (by decide +kernel), by decide +kernel⟩
theorem witness_StreamControl_mend_waits : Feeding (seqState (seqWith crowded)) 2 (seqWith crowded) crowded ∧ crowded.idle = false :=
  ⟨feeding_of (by decide +kernel), by decide +kernel⟩
theorem witness_StreamControl_mend : Feeding (seqState (benchBlock true)) 2 (benchBlock true) seqStream ∧ seqStream.idle = true ∧
    (benchBlock true).xinsts = [] ∧ ∃ t ∈ (seqState (benchBlock true)).threads, t.bid = 2 :=
  ⟨feeding_of (by decide +kernel), by decide +kernel, by decide +kernel, lastThread, by decide +kernel⟩
theorem witness_StreamControl_mbarw : Feeding (seqState (benchBlock true)) 2 (benchBlock true) seqStream ∧
    (getBarrier (benchBlock true) 15).seq = 0 ∧ (getBarrier (benchBlock true) 15).arrived = [] ∧
    (getBarrier (benchBlock true) 15).arrived.length + 1 ≠ (1024#11).toNat ∧ (1024#11).toNat ≤ 1024 :=
  ⟨feeding_of (by decide +kernel), by decide +kernel⟩
/-- A thread of the block has arrived, and no slot holds it. -/
def reached : Block := { benchBlock true with barriers := (Vector.replicate 16 {}).set 15 { expected := 2, arrived := [3] } }
def atBarrier : State := { seqState reached with slots := [] }
theorem witness_StreamControl_mbarw_completes : Feeding atBarrier 2 reached seqStream ∧ (getBarrier reached 15).seq = 0 ∧
    (getBarrier reached 15).expected = (2#11).toNat ∧ (getBarrier reached 15).arrived.length + 1 = (2#11).toNat ∧
    (2#11).toNat ≤ 1024 :=
  ⟨feeding_of (by decide +kernel), by decide +kernel⟩

/-! Events of a core -/

def idle : State := { stand with cur := .none }
theorem witness_CoreEvents_picker : idle.hole = none ∧ pickable idle 0 = some benchSlot := by decide +kernel
def withThread (t : Thread) : State := { place benchLaunch block0 t with cur := .none }
def landing : Pend := { id := 7, due := .fixed 100, regs := [(5, 9)] }
def answered : Pend := { id := 8, due := .any, regs := [(5, 9)] }
def inFlightThread : Thread := { lastThread with pend := [answered, landing] }
theorem witness_CoreEvents_lands : fixedLandDue (withThread inFlightThread) 3 = true ∧ variableLandDue (withThread inFlightThread) 3 8 = true ∧
    (withThread inFlightThread).thread? 3 = some inFlightThread ∧ (inFlightThread.pend.find? fun p => p.id == 8) = some answered ∧
    answered.due = .any ∧ answered.op = none ∧ inFlightThread.life ≠ .parked := by decide +kernel
/-- The slot stands in the pending set. -/
def pendingSlot : Slot := { benchSlot with active := false }
def waiting : State := { idle with slots := [pendingSlot] }
theorem witness_CoreEvents_brings : waiting.hole = none ∧ dueSwap { waiting with ending := true } 0 = some (.bring pendingSlot none) := by
  decide +kernel
/-- A raised slot waits while eight active ones are full. -/
def eightSlots : List Slot := (List.range 8).map fun i => { benchSlot with id := 20 + i, uids := [] }
theorem witness_CoreEvents_brings_raised :
    (match dueSwap { withThread { lastThread with raised := true } with slots := pendingSlot :: eightSlots } 0 with
      | some (.bring x (some _)) => x == pendingSlot
      | _ => false) = true := by decide +kernel
def yieldingSlot : Slot := { benchSlot with leave := true }
theorem witness_CoreEvents_expels : dueSwap { idle with slots := [yieldingSlot], ending := true } 0 = some (.expel yieldingSlot) := by decide +kernel
/-- A thread parked at the held header, and the first of its core to be formed. -/
def parked : Thread := { lastThread with life := .parked, hdr := 0x100018, entering := true }
def parkedState : State := { withThread parked with slots := [] }
theorem witness_CoreEvents_forms : parkedState.hole = none ∧ hasPlace parkedState 0 = true ∧ formSet parkedState 0 = [parked] ∧
    parkedState.block? parked.bid = some block0 ∧ parkedState.launch? parked.lid = some benchLaunch ∧
    (parkedState.threads.map Thread.uid).Nodup ∧ Coded parkedState block0 benchLaunch ∧ parked.hdr = 0x100018 ∧
    (Header.of lastHeader).check benchLaunch.rcd.budget = none ∧ (Header.of lastHeader).merge = false ∧ (entrantOf parkedState 1).isNone = true ∧
    (Header.of lastHeader).region = true := by decide +kernel
theorem witness_CoreEvents_raises : raiseDue { idle with clock := 4096 } 3 = true := by decide +kernel
/-- The only thread outside barriers is held at a merge header. -/
def held : Hold := { hdr := 0x100018, opened := 100, wait := 64 }
def holding : State :=
  { withThread { parked with mergeHeld := true, pallet := { pc := 0x100018 } } with slots := [], blocks := [{ block0 with holds := [held] }] }
theorem witness_CoreEvents_closes : holdOf { holding with clock := 164 } 2 0x100018 = some held ∧ holdDue { holding with clock := 164 } 2 held = true := by
  decide +kernel
def ballot : XInst := { id := 9, gang := 0, pc := 0x100008, kind := .vote .ballot, d := 4, pd := 7, bound := 64, opened := some 36 }
theorem witness_CoreEvents_expires : instOf { idle with blocks := [{ block0 with xinsts := [ballot] }] } 2 9 = some ballot ∧
    crossExpireDue { idle with blocks := [{ block0 with xinsts := [ballot] }] } 2 9 = true := by decide +kernel
theorem witness_CoreEvents_wakes : ((withThread { lastThread with wait := .sleep 100 }).thread? 3).map Thread.wait = some (.sleep 100) ∧
    100 ≤ (withThread { lastThread with wait := .sleep 100 }).clock := by decide +kernel
def pack0 : Pack := { entry := 0x100018, opened := 84, uids := [3] }
theorem witness_CoreEvents_packs : packOf { idle with blocks := [{ block0 with packs := [pack0] }] } 2 0x100018 = some pack0 ∧
    pack0.opened + 16 ≤ idle.clock := by decide +kernel
def born : Block := { block0 with newGangs := [⟨1, 100⟩] }
theorem witness_CoreEvents_gangs : ({ idle with blocks := [born] } : State).block? 2 = some born ∧
    gangReadyDue { idle with blocks := [born] } 2 1 = true := by decide +kernel
def gone : Thread := { lastThread with life := .exited }
theorem witness_CoreEvents_frees : (withThread gone).thread? 3 = some gone ∧ gone.life = .exited ∧ gone.ops = [] ∧
    (freeRecord (withThread gone) gone).hole = none := by decide +kernel

/-! Events of engines and sequencers -/

def operation (w : Work) : EOp := { id := 7, vf := 0, lid := 1, bid := 2, uid := some 3, core := 0, pc := 0x100008, work := w }
def working (b : Block) (w : Work) : State :=
  { window [] with cur := .none, blocks := [b], ops := [operation w], fields := [slots4],
                   threads := [{ vaultThread with ops := [{ id := 7, cls := .sl }] }] }
def vaultShape : Shape := { bf16Shape with base := 0x00FF000000000000 }
def fillOp : EOp := operation (.fill 63 vaultShape true)
theorem witness_EngineEvents_fill : ∃ bs s1, (working block0 (.fill 63 vaultShape true)).op? 7 = some fillOp ∧
    fillOp.held = [] ∧ (working block0 (.fill 63 vaultShape true)).block? 2 = some block0 ∧
    engReads (some block0) 0 (fillReads vaultShape true ++ scaleReads vaultShape true) (looksOut (working block0 (.fill 63 vaultShape true)) fillOp) =
      (.ok bs, s1) ∧
    (looksBack fillOp (finishTileOp (setHandle (fillStorage s1 block0 vaultShape true (bs.take 1) (bs.drop 1)) 2 63 {}) fillOp)).hole = none :=
  ⟨_, _, by decide +kernel, by decide +kernel, by decide +kernel, readOk_eq [] (by decide +kernel), by decide +kernel⟩
theorem witness_EngineEvents_store_starts :
    (working (tiled .ready) (.store 63 vaultShape none false)).op? 7 = some (operation (.store 63 vaultShape none false)) ∧
    (handleOf (working (tiled .ready) (.store 63 vaultShape none false)) 2 63).st = .ready := by decide +kernel
def storing : State := working (tiled .draining) (.store 63 vaultShape none true)
def storingOp : EOp := operation (.store 63 vaultShape none true)
def lookedTile : State × State := lookTile (looksOut storing storingOp) (tiled .draining) vaultShape
def storedData : Nat × List (List Nat) × List (List Byte) := storeData lookedTile.1 (tiled .draining) vaultShape none
def storedRows : List ((DWord × Nat) × (List Byte → List Byte)) :=
  storeWrites vaultShape storedData.1 storedData.2.1 storedData.2.2
theorem witness_EngineEvents_store : ∃ ks s1, storing.op? 7 = some (operation (.store 63 vaultShape none true)) ∧
    (operation (.store 63 vaultShape none true)).held = [] ∧ storing.block? 2 = some (tiled .draining) ∧ storedRows.length = 1 ∧
    resolveAll (some (tiled .draining)) 0 .engineWrite (storedRows.map Prod.fst) lookedTile.2 = (.ok ks, s1) :=
  ⟨_, _, by decide +kernel, by decide +kernel, by decide +kernel, by decide +kernel, readOk_eq [] (by decide +kernel)⟩
def gather2 : Gather :=
  { kind := 1, op := 0, iw := 4, count := 2, esize := 4, pitch := 4, dst := 0x00FF000000000100, idx := 0x00FF000000000000, table := 0x00FF000000000200,
    fill := 0, demand := false, frec := 0x00FF000000000400, desc := 0x00FF000000000800, cap := 1, posted := 0, only := [0, 1] }
def gathering : State := working block0 (.gather gather2)
def gatherOp : EOp := operation (.gather gather2)
def elements : List (Nat × Elem) × State := resolveElements (some block0) 0 gather2 [0, 1] (looksOut gathering gatherOp)
def packedKeys : Except Trip (List (List (Nat × Nat))) × State :=
  resolveAll (some block0) 0 .engineWrite (elements.1.map fun x => (gather2.packed x.1, 4)) elements.2
theorem witness_EngineEvents_gather : ∃ pk s2 rk s3, gathering.op? 7 = some gatherOp ∧
    (gather2.only.filter fun k => !gather2.ended.any fun e => e.1 == k) = [0, 1] ∧
    gathering.block? 2 = some block0 ∧ elements.1.length = 2 ∧ (∀ x ∈ elements.1, ∀ pg va acc, x.2 ≠ .parked pg va acc) ∧
    resolveAll (some block0) 0 .engineWrite (elements.1.map fun x => (gather2.packed x.1, 4)) elements.2 = (.ok pk, s2) ∧
    engResolve (some block0) 0 .engineWrite (recordPieces gather2 (faultsOf gather2 elements.1)) s2 = (.ok rk, s3) :=
  ⟨_, packedKeys.2, _, _, by decide +kernel, by decide +kernel, by decide +kernel, by decide +kernel,
    (by
      have h : (elements.1.all fun x => match x.2 with | .parked _ _ _ => false | _ => true) = true := by decide +kernel
      intro x hx pg va acc e
      have := List.all_eq_true.mp h x hx
      rw [e] at this
      cases this),
    readOk_eq [] (by decide +kernel), readOk_eq [] (by decide +kernel)⟩
abbrev slotAddr : DWord := 0x00FF000000000000
theorem witness_EngineEvents_post : (working block0 (.slot slotAddr (.post 3 5 6))).op? 7 = some (operation (.slot slotAddr (.post 3 5 6))) ∧
    slpostDue (working block0 (.slot slotAddr (.post 3 5 6))) 7 = true ∧
    (closeCommand (updField (working block0 (.slot slotAddr (.post 3 5 6))) 0 slotAddr fun f => mergeCand f 3 5 6)
      (operation (.slot slotAddr (.post 3 5 6))) slotAddr []).op? 7 = none ∧
    (3#32).toNat < slots4.n ∧ (6#32).toNat < 2 ^ 16 ∧ slots4.cands = [] ∧ slots4.n ≤ (4#32).toNat := by decide +kernel
/-- The field's tables lie in the window; slot 3 is a candidate. -/
def fieldAt : Field :=
  { slots4 with conf := 0x00FF000000001000, tok := 0x00FF000000002000, stArr := 0x00FF000000003000, kvpt := 0x00FF000000004000,
                valid := 0x00FF000000005000, log := 0x00FF000000006000, cands := [(3, 5, 6)] }
def passing (c : SlotCmd) (f : Field) : State := { working block0 (.slot slotAddr c) with fields := [f] }
def onePass : SlotCmd := .pass ⟨1, 1, 1, 0, 0⟩
theorem witness_EngineEvents_pass_begins : (passing onePass fieldAt).op? 7 = some (operation (.slot slotAddr onePass)) ∧
    slpassApplyDue (passing onePass fieldAt) 7 = true ∧ field? (passing onePass fieldAt) 0 slotAddr = some fieldAt ∧
    fieldAt.busy ≠ some 7 := by decide +kernel
/-- The pass has sifted its candidates; the final slot 3 is next. -/
def passField (j : SlotJob) : Field := { fieldAt with cands := [], busy := some 7, todo := [j] }
def passRun (c : SlotCmd) (f : Field) : Run := { s := looksOut (passing c f) (operation (.slot slotAddr c)), f := f, o := operation (.slot slotAddr c) }
theorem witness_EngineEvents_pass :
    let f := passField (.final 3 5 6)
    let r := Run.job (passRun onePass f) ⟨1, 1, 1, 0, 0⟩ (.final 3 5 6)
    (passing onePass f).op? 7 = some (operation (.slot slotAddr onePass)) ∧ slpassApplyDue (passing onePass f) 7 = true ∧
    field? (passing onePass f) 0 slotAddr = some f ∧ f.busy = some 7 ∧ f.todo = [.final 3 5 6] ∧
    r.err.isNone = true ∧ r.post.isNone = true ∧ r.s.hole = none ∧ r.f.nfinal = 1 := by decide +kernel
theorem witness_EngineEvents_pass_rule : (1 : Nat) ≤ 3 ∧ (3 : Nat) ≤ 5 ∧
    (((3, 5, 6), 0) : Cand × Nat) ∈ [((3, 5, 6), 0), ((4, 5, 4), 0), ((5, 5, 0), 1)] ∧
    SlotJob.final 3 5 6 ∈ passJobs ⟨5, 3, 1, 0, 0⟩ [((3, 5, 6), 0)] := by simp [passJobs]
theorem witness_EngineEvents_pass_ends : slpassCompleteDue (passing onePass { fieldAt with busy := some 7 }) 7 = true := by decide +kernel
theorem witness_EngineEvents_trunc_refused : sltruncDue (passing (.trunc 0) { fieldAt with cursor := 1 }) 7 = true ∧
    field? (passing (.trunc 0) { fieldAt with cursor := 1 }) 0 slotAddr = some { fieldAt with cursor := 1 } ∧
    ({ fieldAt with cursor := 1 } : Field).busy ≠ some 7 ∧ (0#32).toNat < ({ fieldAt with cursor := 1 } : Field).cursor := by decide +kernel
theorem witness_EngineEvents_trunc : sltruncDue (passing (.trunc 1) fieldAt) 7 = true ∧ fieldAt.cursor ≤ (1#32).toNat ∧
    sltruncDue (passing (.trunc 1) { fieldAt with busy := some 7 }) 7 = true := by decide +kernel
theorem witness_EngineEvents_read : slreadDue (passing (.read .tok 3) fieldAt) 7 = true ∧
    (Run.answer (passRun (.read .tok 3) fieldAt) .tok 3).2.err.isNone = true := by decide +kernel
def post0 : Post := { id := 8, op := 7, ring := slotAddr, producer := 0, slot := 1, tok := 2, fin := false }
def posting (x : Post) : State := { working block0 (.ring slotAddr) with posts := [x] }
theorem witness_EngineEvents_ring : ((posting post0).posts.find? fun y => y.id == 8) = some post0 ∧ ringPostDue (posting post0) 8 = true ∧
    postOp (posting post0) post0 = some (operation (.ring slotAddr)) := by decide +kernel
def fullPost : Post := { post0 with full := some 0 }
def polling : State := { posting fullPost with clock := 256 }
def polled : Except Trip RingHdr × State := readRing (operation (.ring slotAddr)) fullPost.ring polling
theorem witness_EngineEvents_poll : ∃ r s1, (polling.posts.find? fun y => y.id == 8) = some fullPost ∧ ringPollDue polling 8 = true ∧
    postOp polling fullPost = some (operation (.ring slotAddr)) ∧ readRing (operation (.ring slotAddr)) fullPost.ring polling = (.ok r, s1) :=
  ⟨_, polled.2, by decide +kernel, by decide +kernel, by decide +kernel, readOk_eq noRing (by decide +kernel)⟩
/-- A collective of one member. -/
def alone : Coll :=
  { kind := 0, comm := .launch 1, rank := 0, nranks := 1, count := 0, root := 0, tag := 0, src := 0, dst := 0, desc := 0, op := .add, ty := .s32,
    sy := false, det := false, seq := 0 }
theorem witness_EngineEvents_collective : instanceOf (working block0 (.coll alone)) 7 = some ([(operation (.coll alone), alone)], 0) ∧
    (operation (.coll alone)).held = [] := by decide +kernel
theorem witness_EngineEvents_starts : sequencerStartDue (seqState (seqWith (newStream 0x100000))) 2 = true := by decide +kernel
def holdsContext (b : Block) : State := { seqState b with wctx := [{ quad := 0, holder := some 2 }] }
def performOk (r : Perf) : Bool :=
  match r with
  | .ok _ _ => true
  | _ => false
theorem performOk_eq {r : Perf} (h : performOk r = true) : ∃ s d, r = .ok s d := by
  cases r with
  | ok s d => exact ⟨s, d, rfl⟩
  | stop c v => cases h
def swappingStream : Stream := { seqStream with queue := [queued] }
def swapping : Block := seqWith swappingStream
theorem witness_EngineEvents_performs : headOf (holdsContext swapping) 2 = some (swapping, swappingStream, queued) ∧
    backFills (holdsContext swapping) 2 = [] ∧ headStep (holdsContext swapping) swapping swappingStream queued = .go ∧
    writeRange swapping queued = none ∧
    ∃ s1 d, perform { flushRuns (holdsContext swapping) 2 (queued.ranges swapping) with
      lens := (((flushRuns (holdsContext swapping) 2 (queued.ranges swapping)).stream? 2).map Stream.past).getD [] } swapping queued = .ok s1 d :=
  ⟨by decide +kernel, by decide +kernel, by decide +kernel, by decide +kernel, performOk_eq (by decide +kernel)⟩
noncomputable def loadsWeights : MOp := { f := encode (.mldwBf16 63 0 0 0 0 false), pc := 0x100008, lcs := [], permits := [] }
noncomputable def fillingStream : Stream := { seqStream with queue := [loadsWeights] }
noncomputable def filling : Block := { tiled .empty with stream := some fillingStream }
theorem witness_EngineEvents_fills : headOf (seqState filling) 2 = some (filling, fillingStream, loadsWeights) ∧
    backFills (seqState filling) 2 = [(loadsWeights, ⟨63, 0, 0⟩)] ∧ headStep (seqState filling) filling fillingStream loadsWeights = .wait := by
  decide +kernel
/-- The same with a handle that is not bound stops the sequencer. -/
noncomputable def unbound : Block := { benchBlock true with stream := some fillingStream }
theorem witness_EngineEvents_stops : headOf (holdsContext unbound) 2 = some (unbound, fillingStream, loadsWeights) ∧
    backFills (holdsContext unbound) 2 = [] ∧ headStep (holdsContext unbound) unbound fillingStream loadsWeights = .stop 0x08 := by decide +kernel
def runningStream : Stream := { seqStream with running := [{ op := queued }] }
theorem witness_EngineEvents_completes : (seqState (seqWith runningStream)).block? 2 = some (seqWith runningStream) ∧
    completable runningStream = [{ op := queued }] ∧ onDrainPath queued = false ∧ queued.isMldw = false ∧ queued.code ≠ 0x198 := by decide +kernel
def draining : Stream := { seqStream with running := [{ op := queued, drain := some ⟨0, [(100, { data := [1], row := 0, beat := 0 })]⟩ }] }
theorem witness_EngineEvents_drains : (seqState (seqWith draining)).block? 2 = some (seqWith draining) ∧
    draining.draining = some ⟨0, (100, { data := [1], row := 0, beat := 0 }) :: []⟩ ∧ 100 ≤ (seqState (seqWith draining)).clock ∧
    gangLives (seqState (seqWith draining)) 2 0 = true ∧ (beatsOf (seqWith draining) 0).length < 64 ∧ (seqWith draining).xinsts = [] := by
  decide +kernel
def asking (raised : Bool) : State := { seqState swapping with clock := 4096, wctx := [{ quad := 0, reqs := [⟨2, 0, raised⟩] }] }
theorem witness_EngineEvents_grants : (ctxOf (asking true) 0).holder = none ∧ bestReq (asking true) (ctxOf (asking true) 0).reqs = some ⟨2, 0, true⟩ ∧
    (asking true).hole = none := by decide +kernel
theorem witness_EngineEvents_raises : weightRaiseDue (asking false) 2 = true ∧ (asking false).hole = none := by decide +kernel

/-! Events of the translation units and of the pager's rings -/

/-- The lowest 1 GiB is mapped, with a region header at 0x100000. -/
def mapped : State := memWrite (benchMap idle) 0x100000 (bytesOf 8 lastHeader.toNat)
def absentPage : Nat := 2 ^ 20
def walking (page : Nat) : Walk := { id := 7, vf := 0, page := page, acc := .load, who := .threads [3] [3] }
def walkState (page : Nat) : State := { mapped with walks := [walking page] }
def isFrame (x : Xlat) : Bool :=
  match x with
  | .frame _ _ _ => true
  | _ => false
theorem frame_eq {o : Xlat × State} (h : isFrame o.1 = true) : ∃ k e n, o = (.frame k e n, o.2) := by
  obtain ⟨x, s⟩ := o
  cases x with
  | frame k e n => exact ⟨k, e, n, rfl⟩
  | notPresent => cases h
  | prot => cases h
def found : Xlat × State := translate (walkState 0x10) 0 (vaOf (0x10 * 2 ^ 16)) (some .load)
def missed : Xlat × State := translate (walkState absentPage) 0 (vaOf (absentPage * 2 ^ 16)) (some .load)
theorem witness_PagingEvents_walk : ((walkState 0x10).walks.find? fun v => v.id == 7) = some (walking 0x10) ∧
    pageWalkDue (walkState 0x10) 7 = true ∧
    (∃ k e n, translate (walkState 0x10) 0 (vaOf (0x10 * 2 ^ 16)) (some .load) = (.frame k e n, found.2)) ∧
    walkGone { found.2 with walks := [] } (walking 0x10) = false :=
  ⟨by decide +kernel, by decide +kernel, frame_eq (o := found) (by decide +kernel), by decide +kernel⟩
theorem witness_PagingEvents_absent : ((walkState absentPage).walks.find? fun v => v.id == 7) = some (walking absentPage) ∧
    pageWalkDue (walkState absentPage) 7 = true ∧
    translate (walkState absentPage) 0 (vaOf (absentPage * 2 ^ 16)) (some .load) = (.notPresent, missed.2) ∧
    walkGone { missed.2 with walks := [] } (walking absentPage) = false :=
  ⟨by decide +kernel, by decide +kernel, pair_eq (x := missed) (by decide +kernel), by decide +kernel⟩
/-- Headers of the fault ring and of the response ring at 0x300000 and 0x300100; the response ring of 16 entries at 0x300200
holds one, a mapped answer for page 0x10. -/
def ringed : State :=
  setBarField (setBarField (memWrite (memWrite mapped 0x300100
    (bytesOf 8 0 ++ bytesOf 4 1 ++ bytesOf 4 0 ++ bytesOf 4 0 ++ bytesOf 4 16 ++ bytesOf 8 0x300200)) 0x300200
    ([1] ++ List.replicate 23 0 ++ bytesOf 8 0x100000)) 0 0x20000 448 64 0x300000) 0 0x20000 384 64 0x300100
def waitsOn : Pending := { vf := 0, page := absentPage, who := [.threads [3] [3]] }
theorem witness_PagingEvents_joins : frhdr { ringed with pending := [waitsOn] } ≠ 0 ∧
    findPending { ringed with pending := [waitsOn] } (walking absentPage).vf (walking absentPage).page = some waitsOn ∧
    isGather (walking absentPage).who = false := by decide +kernel
theorem witness_PagingEvents_posts : ({ ringed with heldFaults := [⟨1, false, 0⟩] } : State).heldFaults = ⟨1, false, 0⟩ :: [] ∧
    (writeFault { ringed with heldFaults := [⟨1, false, 0⟩] } ⟨1, false, 0⟩ []).hole = none := by decide +kernel
def isNextState (o : Host.Outcome State Fault Refusal) : Bool :=
  match o with
  | .next _ => true
  | _ => false
def header : Option (List Byte) × State := devRead ringed 0 (rrhdr ringed) 32
theorem witness_PagingEvents_reads : ∃ h, responseReadDue ringed = true ∧ devRead ringed 0 (rrhdr ringed) 32 = (some h, header.2) ∧
    natAt h 20 4 = 16 ∧ natAt h 8 4 = 1 ∧ natAt h 12 4 = 0 ∧
    (readResponses (BitVec.ofNat 64 (natAt h 24 8)) 16 1 0 header.2).1 = [⟨1, 0, 0x10, 0, 0⟩] ∧
    isNextState (execResponseRingRead ringed) = true :=
  ⟨header.1.getD [], by decide +kernel, pair_eq (x := header) (by decide +kernel), by decide +kernel⟩
def answeredBy (r : Response) : State := { ringed with pending := [waitsOn], responses := [r] }
theorem witness_PagingEvents_answers :
    (answeredBy ⟨1, 0, absentPage, 0, 0⟩).responses = ⟨1, 0, absentPage, 0, 0⟩ :: [] ∧
    (answeredBy ⟨2, 0, absentPage, 0, 0x2F⟩).responses = ⟨2, 0, absentPage, 0, 0x2F⟩ :: [] ∧
    (answeredBy ⟨3, 0, absentPage, 0, 0⟩).responses = ⟨3, 0, absentPage, 0, 0⟩ :: [] ∧
    (answeredBy ⟨4, 0, absentPage, BitVec.ofNat 64 (2 * 2 ^ 16), 0⟩).responses = ⟨4, 0, absentPage, BitVec.ofNat 64 (2 * 2 ^ 16), 0⟩ :: [] ∧
    (answeredBy ⟨6, 0, absentPage, 0, 0⟩).responses = ⟨6, 0, absentPage, 0, 0⟩ :: [] ∧
    (takeResponse (answeredBy ⟨1, 0, absentPage, 0, 0⟩) 0 absentPage).1 = [.threads [3] [3]] := by decide +kernel
theorem witness_PagingEvents_alias :
    (answeredBy ⟨5, 0, absentPage, vaOf (0x10 * 2 ^ 16), 0⟩).responses = ⟨5, 0, absentPage, vaOf (0x10 * 2 ^ 16), 0⟩ :: [] ∧
    (answeredBy ⟨5, 0, absentPage, vaOf (0x10 * 2 ^ 16), 0⟩).synonyms.length < 4096 ∧
    ∀ a ∈ (answeredBy ⟨5, 0, absentPage, vaOf (0x10 * 2 ^ 16), 0⟩).synonyms, a.vf = 0 → a.page ≠ absentPage := by decide +kernel
theorem witness_PagingEvents_shoot :
    (({ mapped with shoots := [⟨7, 0, 0x10, 1⟩] } : State).shoots.find? fun y => y.id == 7) = some ⟨7, 0, 0x10, 1⟩ := by decide +kernel

/-! Events of queues, placement and units -/

/-- Function 0 enabled, its pages mapped, its reserve of 1 GiB, quad 0 at state 2. -/
def site : State := { setPwr (setFn (setFn mapped 0 0 1 1) 0 192 64 (2 ^ 30)) 832 8 2 with threads := [], slots := [], blocks := [], launches := [] }
/-- Queue 5: 16 records at 0x300000, their status entries at 0x310000. -/
def queueSet (sz share bound : Nat) : State :=
  setQField (setQField (setQField (setQField (setQField site 0 5 288 32 sz) 0 5 384 64 0x300000) 0 5 448 64 0x310000) 0 5 336 8 share) 0 5 352 32 bound
theorem witness_PlacementEvents_enables : (queueSet 16 4 64).bar.wf = true ∧ queueEnabled (queueSet 16 4 64) 0 5 = false ∧
    (queueSet 16 4 64).boot = .up ∧ queueBad (queueSet 16 4 64) 0 5 = false ∧ shareTotal (queueSet 16 4 64) + share (queueSet 16 4 64) 0 5 ≤ 96 ∧
    assignHomes (queueSet 16 4 64) (share (queueSet 16 4 64) 0 5) = some [0, 1, 2, 3] := by decide +kernel
theorem witness_PlacementEvents_refuses : (queueSet 17 4 64).bar.wf = true ∧ queueEnabled (queueSet 17 4 64) 0 5 = false ∧
    queueBad (queueSet 17 4 64) 0 5 = true ∧ queueBad (queueSet 16 0 19) 0 5 = true ∧ queueBad (queueSet 16 0 0) 0 5 = false := by decide +kernel
/-- One record waits in the queue. -/
def admitting : State := setQField (setQField (memWrite (queueSet 16 0 0) 0x300000 (recordBytes0 ++ List.replicate 92 0)) 0 5 128 1 1) 0 5 256 32 1
def admitBytes : Option (List Byte) × State := devRead admitting 0 0x300000 128
def admitted : Nat × State := admitRecord admitBytes.2 0 5 (admitBytes.1.getD [])
theorem witness_PlacementEvents_admits : ∃ bs, admitDue admitting 0 5 = true ∧
    devRead admitting 0 (BitVec.ofNat 64 (qField admitting 0 5 384 64 + 128 * (qField admitting 0 5 224 32 % max (qField admitting 0 5 288 32) 1))) 128 =
      (some bs, admitBytes.2) ∧ admitted.2.launches.length = 1 ∧ isNextState (execQueueRecordAdmit 0 5 admitting) = true :=
  ⟨admitBytes.1.getD [], by decide +kernel, pair_eq (x := admitBytes) (by decide +kernel), by decide +kernel, by decide +kernel⟩
/-- A launch of one block of 16 registers waits; room is free in quad 0. -/
def waitingLaunch : Launch :=
  { benchLaunch with rcd := { benchRecord with budget := 16, pallet := 1 }, placed := 0, nextTid := 1 }
def sharing (d : Int) : State := { site with launches := [waitingLaunch], deficits := [{ vf := 0, d := d, since := some 0 }] }
def isShared (x : Option Placing) : Bool :=
  match x with
  | some (.shared _) => true
  | _ => false
theorem shared_eq {x : Option Placing} (h : isShared x = true) : ∃ room, x = some (.shared room) := by
  cases x with
  | none => cases h
  | some y => cases y with
    | held r => cases h
    | shared r => exact ⟨r, rfl⟩
    | slot a b => cases h
theorem witness_PlacementEvents_places : (sharing 5).launch? 1 = some waitingLaunch ∧ ∃ room, placing (sharing 5) waitingLaunch = some (.shared room) :=
  ⟨by decide +kernel, shared_eq (by decide +kernel)⟩
def isHeld (x : Option Placing) : Bool :=
  match x with
  | some (.held _) => true
  | _ => false
theorem held_eq {x : Option Placing} (h : isHeld x = true) : ∃ room, x = some (.held room) := by
  cases x with
  | none => cases h
  | some y => cases y with
    | held r => exact ⟨r, rfl⟩
    | shared r => cases h
    | slot a b => cases h
def heldLaunch : Launch := { waitingLaunch with reserved := [(0, 1)] }
theorem witness_PlacementEvents_places_held : ({ site with launches := [heldLaunch] } : State).launch? 1 = some heldLaunch ∧
    ∃ room, placing { site with launches := [heldLaunch] } heldLaunch = some (.held room) :=
  ⟨by decide +kernel, held_eq (by decide +kernel)⟩
theorem witness_PlacementEvents_visits : nextVisit (sharing 0) = some 0 ∧ deficitOf (sharing 0) 0 ≤ 0 ∧
    nextVisit { sharing 5 with visiting := 96 } = some 0 ∧ 0 < deficitOf { sharing 5 with visiting := 96 } 0 ∧
    0 ≠ ({ sharing 5 with visiting := 96 } : State).visiting := by decide +kernel
/-- A block of function 1, in debt, fills the only open quad's core; function 0 has waited 2^22 clocks. -/
def debtor : Launch := { benchLaunch with lid := 6, vf := 1 }
def hog : Block := { block0 with lid := 6 }
def starving : State :=
  { setPwr site 832 8 0 with
    clock := 2 ^ 22, launches := [waitingLaunch, debtor], blocks := [hog],
    deficits := [{ vf := 0, d := 5, since := some 0 }, { vf := 1, d := -1 }] }
theorem witness_PlacementEvents_starves : starvationVictim starving 0 = some hog := by decide +kernel
def wantedBlock : Block := { block0 with wanted := true }
def preempting : State := { mapped with blocks := [wantedBlock] }
theorem witness_PlacementEvents_preempts : preempting.block? 2 = some wantedBlock ∧ wantedBlock.res = .resident ∧
    (scopeLids preempting wantedBlock.lid).length ≤ 1 ∧ (preempting.threads.map Thread.uid).Nodup ∧
    (∀ t ∈ preempting.threads, t.bid = 2 → t.gate = none) ∧ preempting.hole = none := by decide +kernel
/-- A thread whose entry has still to be charged. -/
theorem witness_PlacementEvents_waits :
    ∃ t ∈ (withThread { lastThread with gate := some ⟨0x100018, lastHeader, none⟩ }).threads, t.bid = 2 ∧ t.gate ≠ none := by decide +kernel
def savingBlock : Block := { block0 with res := .saving }
def saving : State := { mapped with blocks := [savingBlock], slots := [], threads := [parked] }
theorem witness_PlacementEvents_saves : saving.block? 2 = some savingBlock ∧ preemptSaveDue saving 2 = true ∧
    (release saving savingBlock.core (vfOf saving savingBlock.lid) .dv).hole = none := by decide +kernel
def savedBlock : Block := { block0 with res := .saved }
def resuming : State := { site with launches := [benchLaunch], blocks := [savedBlock], threads := [parked] }
theorem some_eq {α β : Type} {o : Option α × β} (h : o.1.isSome = true) : ∃ x, o = (some x, o.2) := by
  obtain ⟨x, b⟩ := o
  cases x with
  | none => cases h
  | some x => exact ⟨x, rfl⟩
theorem witness_PlacementEvents_resumes : ∃ ps, resumeOf resuming 2 = (some ps, (resumeOf resuming 2).2) :=
  some_eq (by decide +kernel)
/-- A launch request of tenant 9, id 4, at port 0, which is up and enabled with UDP port 7. -/
def datagram : List Byte := bytesOf 4 0x01525652 ++ bytesOf 4 9 ++ List.replicate 20 0 ++ bytesOf 4 4 ++ List.replicate 16 0 ++ bytesOf 8 0x100000 ++
  List.replicate 120 0
def listening : State := setBarField (setBarField { site with ports := [36] } 0 (0x80000) 256 1 1) 0 0x20000 208 16 7
theorem witness_PlacementEvents_reach : listening.boot = .up ∧ reachHears listening ⟨0, 0, false, 0, 7, 5⟩ = true ∧ reachHears listening ⟨1, 0, false, 0, 7, 5⟩ = false ∧
    datagram.length = 176 ∧ natAt datagram 0 4 = 0x01525652 ∧ natAt datagram 4 4 = 9 ∧ natAt datagram 28 4 = 4 := by decide +kernel
theorem witness_PlacementEvents_reach_repeats :
    ((({ listening with reach := [⟨9, [(4, 0)]⟩] } : State).reach.find? fun r => r.tenant == natAt datagram 4 4).bind fun r =>
      r.log.find? fun x => x.1 == natAt datagram 28 4) = some (4, 0) := by decide +kernel
def sought : Option Tenant × State := findTenant 9 (List.range 256) listening
theorem witness_PlacementEvents_reach_unknown :
    ((listening.reach.find? fun r => r.tenant == 9).bind fun r => r.log.find? fun x => x.1 == 4).isNone = true ∧
    findTenant 9 (List.range 256) listening = (none, sought.2) := ⟨by decide +kernel, pair_eq (x := sought) (by decide +kernel)⟩
/-- The tenant table at 0x330000 holds tenant 9, for queue 0 and the entry 0x100000. -/
def tenantBytes : List Byte :=
  bytesOf 4 9 ++ bytesOf 4 (ofBytes ((sha256 (List.replicate 16 0)).take 4)) ++ [1, 0] ++ bytesOf 2 1 ++ List.replicate 20 0 ++ bytesOf 8 0x100000
def tenanted : State := setBarField (memWrite listening 0x330000 tenantBytes) 0 0x20000 320 64 0x330000
def soughtOut : Option Tenant × State := findTenant 9 (List.range 256) tenanted
def servedTenant : Tenant := soughtOut.1.getD ⟨0, 0, false, 0, 0, []⟩
theorem witness_PlacementEvents_reach_known : ∃ y, findTenant 9 (List.range 256) tenanted = (some y, soughtOut.2) := some_eq (by decide +kernel)
theorem witness_PlacementEvents_reach_admits : reachCheck servedTenant datagram = none ∧
    reachCheck servedTenant (datagram.take 48 ++ List.replicate 128 0) = some 0x0D := by decide +kernel
theorem witness_PlacementEvents_suspends : (({ site with suspending := [(0, true)] } : State).suspending.find? fun x => x.1 == 0) = some (0, true) ∧
    transitionDue { site with suspending := [(0, true)] } 0 = true ∧ site.boot = .up := by decide +kernel
def replay0 : Replay :=
  { rid := 8, lid := 1, op := 7, vf := 0, events := List.replicate 32 0, passes := 1, out := 0x320000, rcd := recordBytes0 ++ List.replicate 92 0 }
def replaying (r : Replay) : State := { site with replays := [r] }
def replayStart : Nat × State := recordStatus (flushFunction (replaying replay0) 0) 0 (LaunchRec.ofBytes replay0.rcd)
theorem witness_PlacementEvents_replay_starts : (replaying replay0).replay? 8 = some replay0 ∧ passStartDue (replaying replay0) replay0 = true ∧
    replay0.pass = 0 ∧ recordStatus (flushFunction (replaying replay0) 0) 0 (LaunchRec.ofBytes replay0.rcd) = (0, replayStart.2) :=
  ⟨by decide +kernel, by decide +kernel, rfl, pair_eq (x := replayStart) (by decide +kernel)⟩
def pass1 : Replay := { replay0 with pass := 1, passes := 2 }
def replayOver : Replay := { replay0 with isOver := true, pass := 1, counts := [[]], run := 1 }
theorem witness_PlacementEvents_replay_ends : passEndDue (replaying pass1) pass1 = true ∧ pass1.isOver = false ∧ pass1.pass ≠ pass1.passes ∧
    pass1.endCode = 0 ∧ pass1.tooBig = false ∧ ((replaying pass1).replays.map Replay.rid).Nodup ∧
    (replaying { replay0 with passes := 1, isOver := true, op := 7 }).replay? 8 = some { replay0 with passes := 1, isOver := true, op := 7 } ∧
    passEndDue { replaying replayOver with ops := [operation (.replay 8)] } replayOver = true := by decide +kernel
def closedEntrant (i : Nat) : Entrant := { idx := i, lid := 20 + i, cores := [], isOpen := false }
def roundOver : Tourn := { contest 1 with entrants := [closedEntrant 0, closedEntrant 1], writing := 0 }
theorem witness_PlacementEvents_round : ({ site with scopes := [roundOver] } : State).scope? 6 = some roundOver ∧
    roundEndDue { site with scopes := [roundOver] } roundOver = true ∧ roundOver.alive.length = 2 ∧ killsOf roundOver 2 = 1 := by decide +kernel
def accepted : Tourn := { contest 1 with writing := 1 }
def judgedRound : Tourn := { contest 1 with writing := 0, st := 1, entrants := [closedEntrant 0, { closedEntrant 1 with alive := false }] }
def contestOp : EOp := { operation (.scope 6) with id := 7 }
theorem witness_PlacementEvents_handover :
    handoverDue { site with scopes := [accepted], ops := [contestOp] } accepted = true ∧ accepted.lost = false ∧ accepted.writing ≠ 0 ∧
    handoverDue { site with scopes := [judgedRound], ops := [contestOp] } judgedRound = true ∧ judgedRound.lost = false ∧ judgedRound.writing = 0 ∧
    ((updScope (handOver { site with scopes := [judgedRound], ops := [contestOp] } judgedRound) 6 fun x => { x with writing := 2 }).scope? 6).isSome =
      true := by decide +kernel

/-! What comes from outside -/

def upState : State := { site with links := [0], ports := [3], outbox := [] }
theorem witness_OutsideEvents_service : upState.boot = .up ∧
    ({ upState with service := { running := true, pending := true } } : State).service.inCall = false := by decide +kernel
theorem witness_OutsideEvents_starts : State.reset.boot = .off ∧ State.reset.starts < 3 ∧ firstGood State.reset.fwSlots = some 0 ∧
    State.reset.bar.wf = true ∧ 3 ≤ ({ State.reset with starts := 3 } : State).starts := by decide +kernel
theorem witness_OutsideEvents_islands : upState.boot = .up ∧ commandRefused (setPwr upState (8 * 0) 8 5) 0 5 = true ∧
    commandRefused (setPwr upState (8 * 103) 8 2) 103 2 = true ∧ commandRefused (setPwr upState (8 * 103) 8 3) 103 3 = false := by decide +kernel
def changing : State := { upState with changes := [⟨0, 3, 200⟩] }
theorem witness_OutsideEvents_changes : (changing.changes.find? fun c => c.island == 0) = some ⟨0, 3, 200⟩ ∧ changeDue changing 0 = true := by
  decide +kernel
theorem witness_OutsideEvents_alarms : alarmOn upState 103 = false ∧ alarmOn (setPwr upState (2496 + 103) 1 1) 103 = true ∧
    alarmDue { upState with clock := 3200001, alarms := [⟨103, 0, false⟩] } 103 = true := by decide +kernel
theorem witness_OutsideEvents_links : 1 < 2 ∧ 1 ∉ upState.links ∧ 0 ∈ upState.links ∧ upState.hole = none ∧ 37 ∉ upState.ports ∧
    3 ∈ upState.ports ∧ 127 ∉ upState.peersDown := by decide +kernel
/-- A peer reads 8 bytes through window 255. -/
def request : PeerReq := { src := 5, op := 0, addr := 0x1000, len := 8, data := [] }
def windowed : State :=
  setBarField (setBarField (setBarField upState 0 (0x60000 + 32 * 255) 0 64 (5 + 2 ^ 16 + 2 ^ 18)) 0 (0x60000 + 32 * 255) 64 64 0x1000)
    0 (0x60000 + 32 * 255) 128 64 8
def answering : State := setBarField windowed 0 (0x60000 + 32 * 255) 192 64 0x100000
def served : Option (List Byte) × State := peerAccess answering request (windowAt answering 255)
theorem find_eq {α : Type} {p : α → Bool} {xs : List α} (h : (xs.find? p).isSome = true) : ∃ x, xs.find? p = some x :=
  Option.isSome_iff_exists.mp h
theorem witness_OutsideEvents_window : ∃ x r, ((List.range 256).map (windowAt answering)).find? (windowFits request) = some x ∧
    peerAccess answering request (windowAt answering 255) = (some r, served.2) ∧ windowFits request (windowAt answering 255) = true := by
  obtain ⟨x, hx⟩ := find_eq (xs := (List.range 256).map (windowAt answering)) (p := windowFits request) (by decide +kernel)
  obtain ⟨r, hr⟩ := some_eq (o := served) (by decide +kernel)
  exact ⟨x, r, hx, hr, by decide +kernel⟩
theorem witness_OutsideEvents_no_window : ∀ j < 256, windowFits request (windowAt upState j) = false := by decide +kernel
/-- A key of exponent 1, whose signatures are the padded digests themselves. -/
def update : FwUpdate :=
  { modulus := 2 ^ 3072 - 1, exponent := 1, signature := pkcsBlock (sha256 []), image := [] }
theorem witness_OutsideEvents_firmware : upState.boot ≠ .off ∧
    rsaVerifies update.modulus update.exponent update.signature (sha256 update.image) = true ∧
    rsaVerifies update.modulus update.exponent 0 (sha256 update.image) = false := by decide +kernel
theorem witness_OutsideEvents_checks : idle.block? 2 = some block0 ∧ (idle.launch? block0.lid).isSome = true ∧ idle.hole = none ∧
    idle.launch? block0.lid = some benchLaunch ∧ benchLaunch.term.isNone = true ∧ 6 < 7 := by decide +kernel
theorem witness_OutsideEvents_vectors : (96, 7) ∉ upState.msixMask ∧ (96, 7) ∉ upState.msixPend ∧
    (96, 7) ∈ ({ upState with msixPend := [(96, 7)] } : State).msixPend := by decide +kernel

/-! Encodings and steps -/

theorem witness_EncodingRoundTrip : Instr.wf (.mbarw 15 1024) = true ∧ Instr.wf (.iadd32 p1 255 255 (.reg 0xFE)) = true := by decide
theorem witness_EncodingRoundTrip_reads : toOption (decodeThread (0x0000000002000000#64 ++ 0x0000000000003B80#64)) = some (.nop p1) := by decide +kernel
/-- The code block at 0x100000 in the instruction cache and in L2: a header, a NOP, the next header. -/
def heldCode : Sparse 64 :=
  codeLine 0 (bytesOf 8 lastHeader.toNat ++ bytesOf 16 0x00000000020000000000000000003B80 ++ bytesOf 8 lastHeader.toNat)
def held0 (c : Cur) (b : Block) : State := { place benchLaunch b lastThread with icache := heldCode, l2 := heldCode, cur := c }
theorem witness_StepRunsTheWord_held : (([3] : List Nat).filterMap (held0 (.course [3]) block0).thread?).head? = some lastThread ∧
    (held0 (.course [3]) block0).block? 2 = some block0 ∧
    Held (held0 (.course [3]) block0) 0 0 (wordAt lastThread) 0x0000000000003B80 ∧
    Held (held0 (.course [3]) block0) 0 0 (wordAt lastThread + 8) 0x0000000002000000 :=
  ⟨by decide +kernel, by decide +kernel, held_of (by decide +kernel), held_of (by decide +kernel)⟩
theorem witness_StepRunsTheWord_held_stream : (held0 (.stream 2) (benchBlock true)).block? 2 = some (benchBlock true) ∧
    (benchBlock true).stream = some seqStream ∧
    Held (held0 (.stream 2) (benchBlock true)) 0 0 seqStream.wordPc 0x0000000000003B80 ∧
    Held (held0 (.stream 2) (benchBlock true)) 0 0 (seqStream.wordPc + 8) 0x0000000002000000 :=
  ⟨by decide +kernel, by decide +kernel, held_of (by decide +kernel), held_of (by decide +kernel)⟩
def fetched : Option (BitVec 128) × State := courseFetch (held0 (.course [3]) block0) [3]
theorem witness_StepRunsTheWord : (held0 (.course [3]) block0).cur = .course [3] ∧
    courseFetch (held0 (.course [3]) block0) [3] = (some 0x00000000020000000000000000003B80, fetched.2) ∧ fetched.2.hole = none ∧
    toOption (decodeThread 0x00000000020000000000000000003B80) = some (.nop p1) :=
  ⟨by decide +kernel, pair_eq (x := fetched) (by decide +kernel), by decide +kernel, by decide +kernel⟩
/-- A nonzero unused field, and a thread's word in a stream, are refused; where no page is mapped there is no word. -/
def codeless (c : Cur) (b : Block) : State := { held0 c b with icache := [], l2 := [] }
theorem witness_StepRunsTheWord_refused : toOption (decodeThread 0x00000000020000000300000000003B81) = none ∧
    toOption (decodeStream 0x00000000020000000000000000003B80) = none ∧
    (streamFetch (held0 (.stream 2) (benchBlock true)) 2).1 = some 0x00000000020000000000000000003B80 ∧
    (courseFetch (codeless (.course [3]) block0) [3]).1 = none ∧ (streamFetch (codeless (.stream 2) (benchBlock true)) 2).1 = none := by
  decide +kernel
def swapCode : Sparse 64 := codeLine 0 (bytesOf 8 (benchHeader true) ++ bytesOf 16 0xC980000000003B80)
def seqHeld : State := { held0 (.stream 2) (benchBlock true) with icache := swapCode, l2 := swapCode }
def seqFetched : Option (BitVec 128) × State := streamFetch seqHeld 2
theorem witness_StepRunsTheWord_stream : seqHeld.cur = .stream 2 ∧ streamFetch seqHeld 2 = (some 0xC980000000003B80, seqFetched.2) ∧
    seqFetched.2.hole = none ∧ toOption (decodeStream 0xC980000000003B80) = some .mswap :=
  ⟨by decide +kernel, pair_eq (x := seqFetched) (by decide +kernel), by decide +kernel, by decide +kernel⟩
theorem witness_StepAnswers : State.reset.hole = none := by decide +kernel

end Sys2Proof.Tests
end

/-! The integer class (05 R133–R140, R143): its lane functions as exact arithmetic on the values of their operands, and from
there to what its instructions do in every active lane. -/

namespace Sys2Proof.Proofs.Integer

open Sys2Proof.Machine Sys2Proof.Safety Sys2Proof.Laws

/-! ### Products (R133) -/

theorem mul_eq_ofNat {w : Nat} (x y : BitVec w) : x * y = BitVec.ofNat w (x.toNat * y.toNat) := by
  simp [BitVec.ofNat_mul]

theorem mulWideS_eq (x y : Word) : mulWideS x y = BitVec.ofInt 64 (x.toInt * y.toInt) := (BitVec.ofInt_mul _ _).symm

theorem mulWideN_eq (x y : Word) : mulWideN x y = BitVec.ofNat 64 (x.toNat * y.toNat) := by
  simp [mulWideN, zx, BitVec.ofNat_mul]

theorem ofNat_add_self {w : Nat} (n : Nat) (c : BitVec w) : BitVec.ofNat w n + c = BitVec.ofNat w (n + c.toNat) := by
  simp [BitVec.ofNat_add]

theorem ofInt_add_self {w : Nat} (z : Int) (c : BitVec w) : BitVec.ofInt w z + c = BitVec.ofInt w (z + c.toNat) := by
  simp [BitVec.ofInt_add]

theorem pairHi_ofNat (n : Nat) : pairHi (BitVec.ofNat 64 n) = BitVec.ofNat 32 (n / 2 ^ 32) := by
  apply BitVec.eq_of_toNat_eq
  simp only [pairHi, BitVec.toNat_setWidth, BitVec.toNat_ushiftRight, BitVec.toNat_ofNat, Nat.shiftRight_eq_div_pow]
  omega

theorem pairHi_ofInt (z : Int) : pairHi (BitVec.ofInt 64 z) = BitVec.ofInt 32 (z / 2 ^ 32) := by
  apply BitVec.eq_of_toNat_eq
  simp only [pairHi, BitVec.toNat_setWidth, BitVec.toNat_ushiftRight, BitVec.toNat_ofInt, Nat.shiftRight_eq_div_pow]
  omega

/-! ### Quotients (R134) -/

theorem sdiv_eq_ofInt {w : Nat} (x y : BitVec w) : x.sdiv y = BitVec.ofInt w (x.toInt.tdiv y.toInt) :=
  BitVec.eq_of_toInt_eq (by rw [BitVec.toInt_sdiv, BitVec.toInt_ofInt])

theorem toInt_eq_zero {w : Nat} (y : BitVec w) : y.toInt = 0 ↔ y = 0 := by
  rw [← BitVec.toInt_inj]; simp

/-- The exact remainder of a quotient, truncated. -/
theorem sub_ofInt_mul {w : Nat} (x y : BitVec w) (q : Int) :
    x - BitVec.ofInt w q * y = BitVec.ofInt w (x.toInt - q * y.toInt) := by
  rw [Int.sub_eq_add_neg, BitVec.ofInt_add, BitVec.ofInt_neg, BitVec.ofInt_mul, BitVec.ofInt_toInt, BitVec.ofInt_toInt,
    BitVec.sub_eq_add_neg]

theorem divS_zero (x : Word) : divS x 0 = (BitVec.ofInt 32 (if 0 ≤ x.toInt then 2 ^ 31 - 1 else -2 ^ 31), x, true) := by
  unfold divS
  rw [if_pos rfl, BitVec.msb_eq_toInt]
  by_cases h : 0 ≤ x.toInt
  · rw [if_pos h, decide_eq_false (by omega)]; rfl
  · rw [if_neg h, decide_eq_true (by omega)]; rfl

/-- The least word by -1 needs no case of its own: the exact quotient is truncated (R134). -/
theorem divS_of_ne {x y : Word} (h : y ≠ 0) :
    divS x y = (BitVec.ofInt 32 (x.toInt.tdiv y.toInt), BitVec.ofInt 32 (x.toInt - x.toInt.tdiv y.toInt * y.toInt), false) := by
  unfold divS
  rw [if_neg h]
  split
  · rename_i hmin
    simp only [Bool.and_eq_true, decide_eq_true_eq] at hmin
    obtain ⟨rfl, rfl⟩ := hmin
    rfl
  · simp only [sdiv_eq_ofInt, sub_ofInt_mul]

theorem divN_zero (x : Word) : divN x 0 = (0xFFFFFFFF#32, x, true) := if_pos rfl

theorem divN_of_ne {x y : Word} (h : y ≠ 0) :
    divN x y = (BitVec.ofNat 32 (x.toNat / y.toNat), BitVec.ofNat 32 (x.toNat % y.toNat), false) := by
  have hq : x.udiv y = BitVec.ofNat 32 (x.toNat / y.toNat) := BitVec.udiv_def
  have hr : x - BitVec.ofNat 32 (x.toNat / y.toNat) * y = BitVec.ofNat 32 (x.toNat % y.toNat) := by
    have hdiv := congrArg (BitVec.ofNat 32) (Nat.mod_add_div x.toNat y.toNat)
    simp only [BitVec.ofNat_add, BitVec.ofNat_mul, BitVec.ofNat_toNat, BitVec.setWidth_eq] at hdiv
    rw [sub_eq_iff_eq_add, mul_comm]
    exact hdiv.symm
  unfold divN
  rw [if_neg h, hq]
  simp only [hr]

theorem divS_eq (x y : Word) : divS x y =
    (BitVec.ofInt 32 (if y.toInt = 0 then (if 0 ≤ x.toInt then 2 ^ 31 - 1 else -2 ^ 31) else x.toInt.tdiv y.toInt),
      BitVec.ofInt 32 (if y.toInt = 0 then x.toInt else x.toInt - x.toInt.tdiv y.toInt * y.toInt), decide (y = 0)) := by
  by_cases h : y = 0
  · have hy : y.toInt = 0 := (toInt_eq_zero y).mpr h
    rw [if_pos hy, if_pos hy, BitVec.ofInt_toInt, decide_eq_true h, h, divS_zero]
  · have hy : y.toInt ≠ 0 := mt (toInt_eq_zero y).mp h
    rw [divS_of_ne h, if_neg hy, if_neg hy, decide_eq_false h]

theorem divN_eq (x y : Word) : divN x y =
    (if y = 0 then 0xFFFFFFFF#32 else BitVec.ofNat 32 (x.toNat / y.toNat),
      if y = 0 then x else BitVec.ofNat 32 (x.toNat % y.toNat), decide (y = 0)) := by
  by_cases h : y = 0
  · subst h
    exact divN_zero x
  · rw [divN_of_ne h, if_neg h, if_neg h, decide_eq_false h]

/-! ### The smaller and the larger (R135) -/

section Order
variable {α β : Type} [LinearOrder α] (key : β → α) (ofKey : α → β) (hkey : ∀ x, ofKey (key x) = x) (x y : β)
include hkey

/-- Of two values that their keys determine, the one with the smaller key. -/
theorem ofKey_min : ofKey (min (key x) (key y)) = if key y < key x then y else x := by
  split
  · rw [min_eq_right (le_of_lt ‹_›), hkey]
  · rw [min_eq_left (not_lt.mp ‹_›), hkey]

theorem ofKey_max : ofKey (max (key x) (key y)) = if key x < key y then y else x := by
  split
  · rw [max_eq_right (le_of_lt ‹_›), hkey]
  · rw [max_eq_left (not_lt.mp ‹_›), hkey]

end Order

section MinMax
variable {w : Nat} (x y : BitVec w)

theorem minS_eq : minS x y = BitVec.ofInt w (min x.toInt y.toInt) := by
  rw [ofKey_min BitVec.toInt (BitVec.ofInt w) fun _ => BitVec.ofInt_toInt]
  simp only [minS, BitVec.slt_eq_decide, decide_eq_true_eq]

theorem maxS_eq : maxS x y = BitVec.ofInt w (max x.toInt y.toInt) := by
  rw [ofKey_max BitVec.toInt (BitVec.ofInt w) fun _ => BitVec.ofInt_toInt]
  simp only [maxS, BitVec.slt_eq_decide, decide_eq_true_eq]

theorem minN_eq : minN x y = BitVec.ofNat w (min x.toNat y.toNat) := by
  rw [ofKey_min BitVec.toNat (BitVec.ofNat w) (by simp)]
  simp only [minN, BitVec.ult_eq_decide, decide_eq_true_eq]

theorem maxN_eq : maxN x y = BitVec.ofNat w (max x.toNat y.toNat) := by
  rw [ofKey_max BitVec.toNat (BitVec.ofNat w) (by simp)]
  simp only [maxN, BitVec.ult_eq_decide, decide_eq_true_eq]

end MinMax

/-! ### Words put together bit by bit (R136, R138) -/

theorem getLsbD_foldl_setBit (sel : Nat → Bool) (pos : Nat → Nat) {k : Nat} (hk : k < 32) (xs : List Nat) (r : Word) :
    (xs.foldl (fun r i => if sel i then r ||| (1#32 <<< pos i) else r) r).getLsbD k =
      (r.getLsbD k || xs.any fun i => sel i && pos i == k) := by
  induction xs generalizing r with
  | nil => simp
  | cons x xs ih =>
    have hbit : (1#32 <<< pos x).getLsbD k = (pos x == k) := by
      rw [← BitVec.twoPow_eq, BitVec.getLsbD_twoPow]
      by_cases h : pos x = k
      · simp [h, hk]
      · simp [h]
    rw [List.foldl_cons, ih, List.any_cons]
    cases sel x with
    | false => simp
    | true => simp [hbit, Bool.or_assoc]

/-- Of the bits that a fold over the 32 positions sets, only the `j`th can be bit `k`. -/
theorem getLsbD_setBits (sel : Nat → Bool) (pos : Nat → Nat) {j k : Nat} (hj : j < 32) (hk : k < 32)
    (h : ∀ i < 32, pos i = k ↔ i = j) :
    ((List.range 32).foldl (fun r i => if sel i then r ||| (1#32 <<< pos i) else r) 0).getLsbD k = sel j := by
  rw [getLsbD_foldl_setBit sel pos hk, Bool.eq_iff_iff]
  simp only [BitVec.ofNat_eq_ofNat, BitVec.getLsbD_zero, Bool.false_or, List.any_eq_true, List.mem_range, Bool.and_eq_true, beq_iff_eq]
  constructor
  · rintro ⟨i, hi, hs, hp⟩
    rwa [← (h i hi).mp hp]
  · exact fun hs => ⟨j, hj, hs, (h j hj).mpr rfl⟩

theorem getLsbD_lut3 (tbl : BitVec 8) (x y z : Word) {i : Nat} (hi : i < 32) :
    (lut3 tbl x y z).getLsbD i =
      tbl.getLsbD ((x.getLsbD i).toNat + 2 * (y.getLsbD i).toNat + 4 * (z.getLsbD i).toNat) := by
  have hbit : ∀ c : Bool, boolBit c = c.toNat := fun c => by cases c <;> rfl
  simp only [lut3, hbit]
  exact getLsbD_setBits (fun i => tbl.getLsbD ((x.getLsbD i).toNat + 2 * (y.getLsbD i).toNat + 4 * (z.getLsbD i).toNat)) id hi hi
    fun _ _ => Iff.rfl

theorem getLsbD_brev (x : Word) {i : Nat} (hi : i < 32) : (brev x).getLsbD i = x.getLsbD (31 - i) :=
  getLsbD_setBits (fun i => x.getLsbD i) (fun i => 31 - i) (by omega) hi fun j hj => by omega

/-! ### Shifts (R137) -/

theorem shlW_eq {w : Nat} (x : BitVec w) (n : Word) : shlW x n = if w ≤ n.toNat then 0 else x <<< n.toNat := by
  split
  · exact BitVec.shiftLeft_eq_zero ‹_›
  · rfl

theorem shrW_eq {w : Nat} (x : BitVec w) (n : Word) : shrW x n = if w ≤ n.toNat then 0 else x >>> n.toNat := by
  split
  · exact BitVec.ushiftRight_eq_zero ‹_›
  · rfl

theorem pairLo_eq_extract (v : DWord) : pairLo v = v.extractLsb' 0 32 := by
  simp [pairLo, BitVec.setWidth_eq_extractLsb']

theorem pairHi_eq_extract (v : DWord) : pairHi v = v.extractLsb' 32 32 := BitVec.setWidth_ushiftRight_eq_extractLsb

/-! ### Bit operations (R138) -/

theorem sum_boolBit {α : Type} (q : α → Bool) (xs : List α) : (xs.map fun i => boolBit (q i)).sum = xs.countP q := by
  induction xs with
  | nil => rfl
  | cons x xs ih =>
    rw [List.map_cons, List.sum_cons, ih, List.countP_cons, Nat.add_comm]
    rfl

/-- The leading zeros of a word. -/
def leadingZeros (x : Word) : Nat := if x = 0 then 32 else 31 - Nat.log2 x.toNat

theorem clz_eq (x : Word) : clz x = BitVec.ofNat 32 (leadingZeros x) := by
  unfold clz leadingZeros
  split <;> rfl

theorem leadingZeros_spec (x : Word) : leadingZeros x ≤ 32 ∧ x.toNat < 2 ^ (32 - leadingZeros x) ∧
    (leadingZeros x < 32 → 2 ^ (31 - leadingZeros x) ≤ x.toNat) := by
  unfold leadingZeros
  by_cases h : x = 0
  · subst h; simp
  · have hx : x.toNat ≠ 0 := fun e => h (BitVec.eq_of_toNat_eq e)
    have hlog : Nat.log2 x.toNat < 32 := (Nat.log2_lt hx).mpr x.isLt
    rw [if_neg h, show 32 - (31 - Nat.log2 x.toNat) = Nat.log2 x.toNat + 1 by omega,
      show 31 - (31 - Nat.log2 x.toNat) = Nat.log2 x.toNat by omega]
    exact ⟨by omega, Nat.lt_log2_self, fun _ => Nat.log2_self_le hx⟩

theorem fieldPos_eq (y : Word) : fieldPos y = min (y.toNat % 256) 32 := rfl
theorem fieldLen_eq (y : Word) : fieldLen y = min (y.toNat / 256 % 256) 32 := by
  simp only [fieldLen, bitsN, Nat.shiftRight_eq_div_pow]; norm_num

theorem bfe_unsigned (x y : Word) : bfe false x y = BitVec.ofNat 32 (x.toNat / 2 ^ fieldPos y % 2 ^ fieldLen y) := by
  have hx : ((zx 64 x) >>> fieldPos y).toNat = x.toNat / 2 ^ fieldPos y := by
    rw [BitVec.toNat_ushiftRight, Nat.shiftRight_eq_div_pow, zx, BitVec.toNat_setWidth, Nat.mod_eq_of_lt (by omega)]
  simp only [bfe, Bool.false_eq_true, if_false, Bool.false_and, hx]
  split
  · rename_i h
    rw [h, pow_zero, Nat.mod_one]; rfl
  · rfl

/-- The highest bit of an `n`-bit number. -/
theorem testBit_top {n f : Nat} (hn : n ≠ 0) (hf : f < 2 ^ n) : f.testBit (n - 1) = decide (2 ^ (n - 1) ≤ f) := by
  by_cases h : 2 ^ (n - 1) ≤ f
  · rw [decide_eq_true h]
    exact Nat.testBit_of_two_pow_le_and_two_pow_add_one_gt h (by rwa [Nat.sub_add_cancel (Nat.one_le_iff_ne_zero.mpr hn)])
  · rw [decide_eq_false h]
    exact Nat.testBit_lt_two_pow (not_le.mp h)

theorem bfe_signed (x y : Word) :
    bfe true x y =
      (let f := (x.signExtend 64).toNat / 2 ^ fieldPos y % 2 ^ fieldLen y
       if fieldLen y = 0 then 0
       else if 2 ^ (fieldLen y - 1) ≤ f then BitVec.ofInt 32 ((f : Int) - 2 ^ fieldLen y) else BitVec.ofNat 32 f) := by
  have hx : ((sx 64 x) >>> fieldPos y).toNat = (x.signExtend 64).toNat / 2 ^ fieldPos y := by
    rw [BitVec.toNat_ushiftRight, Nat.shiftRight_eq_div_pow, sx]
  simp only [bfe, if_true, Bool.true_and, hx]
  by_cases h : fieldLen y = 0
  · rw [if_pos h, if_pos h]
  · rw [if_neg h, if_neg h, testBit_top h (Nat.mod_lt _ (by positivity))]
    simp only [decide_eq_true_eq]

/-! ### Comparison (R139) -/

/-- The comparison of two exact values. -/
def cmpHolds (c : Cmp) (x y : Int) : Bool :=
  match c with
  | .eq => decide (x = y) | .ne => decide (x ≠ y) | .lt => decide (x < y)
  | .le => decide (x ≤ y) | .gt => decide (y < x) | .ge => decide (y ≤ x)

theorem compareS_eq {w : Nat} (c : Cmp) (x y : BitVec w) : compareS c x y = cmpHolds c x.toInt y.toInt := by
  cases c with
  | eq => simp [compareS, cmpHolds, BitVec.toInt_inj, beq_eq_decide]
  | ne => simp [compareS, cmpHolds, BitVec.toInt_inj, bne, beq_eq_decide]
  | lt | gt => rfl
  | le | ge => exact BitVec.sle_eq_not_slt.symm

theorem compareN_eq {w : Nat} (c : Cmp) (x y : BitVec w) : compareN c x y = cmpHolds c x.toNat y.toNat := by
  cases c with
  | eq => simp [compareN, cmpHolds, BitVec.toNat_inj, beq_eq_decide]
  | ne => simp [compareN, cmpHolds, BitVec.toNat_inj, bne, beq_eq_decide]
  | lt | gt => simp [compareN, cmpHolds, BitVec.ult_eq_decide]
  | le | ge => simp [compareN, cmpHolds, ← BitVec.ule_eq_not_ult, BitVec.ule_eq_decide]

/-! ### Dot product (R140) -/

theorem foldl_add_ofInt {w : Nat} (f : Nat → Int) (xs : List Nat) (c : Int) :
    xs.foldl (fun r j => r + BitVec.ofInt w (f j)) (BitVec.ofInt w c) = BitVec.ofInt w (c + (xs.map f).sum) := by
  induction xs generalizing c with
  | nil => simp
  | cons x xs ih => rw [List.foldl_cons, ← BitVec.ofInt_add, ih, List.map_cons, List.sum_cons, Int.add_assoc]

theorem foldl_add_ofNat {w : Nat} (f : Nat → Nat) (xs : List Nat) (c : Nat) :
    xs.foldl (fun r j => r + BitVec.ofNat w (f j)) (BitVec.ofNat w c) = BitVec.ofNat w (c + (xs.map f).sum) := by
  induction xs generalizing c with
  | nil => simp
  | cons x xs ih => rw [List.foldl_cons, ← BitVec.ofNat_add, ih, List.map_cons, List.sum_cons, Nat.add_assoc]

theorem dot4_signed (x y c : Word) : dot4 true x y c = BitVec.ofInt 32 (c.toInt + ((List.range 4).map fun j =>
    (x.extractLsb' (8 * j) 8).toInt * (y.extractLsb' (8 * j) 8).toInt).sum) := by
  have hprod : ∀ u v : Byte, sx 32 u * sx 32 v = BitVec.ofInt 32 (u.toInt * v.toInt) := fun u v => (BitVec.ofInt_mul _ _).symm
  rw [← foldl_add_ofInt, BitVec.ofInt_toInt]
  simp only [dot4, if_true, hprod, byteAt]

theorem dot4_unsigned (x y c : Word) : dot4 false x y c = BitVec.ofNat 32 (c.toNat + ((List.range 4).map fun j =>
    (x.extractLsb' (8 * j) 8).toNat * (y.extractLsb' (8 * j) 8).toNat).sum) := by
  have hprod : ∀ u v : Byte, zx 32 u * zx 32 v = BitVec.ofNat 32 (u.toNat * v.toNat) := fun u v => by
    simp [zx, BitVec.ofNat_mul]
  rw [← foldl_add_ofNat, BitVec.ofNat_toNat, BitVec.setWidth_eq]
  simp only [dot4, Bool.false_eq_true, if_false, hprod, byteAt]

/-! ### Permutation (R143) -/

/-- Byte `n` of a pair of words. -/
theorem extract_byte_append (x y : Word) {n : Nat} (h : n < 8) :
    (y ++ x : BitVec 64).extractLsb' (8 * n) 8 = if n < 4 then byteAt x n else byteAt y (n - 4) := by
  split
  · exact BitVec.extractLsb'_append_eq_of_add_le (by omega)
  · rw [BitVec.extractLsb'_append_eq_of_le (by omega), byteAt]
    congr 1; omega

/-- The byte that nibble `j` of the selector picks. -/
def permByte (x y c : Word) (j : Nat) : Byte :=
  let n := (c.extractLsb' (4 * j) 4).toNat
  if 8 ≤ n then 0 else (y ++ x : BitVec 64).extractLsb' (8 * n) 8

theorem perm_eq (x y c : Word) : perm x y c = ofBytes4 (permByte x y c) := by
  unfold perm
  congr 1
  funext j
  have hn : bitsN c.toNat (4 * j) 4 = (c.extractLsb' (4 * j) 4).toNat := (BitVec.extractLsb'_toNat ..).symm
  simp only [permByte, hn]
  split
  · rfl
  · rw [extract_byte_append x y (by omega)]

/-! ### From a lane function to what the instruction gives in every active lane: a lemma for each shape of the integer class -/

/-- The words that leave their block (R55, R116, R131) have opcodes of the control class, below 0x020. -/
theorem leaves_of_op_ge {f : Fields} (h : 0x020 ≤ f.op.toNat) : f.leaves = false := by
  have hne : ∀ c : BitVec 9, c.toNat < 0x020 → (f.op == c) = false := fun c hc =>
    beq_eq_false_iff_ne.mpr fun e => by rw [e] at h; omega
  have h5 : ¬ f.op.toNat ≤ 5 := by omega
  have h13 : f.op.toNat ≠ 0x013 := by omega
  simp [Fields.leaves, Fields.isBranch, hne, h13, h5]

section Shapes
variable {i : Instr} {p : Pre} {op : BitVec 9} {d a b' c' : Reg} {b c : Src} {pd : BitVec 3}
  {res : Launch → Thread → LaneFx} {v : Launch → Thread → Word} {v2 : Launch → Thread → DWord} {vp : Launch → Thread → Bool}
variable (hop : (encode i).op = op) (hge : 0x020 ≤ op.toNat)
include hop hge

/-- A word of lane results alone, outside the control class, gives those results. The path hash, which the issue updates
before them, is none of their operands. -/
theorem gives_of_alu (lane : Launch → Thread → LaneFx) (hx : ∀ s, exec i s = alu (encode i) p lane s)
    (hhash : ∀ l t h, lane l { t with hash := h } = lane l t) (hres : ∀ l t, lane l t = res l t) : Gives i p res := by
  obtain rfl : lane = res := funext fun l => funext fun t => hres l t
  intro s us t0 b l w hready hgoes
  rw [hx]
  exact alu_completes hhash hready hgoes (.inl (leaves_of_op_ge (hop ▸ hge)))

theorem gives_alu1 (fn : Word → Word) (hx : ∀ s, exec i s = alu1 (encode i) p d a fn s)
    (hv : ∀ l t, fn (readReg l t a) = v l t) : Gives i p fun l t => oneReg d (v l t) :=
  gives_of_alu hop hge _ hx (fun _ _ _ => rfl) fun l t => congrArg (oneReg d) (hv l t)

theorem gives_alu32 (fn : Word → Word → Word) (hx : ∀ s, exec i s = alu32 (encode i) p d a b fn s)
    (hv : ∀ l t, fn (readReg l t a) (readSrc l t b) = v l t) : Gives i p fun l t => oneReg d (v l t) :=
  gives_of_alu hop hge _ hx (fun _ _ _ => rfl) fun l t => congrArg (oneReg d) (hv l t)

theorem gives_alu3 (fn : Word → Word → Word → Word) (hx : ∀ s, exec i s = alu3 (encode i) p d a b' c' fn s)
    (hv : ∀ l t, fn (readReg l t a) (readReg l t b') (readReg l t c') = v l t) : Gives i p fun l t => oneReg d (v l t) :=
  gives_of_alu hop hge _ hx (fun _ _ _ => rfl) fun l t => congrArg (oneReg d) (hv l t)

theorem gives_aluFunnel (fn : Word → Word → Word → Word) (hx : ∀ s, exec i s = aluFunnel (encode i) p d a b' c fn s)
    (hv : ∀ l t, fn (readReg l t a) (readReg l t b') (readSrc l t c) = v l t) : Gives i p fun l t => oneReg d (v l t) :=
  gives_of_alu hop hge _ hx (fun _ _ _ => rfl) fun l t => congrArg (oneReg d) (hv l t)

theorem gives_aluWide (fn : Word → Word → DWord) (hx : ∀ s, exec i s = aluWide (encode i) p d a b fn s)
    (hv : ∀ l t, fn (readReg l t a) (readSrc l t b) = v2 l t) : Gives i p fun l t => onePair d (v2 l t) :=
  gives_of_alu hop hge _ hx (fun _ _ _ => rfl) fun l t => congrArg (onePair d) (hv l t)

theorem gives_madWide (fn : Word → Word → DWord) (hx : ∀ s, exec i s = madWide (encode i) p d a b c' fn s)
    (hv : ∀ l t, fn (readReg l t a) (readSrc l t b) + readPair l t c' = v2 l t) : Gives i p fun l t => onePair d (v2 l t) :=
  gives_of_alu hop hge _ hx (fun _ _ _ => rfl) fun l t => congrArg (onePair d) (hv l t)

theorem gives_aluShift64 (fn : DWord → Word → DWord) (hx : ∀ s, exec i s = aluShift64 (encode i) p d a b fn s)
    (hv : ∀ l t, fn (readPair l t a) (readSrc l t b) = v2 l t) : Gives i p fun l t => onePair d (v2 l t) :=
  gives_of_alu hop hge _ hx (fun _ _ _ => rfl) fun l t => congrArg (onePair d) (hv l t)

theorem gives_icmp32 (fn : Word → Word → Bool) (hx : ∀ s, exec i s = icmp32 (encode i) p pd a b fn s)
    (hv : ∀ l t, fn (readReg l t a) (readSrc l t b) = vp l t) : Gives i p fun l t => onePred pd (vp l t) :=
  gives_of_alu hop hge _ hx (fun _ _ _ => rfl) fun l t => congrArg (onePred pd) (hv l t)

theorem gives_icmp64 (fn : DWord → DWord → Bool) (hx : ∀ s, exec i s = icmp64 (encode i) p pd a b fn s)
    (hv : ∀ l t, fn (readPair l t a) (readSrc64 l t b) = vp l t) : Gives i p fun l t => onePred pd (vp l t) :=
  gives_of_alu hop hge _ hx (fun _ _ _ => rfl) fun l t => congrArg (onePred pd) (hv l t)

/-- Quotient or remainder, with the flag idz for a divisor of zero (R134). -/
theorem gives_aluDiv (fn : Word → Word → Word × Word × Bool) (rem : Bool)
    (hx : ∀ s, exec i s = aluDiv (encode i) p d a b fn rem s) (hz : ∀ x y, (fn x y).2.2 = decide (y = 0))
    (hv : ∀ l t, (if rem then (fn (readReg l t a) (readSrc l t b)).2.1 else (fn (readReg l t a) (readSrc l t b)).1) = v l t) :
    Gives i p fun l t => { oneReg d (v l t) with flags := if readSrc l t b = 0 then 0x20#6 else 0 } := by
  refine gives_of_alu hop hge _ hx (fun _ _ _ => rfl) fun l t => ?_
  simp only [hz, hv, flagIf, decide_eq_true_eq]
  rfl

end Shapes

/-! ### The statements (R133–R140, R143) -/

/-- Settles O2: each product of the model is the exact product, truncated. -/
theorem multiply : Obligations.Multiply := by
  intro p d a b c
  refine ⟨?lo, ?highS, ?highN, ?wideS, ?wideN, ?madLo, ?madWideS, ?madWideN, ?mad64⟩
  case lo => exact gives_alu32 (enRRI_op 0x025 p d a b) (by decide) (· * ·) (fun _ => rfl) fun _ _ => mul_eq_ofNat _ _
  case highS =>
    exact gives_alu32 (enRRI_op 0x026 p d a b) (by decide) (fun x y => pairHi (mulWideS x y)) (fun _ => rfl) fun _ _ => by
      rw [mulWideS_eq, pairHi_ofInt]
  case highN =>
    exact gives_alu32 (enRRI_op 0x027 p d a b) (by decide) (fun x y => pairHi (mulWideN x y)) (fun _ => rfl) fun _ _ => by
      rw [mulWideN_eq, pairHi_ofNat]
  case wideS => exact gives_aluWide (enRRI_op 0x028 p d a b) (by decide) mulWideS (fun _ => rfl) fun _ _ => mulWideS_eq _ _
  case wideN => exact gives_aluWide (enRRI_op 0x029 p d a b) (by decide) mulWideN (fun _ => rfl) fun _ _ => mulWideN_eq _ _
  case madLo =>
    exact gives_of_alu (enRRIR_op 0x02A p d a b c) (by decide)
      (fun l t => oneReg d (readReg l t a * readSrc l t b + readReg l t c)) (fun _ => rfl) (fun _ _ _ => rfl) fun _ _ => by
        rw [mul_eq_ofNat, ofNat_add_self]
  case madWideS =>
    exact gives_madWide (enRRIR_op 0x02B p d a b c) (by decide) mulWideS (fun _ => rfl) fun _ _ => by
      rw [mulWideS_eq, ofInt_add_self]
  case madWideN =>
    exact gives_madWide (enRRIR_op 0x02C p d a b c) (by decide) mulWideN (fun _ => rfl) fun _ _ => by
      rw [mulWideN_eq, ofNat_add_self]
  case mad64 =>
    exact gives_of_alu (enRRIR_op 0x02D p d a b c) (by decide)
      (fun l t => onePair d (readPair l t a * readSrc64 l t b + readPair l t c)) (fun _ => rfl) (fun _ _ _ => rfl) fun _ _ => by
        rw [mul_eq_ofNat, ofNat_add_self]

/-- Settles O3: for a divisor of zero and for any other, quotient and remainder are the exact ones, truncated. -/
theorem divide : Obligations.Divide := by
  intro p d a b q r idz
  have hs : ∀ x y, (divS x y).2.2 = decide (y = 0) := fun x y => congrArg (·.2.2) (divS_eq x y)
  have hn : ∀ x y, (divN x y).2.2 = decide (y = 0) := fun x y => congrArg (·.2.2) (divN_eq x y)
  refine ⟨?quotS, ?remS, ?quotN, ?remN⟩
  case quotS =>
    exact gives_aluDiv (enRRI_op 0x02E p d a b) (by decide) divS false (fun _ => rfl) hs fun _ _ => congrArg Prod.fst (divS_eq _ _)
  case remS =>
    exact gives_aluDiv (enRRI_op 0x030 p d a b) (by decide) divS true (fun _ => rfl) hs fun _ _ => congrArg (·.2.1) (divS_eq _ _)
  case quotN =>
    exact gives_aluDiv (enRRI_op 0x02F p d a b) (by decide) divN false (fun _ => rfl) hn fun _ _ => congrArg Prod.fst (divN_eq _ _)
  case remN =>
    exact gives_aluDiv (enRRI_op 0x031 p d a b) (by decide) divN true (fun _ => rfl) hn fun _ _ => congrArg (·.2.1) (divN_eq _ _)

/-- Settles O4: the model keeps the operand whose value is the smaller or the larger one. -/
theorem minimumMaximum : Obligations.MinimumMaximum := fun p d a b =>
  ⟨gives_alu32 (enRRI_op 0x032 p d a b) (by decide) minS (fun _ => rfl) fun _ _ => minS_eq _ _,
   gives_alu32 (enRRI_op 0x033 p d a b) (by decide) minN (fun _ => rfl) fun _ _ => minN_eq _ _,
   gives_alu32 (enRRI_op 0x034 p d a b) (by decide) maxS (fun _ => rfl) fun _ _ => maxS_eq _ _,
   gives_alu32 (enRRI_op 0x035 p d a b) (by decide) maxN (fun _ => rfl) fun _ _ => maxN_eq _ _⟩

/-- Settles O5: LUT3's function is the fold `lut3` over the bit positions, each of which sets its own bit. -/
theorem logic : Obligations.Logic := fun p d a b' c b tbl =>
  ⟨gives_alu32 (enRRI_op 0x038 p d a b) (by decide) (· &&& ·) (fun _ => rfl) fun _ _ => rfl,
   gives_alu32 (enRRI_op 0x039 p d a b) (by decide) (· ||| ·) (fun _ => rfl) fun _ _ => rfl,
   gives_alu32 (enRRI_op 0x03A p d a b) (by decide) (· ^^^ ·) (fun _ => rfl) fun _ _ => rfl,
   gives_alu1 (enRR_op 0x03B p d a) (by decide) (~~~ ·) (fun _ => rfl) fun _ _ => rfl,
   lut3 tbl,
   gives_alu3 (enLut_op 0x03C p d a b' c tbl) (by decide) (lut3 tbl) (fun _ => rfl) fun _ _ => rfl,
   fun x y z _ hi => getLsbD_lut3 tbl x y z hi⟩

/-- Settles O6: an amount at or past the width shifts everything out. -/
theorem shifts : Obligations.Shifts := by
  intro p d a b' b c
  refine ⟨?shl, ?shr, ?sar, ?rot, ?funnelL, ?funnelR, ?shl64, ?shr64, ?sar64⟩
  case shl => exact gives_alu32 (enRRI_op 0x03D p d a b) (by decide) shlW (fun _ => rfl) fun _ _ => shlW_eq _ _
  case shr => exact gives_alu32 (enRRI_op 0x03E p d a b) (by decide) shrW (fun _ => rfl) fun _ _ => shrW_eq _ _
  case sar => exact gives_alu32 (enRRI_op 0x03F p d a b) (by decide) sarW (fun _ => rfl) fun _ _ => rfl
  case rot =>
    exact gives_alu32 (enRRI_op 0x040 p d a b) (by decide) (fun x n => x.rotateLeft (n.toNat % 32)) (fun _ => rfl) fun _ _ => rfl
  case funnelL =>
    exact gives_aluFunnel (enRRRI_op 0x041 p d a b' c) (by decide) funnelL (fun _ => rfl) fun _ _ => pairHi_eq_extract _
  case funnelR =>
    exact gives_aluFunnel (enRRRI_op 0x042 p d a b' c) (by decide) funnelR (fun _ => rfl) fun _ _ => pairLo_eq_extract _
  case shl64 => exact gives_aluShift64 (enRRI_op 0x063 p d a b) (by decide) shlW (fun _ => rfl) fun _ _ => shlW_eq _ _
  case shr64 => exact gives_aluShift64 (enRRI_op 0x064 p d a b) (by decide) shrW (fun _ => rfl) fun _ _ => shrW_eq _ _
  case sar64 => exact gives_aluShift64 (enRRI_op 0x065 p d a b) (by decide) sarW (fun _ => rfl) fun _ _ => rfl

/-- Settles O7: counts and the reversal bit by bit, the fields by quotient and remainder of powers of two. -/
theorem bitOperations : Obligations.BitOperations := by
  intro p d a b c pos len
  have hpos : ∀ y, fieldPos y = pos y := fieldPos_eq
  have hlen : ∀ y, fieldLen y = len y := fieldLen_eq
  refine ⟨?popc, ⟨leadingZeros, ?clz, leadingZeros_spec⟩, ⟨brev, ?brev, fun x _ hi => getLsbD_brev x hi⟩, ?bfeN, ?bfeS, ?bfi⟩
  case popc =>
    exact gives_alu1 (enRR_op 0x043 p d a) (by decide) popc (fun _ => rfl) fun _ _ => congrArg (BitVec.ofNat 32) (sum_boolBit _ _)
  case clz => exact gives_alu1 (enRR_op 0x044 p d a) (by decide) clz (fun _ => rfl) fun _ _ => clz_eq _
  case brev => exact gives_alu1 (enRR_op 0x045 p d a) (by decide) brev (fun _ => rfl) fun _ _ => rfl
  case bfeN =>
    exact gives_alu32 (enRRI_op 0x047 p d a b) (by decide) (bfe false) (fun _ => rfl) fun _ _ => by rw [bfe_unsigned, hpos, hlen]
  case bfeS =>
    exact gives_alu32 (enRRI_op 0x046 p d a b) (by decide) (bfe true) (fun _ => rfl) fun _ _ => by rw [bfe_signed, hpos, hlen]
  case bfi =>
    exact gives_of_alu (enRRIR_op 0x048 p d a b c) (by decide) (fun l t => oneReg d (bfi (readReg l t a) (readSrc l t b) (readReg l t c)))
      (fun _ => rfl) (fun _ _ _ => rfl) fun _ _ => by rw [bfi, hpos, hlen]

/-- Settles O8: the model's comparison of words is that of their exact values. -/
theorem compareSelect : Obligations.CompareSelect := by
  intro p cmp pd ps nps d a b holds
  have hc : holds = cmpHolds cmp := rfl
  rw [hc]
  refine ⟨?s32, ?n32, ?s64, ?n64, ?pick⟩
  case s32 => exact gives_icmp32 (enIcmp_op 0x049 p cmp pd a b) (by decide) (compareS cmp) (fun _ => rfl) fun _ _ => compareS_eq _ _ _
  case n32 => exact gives_icmp32 (enIcmp_op 0x04A p cmp pd a b) (by decide) (compareN cmp) (fun _ => rfl) fun _ _ => compareN_eq _ _ _
  case s64 => exact gives_icmp64 (enIcmp_op 0x04B p cmp pd a b) (by decide) (compareS cmp) (fun _ => rfl) fun _ _ => compareS_eq _ _ _
  case n64 => exact gives_icmp64 (enIcmp_op 0x04C p cmp pd a b) (by decide) (compareN cmp) (fun _ => rfl) fun _ _ => compareN_eq _ _ _
  case pick =>
    exact gives_of_alu (enIpick_op 0x04D p d a b ps nps) (by decide)
      (fun l t => oneReg d (if readPred t ps.toNat != nps then readReg l t a else readSrc l t b)) (fun _ => rfl) (fun _ _ _ => rfl)
      fun _ _ => rfl

/-- Settles O9: truncation is additive, so the sum may be truncated at the end or, as the model does, at each term. -/
theorem dotProduct : Obligations.DotProduct := fun p d a b c =>
  ⟨gives_alu3 (enRRRR_op 0x04E p d a b c) (by decide) (dot4 true) (fun _ => rfl) fun _ _ => dot4_signed _ _ _,
   gives_alu3 (enRRRR_op 0x04F p d a b c) (by decide) (dot4 false) (fun _ => rfl) fun _ _ => dot4_unsigned _ _ _⟩

/-- Settles O12: the eight source bytes are those of the 64-bit word B, A. -/
theorem permute : Obligations.Permute := fun p d a b c =>
  gives_aluFunnel (enRRRI_op 0x05C p d a b c) (by decide) perm (fun _ => rfl) fun _ _ => perm_eq _ _ _

end Sys2Proof.Proofs.Integer
